-- ==== Sys2Proof/Word.lean ====
section
/-! DEFINITION. The machine's word types, the sparse map every store of the model is made of, and the small
enumerations that name strands, engines, trap causes and account causes. -/

namespace Sys2Proof

/-- A 64-bit register value. -/
abbrev Word := BitVec 64
/-- One byte of memory or scratchpad. -/
abbrev Byte := BitVec 8
/-- One 256-byte vector register (R61). -/
abbrev VReg := BitVec 2048
/-- One 128-byte cache line (R244, R247). -/
abbrev Line := BitVec 1024
/-- A 6-bit register field: x0 to x63 or v0 to v63 (R50). -/
abbrev Reg := BitVec 6

/-- A sparse table: keys strictly rising, no entry equal to the value an unlisted key reads as. -/
abbrev SMap (α : Type) := List (Nat × α)

/-- The four strands of a context in ring order C, L, X, S (R53). -/
inductive Strand where
  | c | l | x | s
  deriving DecidableEq, Repr, Inhabited

/-- The four engines of a plate (R69, R87). -/
inductive Engine where
  | mxe | txe | ude | cpe
  deriving DecidableEq, Repr, Inhabited

/-- Four things of one kind: one for each strand, engine or die. -/
structure Quad (α : Type) where
  q0 : α
  q1 : α
  q2 : α
  q3 : α
  deriving DecidableEq, Repr

/-- Privilege level of a context (R88 to R90). -/
inductive Priv where
  | u | s
  deriving DecidableEq, Repr, Inhabited

/-- Slot causes in the order of their codes (R340). -/
inductive Slot where
  | issue | dep | token | qfull | bankport | ifetch | dmem | fewait | barrier | stale | grant | wake
  | scalever | trap | switch | idle
  deriving DecidableEq, Repr, Inhabited

/-- Engine causes in the order of their codes (R343). -/
inductive EngCause where
  | busy | input | grant | guard | bank | backpressure | idle
  deriving DecidableEq, Repr, Inhabited

/-- Trap causes (R212). -/
inductive Cause where
  | illegal | priv | misalign | page | prot | eccUncorr | mxBank | tensorOvf | postmarkStale | scaleInv
  | proofMismatch | sigMismatch | xeOvf | capacity | qfullTimeout | bbOverrun | staleTimeout | swtrap | watch
  deriving DecidableEq, Repr, Inhabited

end Sys2Proof
end

