-- ==== Sys2Proof/Syntax.lean ====
section
/-! DEFINITION. The syntax: `Instr`, one constructor for each row of spec/opcode_table.json, and the plain-data
arguments of the rows that are events or commands and have no encoding. -/

namespace Sys2Proof

/-- The token bits [25:22] (PP, PN, QP, QN from bit 3 down) and the SY bit of an ordinary word (R49). -/
structure Ctl where
  tk : BitVec 4
  sy : Bool
  deriving DecidableEq, Repr

/-- An Amibuley flit as it arrives at a port (R302). -/
structure Flit where
  crc     : BitVec 32
  off     : BitVec 28
  fae     : BitVec 12
  fmt     : BitVec 4
  seq     : BitVec 8
  dstdev  : BitVec 12
  srcdev  : BitVec 12
  len     : BitVec 8
  rop     : Bool
  last    : Bool
  gen     : Bool
  kind    : BitVec 3
  vc      : BitVec 2
  payload : List Byte
  deriving DecidableEq, Repr

/-- What barrier-tree nodes tell one another over the control channel (R305): a member context of another device by
device, PLATEID and CTXID, or a completed boundary with the new count. -/
inductive TreeMsg where
  | arrive (dom : BitVec 10) (dev : BitVec 12) (plate : BitVec 9) (id : BitVec 32)
  | join (dom : BitVec 10) (dev : BitVec 12) (plate : BitVec 9) (id : BitVec 32)
  | withdraw (dom : BitVec 10) (dev : BitVec 12) (plate : BitVec 9) (id : BitVec 32)
  | complete (dom : BitVec 10) (count : Word)
  /-- A completed boundary whose members stay until the parent's (R306), and their release. -/
  | completeJoint (dom : BitVec 10) (count : Word)
  | release (dom : BitVec 10)
  /-- A domain without members has taken a join, its count unchanged (R197). -/
  | taken (dom : BitVec 10) (dev : BitVec 12) (plate : BitVec 9) (id : BitVec 32) (count : Word)
  /-- The members of every device, as the root holds them; `force` when a boundary has put them in force (R307). -/
  | roster (dom : BitVec 10) (force : Bool) (members : List (BitVec 12 × BitVec 9 × BitVec 32))
  /-- A child domain holds no members (0), holds members (1), or arrives (2) (R198, R306). -/
  | kid (parent child : BitVec 10) (what : BitVec 2)
  /-- A member's record in an agreement, and its elements in a collective (R235, R311). -/
  | propose (group : BitVec 10) (key : Nat) (who : BitVec 12 × BitVec 9 × BitVec 32) (fmt : Nat) (e : Int)
  | share (group : BitVec 10) (key : Nat) (who : BitVec 12 × BitVec 9 × BitVec 32) (els : List Nat)
  /-- The new target of a fabric address entry holds every marker: FWD and ARM clear (R304). -/
  | settle (fae : BitVec 12)
  deriving DecidableEq, Repr

/-- An incoming channel of a die (R371): from another die on channel 0 to 2, or from a port on a virtual channel. -/
inductive Chan where
  | die (src : BitVec 2) (chan : BitVec 2)
  | port (port : BitVec 4) (vc : BitVec 2)
  deriving DecidableEq, Repr

/-- The mailbox a command came through (`none` the host's, `some d` the supervisor mailbox of die d) and its TAG (R376, R377). -/
structure Mail where
  sup : Option (BitVec 2)
  tag : BitVec 32
  deriving DecidableEq, Repr

/-- A firmware image: the fields of its header and its body (R381). -/
structure FwImage where
  version : BitVec 32
  counter : Nat
  body    : List Byte
  sigEd   : List Byte
  sigMl   : List Byte
  deriving DecidableEq, Repr, Inhabited

/-- What KILL and THAW release (R360, R363). -/
inductive Master where
  | ctx (id : BitVec 32)
  | host
  | peer (port : BitVec 4) (dev : BitVec 12)
  deriving DecidableEq, Repr

/-- A breakpoint or watchpoint comparator (R364 to R366). -/
inductive Comparator where
  | instr (slot : BitVec 3) (en : Bool) (asid : BitVec 12) (ctx : Option (BitVec 32)) (addr : Word)
  | engine (slot : BitVec 2) (en : Bool) (asid : BitVec 12) (ctx : Option (BitVec 32)) (spc : Word) (esn : Option (BitVec 32))
  | watch (slot : BitVec 2) (en : Bool) (asid : BitVec 12) (ctx : Option (BitVec 32)) (base : Word) (len : BitVec 33)
      (kinds : BitVec 5) (trap : Bool)
  deriving DecidableEq, Repr

/-- The arrays in which a bit can be upset (R357). -/
inductive SramArray where
  | regcache (ctx : BitVec 32) (off : Nat)
  | icache (plate : BitVec 9) | metacache (plate : BitVec 9) | tlb (plate : BitVec 9)
  | l1 (plate : BitVec 9) (line : Nat)
  | scratchpad (ctx : BitVec 32) (off : Nat)
  | accumulator (ctx : BitVec 32) (tile : BitVec 2) (row col : BitVec 7)
  | stencil (ctx : BitVec 32) (slot : Reg)
  | queue (ctx : BitVec 32) (e : Engine) (pos : Nat)
  | l2 (die : BitVec 2) (line : Nat)
  | memory (pa : Nat)
  deriving DecidableEq, Repr

/-- An upset: where, and whether SECDED can correct it (one bit) or not (two bits). -/
structure Upset where
  array  : SramArray
  double : Bool
  deriving DecidableEq, Repr

/-- One entry of the row maps of stage 3: a unit and the highest point at which it fails (R262, R268). -/
inductive RowFail where
  | main (plate : BitVec 9) (row : BitVec 9) (point : BitVec 3)
  | spare (plate : BitVec 9) (sp : BitVec 4) (point : BitVec 3)
  | regLine (plate : BitVec 9) (bank : BitVec 4) (line : BitVec 5) (point : BitVec 3)
  | l2Way (die : BitVec 2) (slice : BitVec 8) (way : BitVec 5) (point : BitVec 3)
  | die (die : BitVec 2)
  deriving DecidableEq, Repr

/-- The steps of the machine: the 182 words and the 126 events and commands of spec/opcode_table.json. -/
inductive Instr where
  | add (k : Ctl) (d a b : Reg)
  | sub (k : Ctl) (d a b : Reg)
  | and (k : Ctl) (d a b : Reg)
  | or (k : Ctl) (d a b : Reg)
  | xor (k : Ctl) (d a b : Reg)
  | shl (k : Ctl) (d a b : Reg)
  | shr (k : Ctl) (d a b : Reg)
  | sar (k : Ctl) (d a b : Reg)
  | mul (k : Ctl) (d a b : Reg)
  | mulh (k : Ctl) (d a b : Reg)
  | mulhu (k : Ctl) (d a b : Reg)
  | min (k : Ctl) (d a b : Reg)
  | max (k : Ctl) (d a b : Reg)
  | minu (k : Ctl) (d a b : Reg)
  | maxu (k : Ctl) (d a b : Reg)
  | andn (k : Ctl) (d a b : Reg)
  | div (k : Ctl) (d a b : Reg)
  | divu (k : Ctl) (d a b : Reg)
  | rem (k : Ctl) (d a b : Reg)
  | remu (k : Ctl) (d a b : Reg)
  | slt (k : Ctl) (d a b : Reg)
  | sltu (k : Ctl) (d a b : Reg)
  | orn (k : Ctl) (d a b : Reg)
  | clz (k : Ctl) (d a : Reg)
  | ctz (k : Ctl) (d a : Reg)
  | popc (k : Ctl) (d a : Reg)
  | brev (k : Ctl) (d a : Reg)
  | abs (k : Ctl) (d a : Reg)
  | sxb (k : Ctl) (d a : Reg)
  | sxh (k : Ctl) (d a : Reg)
  | sxw (k : Ctl) (d a : Reg)
  | addi (k : Ctl) (d a : Reg) (i : BitVec 9)
  | andi (k : Ctl) (d a : Reg) (i : BitVec 9)
  | ori (k : Ctl) (d a : Reg) (i : BitVec 9)
  | xori (k : Ctl) (d a : Reg) (i : BitVec 9)
  | shli (k : Ctl) (d a : Reg) (n : BitVec 6)
  | shri (k : Ctl) (d a : Reg) (n : BitVec 6)
  | sari (k : Ctl) (d a : Reg) (n : BitVec 6)
  | slti (k : Ctl) (d a : Reg) (i : BitVec 9)
  | sltiu (k : Ctl) (d a : Reg) (i : BitVec 9)
  | li (k : Ctl) (d : Reg) (i : BitVec 15)
  | lsi (k : Ctl) (d : Reg) (i : BitVec 15)
  | adds1 (k : Ctl) (d a b : Reg)
  | adds2 (k : Ctl) (d a b : Reg)
  | adds3 (k : Ctl) (d a b : Reg)
  | adds4 (k : Ctl) (d a b : Reg)
  | bfx (k : Ctl) (d a b : Reg)
  | bfi (k : Ctl) (d a b : Reg)
  | ptox (k : Ctl) (d : Reg) (p : BitVec 4)
  | xtop (k : Ctl) (p : BitVec 4) (a : Reg)
  | sel (k : Ctl) (d a b : Reg) (p : BitVec 3)
  | cmp (k : Ctl) (p : BitVec 4) (a b : Reg) (c : BitVec 3) (m : BitVec 2)
  | cmpi (k : Ctl) (p : BitVec 4) (a : Reg) (i : BitVec 6) (c : BitVec 3) (m : BitVec 2)
  | pand (k : Ctl) (p q r : BitVec 4)
  | por (k : Ctl) (p q r : BitVec 4)
  | pxor (k : Ctl) (p q r : BitVec 4)
  | pandn (k : Ctl) (p q r : BitVec 4)
  | pnot (k : Ctl) (p q r : BitVec 4)
  | pmov (k : Ctl) (p q r : BitVec 4)
  | pset (k : Ctl) (p q r : BitVec 4)
  | pclr (k : Ctl) (p q r : BitVec 4)
  | bpt (k : Ctl) (n : BitVec 2) (o : BitVec 19)
  | bpr (k : Ctl) (n : BitVec 2) (a : Reg)
  | jtab (k : Ctl) (a b : Reg)
  | btox (k : Ctl) (d : Reg) (n : BitVec 2)
  | jd (k : Ctl) (n : BitVec 2) (p : BitVec 4) (g : Bool) (e : BitVec 2) (l : Bool)
  | lps (k : Ctl) (a : Reg) (s : BitVec 3)
  | lbr (k : Ctl) (n : BitVec 2)
  | lcr (k : Ctl) (d : Reg)
  | lcw (k : Ctl) (a : Reg)
  | vany (k : Ctl) (p : BitVec 4) (v : BitVec 3)
  | vall (k : Ctl) (p : BitVec 4) (v : BitVec 3)
  | vnone (k : Ctl) (p : BitVec 4) (v : BitVec 3)
  | ld (k : Ctl) (d a : Reg) (s : BitVec 4) (h : BitVec 2) (z : BitVec 3)
  | ldp (k : Ctl) (d a : Reg) (s : BitVec 4) (h : BitVec 2) (z : BitVec 3)
  | st (k : Ctl) (c a : Reg) (h : BitVec 2) (z : BitVec 3)
  | stp (k : Ctl) (c a : Reg) (h : BitVec 2) (z : BitVec 3)
  | ldacq (k : Ctl) (d a : Reg) (c : BitVec 2)
  | strel (k : Ctl) (c : BitVec 2) (a b : Reg)
  | ldfe (k : Ctl) (d a : Reg)
  | stfe (k : Ctl) (a b : Reg)
  | ldf (k : Ctl) (d a : Reg)
  | stf (k : Ctl) (a b : Reg)
  | fepr (k : Ctl) (p : BitVec 4) (a : Reg)
  | feset (k : Ctl) (a b : Reg)
  | fence (k : Ctl) (m : BitVec 4) (c : BitVec 2)
  | rpub (k : Ctl) (a : Reg)
  | rview (k : Ctl) (d a : Reg)
  | cwbr (k : Ctl) (a b : Reg)
  | cinvr (k : Ctl) (a b : Reg)
  | cpin (k : Ctl) (n : BitVec 3) (a b : Reg)
  | cunpin (k : Ctl) (n : BitVec 3)
  | pref (k : Ctl) (a : Reg)
  | aadd (k : Ctl) (d a b : Reg)
  | amax (k : Ctl) (d a b : Reg)
  | amin (k : Ctl) (d a b : Reg)
  | aand (k : Ctl) (d a b : Reg)
  | aor (k : Ctl) (d a b : Reg)
  | axor (k : Ctl) (d a b : Reg)
  | aswp (k : Ctl) (d a b : Reg)
  | afadd (k : Ctl) (d a b : Reg)
  | acas (k : Ctl) (d a b : Reg)
  | acasW (k : Ctl) (d a b : Reg)
  | vadd (k : Ctl) (d a b : Reg)
  | vsub (k : Ctl) (d a b : Reg)
  | vmul (k : Ctl) (d a b : Reg)
  | vfma (k : Ctl) (d a b : Reg)
  | vmax (k : Ctl) (d a b : Reg)
  | vmin (k : Ctl) (d a b : Reg)
  | vfms (k : Ctl) (d a b : Reg)
  | vabd (k : Ctl) (d a b : Reg)
  | viadd (k : Ctl) (d a b : Reg)
  | visub (k : Ctl) (d a b : Reg)
  | vimul (k : Ctl) (d a b : Reg)
  | vand (k : Ctl) (d a b : Reg)
  | vor (k : Ctl) (d a b : Reg)
  | vxor (k : Ctl) (d a b : Reg)
  | vshl (k : Ctl) (d a b : Reg)
  | vshr (k : Ctl) (d a b : Reg)
  | vneg (k : Ctl) (d a : Reg)
  | vabs (k : Ctl) (d a : Reg)
  | vrcp (k : Ctl) (d a : Reg)
  | vrsq (k : Ctl) (d a : Reg)
  | vex2 (k : Ctl) (d a : Reg)
  | vlg2 (k : Ctl) (d a : Reg)
  | vflr (k : Ctl) (d a : Reg)
  | vmov (k : Ctl) (d a : Reg)
  | vcvt (k : Ctl) (d a : Reg) (t s : BitVec 4) (u : Bool)
  | vcmp (k : Ctl) (p : BitVec 3) (a b : Reg) (c : BitVec 3)
  | vsel (k : Ctl) (d a b : Reg)
  | vprm (k : Ctl) (d a b : Reg)
  | vbc (k : Ctl) (d a : Reg)
  | vext (k : Ctl) (d a b : Reg)
  | vins (k : Ctl) (d a b : Reg)
  | vrot (k : Ctl) (d a b : Reg)
  | vzip (k : Ctl) (d a b : Reg)
  | vuzp (k : Ctl) (d a b : Reg)
  | vradd (k : Ctl) (d a : Reg)
  | vrmax (k : Ctl) (d a : Reg)
  | vrmin (k : Ctl) (d a : Reg)
  | vdot (k : Ctl) (d a b : Reg)
  | vramx (k : Ctl) (d a : Reg)
  | vqnt (k : Ctl) (d a : Reg) (h : BitVec 5)
  | vdq (k : Ctl) (d a : Reg) (h : BitVec 5)
  | vhist (k : Ctl) (a : Reg) (h : BitVec 5)
  | vscx (k : Ctl) (d a : Reg) (h : BitVec 5)
  | mdbind (k : Ctl) (a : Reg) (h : BitVec 5)
  | mdclose (k : Ctl) (h : BitVec 5)
  | mdread (k : Ctl) (d a : Reg) (h : BitVec 5)
  | mdset (k : Ctl) (a : Reg) (h : BitVec 5)
  | mdpm (k : Ctl) (d a : Reg) (h : BitVec 5)
  | mdwait (k : Ctl) (a : Reg) (h : BitVec 5)
  | stld (k : Ctl) (s : BitVec 6) (a : Reg)
  | stwr (k : Ctl) (s : BitVec 6) (a : Reg) (f : BitVec 4)
  | strd (k : Ctl) (d : Reg) (s : BitVec 6) (f : BitVec 4)
  | gset (k : Ctl) (g : BitVec 4) (a : Reg)
  | gclr (k : Ctl) (g : BitVec 4)
  | phase (k : Ctl)
  | phwt (k : Ctl) (d a : Reg)
  | dmjoin (k : Ctl) (a : Reg)
  | dmleave (k : Ctl)
  | bbpost (k : Ctl) (a b : Reg)
  | bbwt (k : Ctl) (d a b : Reg)
  | waitc (k : Ctl) (a b : Reg)
  | req (k : Ctl) (a b : Reg)
  | tspawn (k : Ctl) (d a : Reg)
  | tend (k : Ctl) (a : Reg)
  | pwreq (k : Ctl) (d a : Reg)
  | pwrel (k : Ctl)
  | accr (k : Ctl) (d : Reg) (c : BitVec 4)
  | esnr (k : Ctl) (d : Reg)
  | csrr (k : Ctl) (d : Reg) (c : BitVec 9)
  | csrw (k : Ctl) (a : Reg) (c : BitVec 9)
  | csrs (k : Ctl) (c : BitVec 9) (a : Reg)
  | csrc (k : Ctl) (c : BitVec 9) (a : Reg)
  | eret (k : Ctl)
  | tlbi (k : Ctl) (a b : Reg)
  | fencei (k : Ctl)
  | wfe (k : Ctl)
  | halt (k : Ctl)
  | trap (k : Ctl) (i : BitVec 15)
  | stamp (tk : BitVec 4) (slot : Reg) (fsel : BitVec 4) (val : BitVec 16)
  | guardDiscard (e : Engine)
  | powerGrant (die : BitVec 2)
  | unitReturn (die : BitVec 2)
  | commandCompletion (e : Engine)
  | rd (src dst : BitVec 2)
  | wr (src dst : BitVec 2)
  | atMsg (src dst : BitVec 2)
  | inv (src dst : BitVec 2)
  | dataMsg (src dst : BitVec 2)
  | ack (src dst : BitVec 2)
  | conflict (src dst : BitVec 2)
  | retry (src dst : BitVec 2)
  | linkDown (port : BitVec 4)
  | boundaryComplete (dom : BitVec 10)
  | regionPush (r : BitVec 8)
  | ringPoll (die : BitVec 2)
  | heldFireRetry (die : BitVec 2)
  | taskReady (die : BitVec 2)
  | taskDispatch (die : BitVec 2)
  | preempt (die : BitVec 2)
  | downwardStep (die : BitVec 2)
  | upwardStep (die : BitVec 2)
  | thermalBudgetLower (die : BitVec 2)
  | thermalStep (die : BitVec 2)
  | thermalTrip (die : BitVec 2)
  | scrub (die : BitVec 2)
  | dumpRecord (die : BitVec 2)
  | dumpMarker (die : BitVec 2) (chan : Chan)
  | hbmTraining (passed : BitVec 4)
  | rowTesting (fails : List RowFail)
  | plateBinding (bind : List (BitVec 9 × BitVec 8))
  | correctedErrorEvent (die : BitVec 2) (array : BitVec 8)
  | msixVectorFire (v : BitVec 2)
  | remap (die : BitVec 2)
  | atomicReply
  | loadResultLand
  | bundleIssue
  | join
  | mwl
  | mma
  | mdr
  | maz
  | mas
  | mar
  | xtr
  | xfw
  | uaw
  | usm
  | uax
  | uns
  | cpy
  | cpyPm
  | cpyCv
  | cpg
  | cps
  | cpm
  | cpl
  | cpz
  | histogramUpdate
  | iterationClose
  | recordStore
  | boundaryRelease
  | phwtTimeout
  | bbwtDone
  | bbwtTimeout
  | qfullTimeout
  | tspawnTimeout
  | pwreqTimeout
  | staleTimeout
  | allreduce
  | reducescatter
  | allgather
  | broadcast
  | agree
  | barrier
  | collectiveComplete
  | fireCopy
  | fireSum
  | fireMax
  | continuationEnqueue
  | traceSample
  | enqueue
  | functionLevelReset
  | powerOnReset
  | cycleCharge
  | write (port : BitVec 4) (f : Flit)
  | reduce (port : BitVec 4) (f : Flit)
  | readRequest (port : BitVec 4) (f : Flit)
  | readReply (port : BitVec 4) (f : Flit)
  | control (port : BitVec 4) (f : Flit)
  | flipMarker (port : BitVec 4) (f : Flit)
  | link (port : BitVec 4) (f : Flit)
  | stop (port : BitVec 4) (vc : BitVec 2)
  | go (port : BitVec 4) (vc : BitVec 2)
  | replay (port : BitVec 4) (seq : BitVec 8)
  | info (m : Mail)
  | attest (m : Mail) (nonce : BitVec 256)
  | fwLoad (m : Mail) (image : FwImage)
  | fwCommit (m : Mail)
  | queueSet (m : Mail) (die : BitVec 2) (queue : BitVec 4) (asid : BitVec 12) (root : Word) (priv : Priv) (accbase accctl : Word)
  | domainCreate (m : Mail) (dom : BitVec 10) (asid : BitVec 12) (rootDie : BitVec 2) (rootDev : BitVec 12) (parent : Option (BitVec 10)) (k : BitVec 8)
  | regionSet (m : Mail) (r : BitVec 8) (entry : Word)
  | policySet (m : Mail) (index : BitVec 4) (entry : BitVec 256)
  | carve (m : Mail) (die : BitVec 2) (count : BitVec 8)
  | retnGrant (m : Mail) (die : BitVec 2) (index : BitVec 3) (en : Bool) (asid : BitVec 12)
  | fatSet (m : Mail) (entry : BitVec 12) (flipdom : BitVec 10) (map len : Word)
  | fatArm (m : Mail) (entry : BitVec 12) (map len : Word)
  | devidSet (m : Mail) (id : BitVec 12)
  | opSet (m : Mail) (die : BitVec 2) (point : BitVec 3)
  | budget (m : Mail) (die : BitVec 2) (units : BitVec 16)
  | rowmapRead (m : Mail) (die : BitVec 2) (off len : BitVec 32)
  | eventRead (m : Mail) (die : BitVec 2) (off len : BitVec 32)
  | kill (m : Mail) (target : Master)
  | thaw (m : Mail) (target : Master)
  | thawMode1 (m : Mail) (target : Master)
  | acctRead (m : Mail) (die : BitVec 2) (off len : BitVec 32)
  | imageMove (m : Mail) (ctx : BitVec 32) (dev : BitVec 12) (die : BitVec 2)
  | dbgSet (m : Mail) (plate : BitVec 9) (comp : Comparator)
  | dbgResume (m : Mail) (ctx : BitVec 32) (steps : BitVec 32) (engstep : Option Bool)
  | dbgTrace (m : Mail) (plate : BitVec 9) (base : Word) (logsz : BitVec 5) (kinds : BitVec 7) (interval : BitVec 5)
  | dbgInject (m : Mail) (ctx : BitVec 32) (upset : Upset)
  | dump (m : Mail) (group : List (BitVec 12)) (ranges : List (Word × Word)) (keep : Bool)
  | dumpRead (m : Mail) (die : BitVec 2) (off len : BitVec 32)
  | hqTailWrite (v : BitVec 32) (entries : List (BitVec 10 × List Word))
  | controlPageWrite (off : BitVec 12) (v : Word)
  | softError (u : Upset)
  deriving DecidableEq, Repr

end Sys2Proof
end

