-- ==== Sys2Proof/WellFormed.lean ====
section
/-! DEFINITION. What the opcode map reserves inside the fields of a word (R81, R83, R88, R91, R145): the checks of
a well-formed instruction, each with its own name. -/

namespace Sys2Proof

/-- CMP and CMPI: cc 6 and 7 are reserved (R81, R105). -/
def ccOk (c : BitVec 3) : Bool := decide (c.toNat ≤ 5)

/-- CMP and CMPI: mode 0b11 is reserved (R81, R105). -/
def modeOk (m : BitVec 2) : Bool := decide (m.toNat ≤ 2)

/-- ST and STP: sz 4 to 6 are reserved (R81, R121). -/
def storeSizeOk (z : BitVec 3) : Bool := decide (z.toNat ≤ 3) || decide (z.toNat = 7)

/-- GSET and GCLR: guard 0 is reserved (R83). -/
def guardOk (g : BitVec 4) : Bool := decide (g.toNat ≠ 0)

/-- The destinations VCVT has for a source format; no other pair exists (R145). -/
def conversions : Nat → List Nat
  | 0 => [1, 2, 3, 4, 5, 6, 9, 10, 11, 12, 13]
  | 1 => [0, 2, 3, 4, 5, 6]
  | 2 => [0, 1, 3, 4, 5, 6]
  | 3 | 4 | 5 | 6 => [0, 1, 2]
  | 9 => [0, 10]
  | 10 => [0, 9]
  | 11 => [0, 1]
  | 12 | 13 => [0]
  | _ => []

/-- The pair (src, dst) is in the conversion table of R145. -/
def convertible (src dst : BitVec 4) : Bool := (conversions src.toNat).contains dst.toNat

/-- The CSR numbers of R88. -/
def csrNumbers : List Nat :=
  [0x000, 0x001, 0x002, 0x003, 0x004, 0x008, 0x009, 0x00A, 0x00B, 0x00C, 0x00D, 0x00E, 0x010, 0x011,
   0x020, 0x021, 0x022, 0x023, 0x024, 0x025, 0x026, 0x030, 0x031, 0x032, 0x040, 0x041, 0x050, 0x051, 0x070, 0x071]

/-- The number is listed in R88; any other raises ILLEGAL (R89). -/
def csrListed (c : BitVec 9) : Bool := csrNumbers.contains c.toNat

/-- The fields of a word hold nothing the map reserves; an event has no such field. -/
def Instr.wellFormed : Instr → Bool
  | .cmp _ _ _ _ c m => ccOk c && modeOk m
  | .cmpi _ _ _ _ c m => ccOk c && modeOk m
  | .st _ _ _ _ z => storeSizeOk z
  | .stp _ _ _ _ z => storeSizeOk z
  | .vcvt _ _ _ t s _ => convertible s t
  | .gset _ g _ => guardOk g
  | .gclr _ g => guardOk g
  | .csrr _ _ c => csrListed c
  | .csrw _ _ c => csrListed c
  | .csrs _ c _ => csrListed c
  | .csrc _ c _ => csrListed c
  | _ => true

/-- The step is a word that a strand issues, not an event. -/
def Instr.isWord : Instr → Bool
  | .atomicReply | .loadResultLand | .bundleIssue | .join | .mwl | .mma
  | .mdr | .maz | .mas | .mar | .xtr | .xfw
  | .uaw | .usm | .uax | .uns | .cpy | .cpyPm
  | .cpyCv | .cpg | .cps | .cpm | .cpl | .cpz
  | .guardDiscard _ | .powerGrant _ | .unitReturn _ | .commandCompletion _ | .histogramUpdate | .iterationClose
  | .recordStore | .rd _ _ | .wr _ _ | .atMsg _ _ | .inv _ _ | .dataMsg _ _
  | .ack _ _ | .conflict _ _ | .retry _ _ | .write _ _ | .reduce _ _ | .readRequest _ _
  | .readReply _ _ | .control _ _ | .flipMarker _ _ | .link _ _ | .stop _ _ | .go _ _
  | .replay _ _ | .linkDown _ | .boundaryComplete _ | .boundaryRelease | .phwtTimeout | .bbwtDone
  | .bbwtTimeout | .qfullTimeout | .tspawnTimeout | .pwreqTimeout | .regionPush _ | .staleTimeout
  | .ringPoll _ | .allreduce | .reducescatter | .allgather | .broadcast | .agree
  | .barrier | .collectiveComplete | .fireCopy | .fireSum | .fireMax | .heldFireRetry _
  | .taskReady _ | .taskDispatch _ | .preempt _ | .continuationEnqueue | .downwardStep _ | .upwardStep _
  | .thermalBudgetLower _ | .thermalStep _ | .thermalTrip _ | .scrub _ | .traceSample | .dumpRecord _
  | .dumpMarker _ _ | .info _ | .attest _ _ | .fwLoad _ _ | .fwCommit _ | .queueSet _ _ _ _ _ _ _ _
  | .domainCreate _ _ _ _ _ _ _ | .regionSet _ _ _ | .policySet _ _ _ | .carve _ _ _ | .retnGrant _ _ _ _ _ | .fatSet _ _ _ _ _
  | .fatArm _ _ _ _ | .devidSet _ _ | .opSet _ _ _ | .budget _ _ _ | .rowmapRead _ _ _ _ | .eventRead _ _ _ _
  | .kill _ _ | .thaw _ _ | .thawMode1 _ _ | .acctRead _ _ _ _ | .imageMove _ _ _ _ | .dbgSet _ _ _
  | .dbgResume _ _ _ _ | .dbgTrace _ _ _ _ _ _ | .dbgInject _ _ _ | .dump _ _ _ _ | .dumpRead _ _ _ _ | .enqueue
  | .hqTailWrite _ _ | .controlPageWrite _ _ | .functionLevelReset | .powerOnReset | .hbmTraining _ | .rowTesting _
  | .plateBinding _ | .softError _ | .correctedErrorEvent _ _ | .msixVectorFire _ | .remap _ | .cycleCharge => false
  | _ => true

end Sys2Proof
end

