-- ==== Sys2Proof/Decode.lean ====
section
/-! DEFINITION. The decoder, total on any bytes and rejecting by name, and after it the encoder, both written from
the tables of spec/04_opcode_map.md (R49, R50, R81 to R86). -/

namespace Sys2Proof

/-- Why a word is rejected. Every one of them raises ILLEGAL at the word (R92 step 2). -/
inductive Reject where
  | reservedMajor | reservedMinor | mustBeZero | reservedValue | truncated
  deriving DecidableEq, Repr

/-- Bits [lo + n - 1 : lo] of the word. -/
def fld (w lo n : Nat) : BitVec n := BitVec.ofNat n (w / 2 ^ lo)

/-- Bit lo of the word. -/
def flag (w lo : Nat) : Bool := w / 2 ^ lo % 2 == 1

/-- TK [25:22] and SY [21] of an ordinary word (R49). -/
def ctl (w : Nat) : Ctl := ⟨fld w 22 4, flag w 21⟩

/-- An instruction whose fields hold a value the map reserves is rejected (R81, R83, R88, R91). -/
def wellFormedOr (i : Instr) : Except Reject Instr :=
  if i.wellFormed then .ok i else .error .reservedValue

/-- Major 0x00, ALU (R81, R84). -/
def decodeAlu (w : Nat) : Except Reject Instr :=
  match w % 8 with
  | 0 => wellFormedOr (.add (ctl w) (fld w 15 6) (fld w 9 6) (fld w 3 6))
  | 1 => wellFormedOr (.sub (ctl w) (fld w 15 6) (fld w 9 6) (fld w 3 6))
  | 2 => wellFormedOr (.and (ctl w) (fld w 15 6) (fld w 9 6) (fld w 3 6))
  | 3 => wellFormedOr (.or (ctl w) (fld w 15 6) (fld w 9 6) (fld w 3 6))
  | 4 => wellFormedOr (.xor (ctl w) (fld w 15 6) (fld w 9 6) (fld w 3 6))
  | 5 => wellFormedOr (.shl (ctl w) (fld w 15 6) (fld w 9 6) (fld w 3 6))
  | 6 => wellFormedOr (.shr (ctl w) (fld w 15 6) (fld w 9 6) (fld w 3 6))
  | 7 => wellFormedOr (.sar (ctl w) (fld w 15 6) (fld w 9 6) (fld w 3 6))
  | _ => .error .reservedMinor

/-- Major 0x01, MULX (R81, R84). -/
def decodeMulx (w : Nat) : Except Reject Instr :=
  match w % 8 with
  | 0 => wellFormedOr (.mul (ctl w) (fld w 15 6) (fld w 9 6) (fld w 3 6))
  | 1 => wellFormedOr (.mulh (ctl w) (fld w 15 6) (fld w 9 6) (fld w 3 6))
  | 2 => wellFormedOr (.mulhu (ctl w) (fld w 15 6) (fld w 9 6) (fld w 3 6))
  | 3 => wellFormedOr (.min (ctl w) (fld w 15 6) (fld w 9 6) (fld w 3 6))
  | 4 => wellFormedOr (.max (ctl w) (fld w 15 6) (fld w 9 6) (fld w 3 6))
  | 5 => wellFormedOr (.minu (ctl w) (fld w 15 6) (fld w 9 6) (fld w 3 6))
  | 6 => wellFormedOr (.maxu (ctl w) (fld w 15 6) (fld w 9 6) (fld w 3 6))
  | 7 => wellFormedOr (.andn (ctl w) (fld w 15 6) (fld w 9 6) (fld w 3 6))
  | _ => .error .reservedMinor

/-- Major 0x02, DIVX (R81, R84). -/
def decodeDivx (w : Nat) : Except Reject Instr :=
  match w % 8 with
  | 0 => wellFormedOr (.div (ctl w) (fld w 15 6) (fld w 9 6) (fld w 3 6))
  | 1 => wellFormedOr (.divu (ctl w) (fld w 15 6) (fld w 9 6) (fld w 3 6))
  | 2 => wellFormedOr (.rem (ctl w) (fld w 15 6) (fld w 9 6) (fld w 3 6))
  | 3 => wellFormedOr (.remu (ctl w) (fld w 15 6) (fld w 9 6) (fld w 3 6))
  | 4 => wellFormedOr (.slt (ctl w) (fld w 15 6) (fld w 9 6) (fld w 3 6))
  | 5 => wellFormedOr (.sltu (ctl w) (fld w 15 6) (fld w 9 6) (fld w 3 6))
  | 6 => wellFormedOr (.orn (ctl w) (fld w 15 6) (fld w 9 6) (fld w 3 6))
  | _ => .error .reservedMinor

/-- Major 0x03, UNX (R81, R84). -/
def decodeUnx (w : Nat) : Except Reject Instr :=
  match w % 8 with
  | 0 => if w / 2 ^ 3 % 64 = 0 then wellFormedOr (.clz (ctl w) (fld w 15 6) (fld w 9 6)) else .error .mustBeZero
  | 1 => if w / 2 ^ 3 % 64 = 0 then wellFormedOr (.ctz (ctl w) (fld w 15 6) (fld w 9 6)) else .error .mustBeZero
  | 2 => if w / 2 ^ 3 % 64 = 0 then wellFormedOr (.popc (ctl w) (fld w 15 6) (fld w 9 6)) else .error .mustBeZero
  | 3 => if w / 2 ^ 3 % 64 = 0 then wellFormedOr (.brev (ctl w) (fld w 15 6) (fld w 9 6)) else .error .mustBeZero
  | 4 => if w / 2 ^ 3 % 64 = 0 then wellFormedOr (.abs (ctl w) (fld w 15 6) (fld w 9 6)) else .error .mustBeZero
  | 5 => if w / 2 ^ 3 % 64 = 0 then wellFormedOr (.sxb (ctl w) (fld w 15 6) (fld w 9 6)) else .error .mustBeZero
  | 6 => if w / 2 ^ 3 % 64 = 0 then wellFormedOr (.sxh (ctl w) (fld w 15 6) (fld w 9 6)) else .error .mustBeZero
  | 7 => if w / 2 ^ 3 % 64 = 0 then wellFormedOr (.sxw (ctl w) (fld w 15 6) (fld w 9 6)) else .error .mustBeZero
  | _ => .error .reservedMinor

/-- Major 0x04, ADDI (R81). -/
def decodeAddi (w : Nat) : Except Reject Instr :=
  wellFormedOr (.addi (ctl w) (fld w 15 6) (fld w 9 6) (fld w 0 9))

/-- Major 0x05, ANDI (R81). -/
def decodeAndi (w : Nat) : Except Reject Instr :=
  wellFormedOr (.andi (ctl w) (fld w 15 6) (fld w 9 6) (fld w 0 9))

/-- Major 0x06, ORI (R81). -/
def decodeOri (w : Nat) : Except Reject Instr :=
  wellFormedOr (.ori (ctl w) (fld w 15 6) (fld w 9 6) (fld w 0 9))

/-- Major 0x07, XORI (R81). -/
def decodeXori (w : Nat) : Except Reject Instr :=
  wellFormedOr (.xori (ctl w) (fld w 15 6) (fld w 9 6) (fld w 0 9))

/-- Major 0x08, SHI (R81, R84). -/
def decodeShi (w : Nat) : Except Reject Instr :=
  match w / 2 ^ 7 % 4 with
  | 0 => if w / 2 ^ 6 % 2 = 0 then wellFormedOr (.shli (ctl w) (fld w 15 6) (fld w 9 6) (fld w 0 6)) else .error .mustBeZero
  | 1 => if w / 2 ^ 6 % 2 = 0 then wellFormedOr (.shri (ctl w) (fld w 15 6) (fld w 9 6) (fld w 0 6)) else .error .mustBeZero
  | 2 => if w / 2 ^ 6 % 2 = 0 then wellFormedOr (.sari (ctl w) (fld w 15 6) (fld w 9 6) (fld w 0 6)) else .error .mustBeZero
  | _ => .error .reservedMinor

/-- Major 0x09, SLTI (R81). -/
def decodeSlti (w : Nat) : Except Reject Instr :=
  wellFormedOr (.slti (ctl w) (fld w 15 6) (fld w 9 6) (fld w 0 9))

/-- Major 0x0A, SLTIU (R81). -/
def decodeSltiu (w : Nat) : Except Reject Instr :=
  wellFormedOr (.sltiu (ctl w) (fld w 15 6) (fld w 9 6) (fld w 0 9))

/-- Major 0x0B, LI (R81). -/
def decodeLi (w : Nat) : Except Reject Instr :=
  wellFormedOr (.li (ctl w) (fld w 15 6) (fld w 0 15))

/-- Major 0x0C, LSI (R81). -/
def decodeLsi (w : Nat) : Except Reject Instr :=
  wellFormedOr (.lsi (ctl w) (fld w 15 6) (fld w 0 15))

/-- Major 0x0D, ADRX (R81, R84). -/
def decodeAdrx (w : Nat) : Except Reject Instr :=
  match w % 8 with
  | 0 => wellFormedOr (.adds1 (ctl w) (fld w 15 6) (fld w 9 6) (fld w 3 6))
  | 1 => wellFormedOr (.adds2 (ctl w) (fld w 15 6) (fld w 9 6) (fld w 3 6))
  | 2 => wellFormedOr (.adds3 (ctl w) (fld w 15 6) (fld w 9 6) (fld w 3 6))
  | 3 => wellFormedOr (.adds4 (ctl w) (fld w 15 6) (fld w 9 6) (fld w 3 6))
  | 4 => wellFormedOr (.bfx (ctl w) (fld w 15 6) (fld w 9 6) (fld w 3 6))
  | 5 => wellFormedOr (.bfi (ctl w) (fld w 15 6) (fld w 9 6) (fld w 3 6))
  | 6 => if w / 2 ^ 3 % 64 = 0 ∧ w / 2 ^ 13 % 4 = 0 then wellFormedOr (.ptox (ctl w) (fld w 15 6) (fld w 9 4)) else .error .mustBeZero
  | 7 => if w / 2 ^ 3 % 64 = 0 ∧ w / 2 ^ 19 % 4 = 0 then wellFormedOr (.xtop (ctl w) (fld w 15 4) (fld w 9 6)) else .error .mustBeZero
  | _ => .error .reservedMinor

/-- Major 0x0E, SEL (R81). -/
def decodeSel (w : Nat) : Except Reject Instr :=
  wellFormedOr (.sel (ctl w) (fld w 15 6) (fld w 9 6) (fld w 3 6) (fld w 0 3))

/-- Major 0x0F, CMP (R81). -/
def decodeCmp (w : Nat) : Except Reject Instr :=
  wellFormedOr (.cmp (ctl w) (fld w 17 4) (fld w 11 6) (fld w 5 6) (fld w 2 3) (fld w 0 2))

/-- Major 0x10, CMPI (R81). -/
def decodeCmpi (w : Nat) : Except Reject Instr :=
  wellFormedOr (.cmpi (ctl w) (fld w 17 4) (fld w 11 6) (fld w 5 6) (fld w 2 3) (fld w 0 2))

/-- Major 0x11, PLOG (R81, R84). -/
def decodePlog (w : Nat) : Except Reject Instr :=
  match w % 8 with
  | 0 => if w / 2 ^ 3 % 64 = 0 then wellFormedOr (.pand (ctl w) (fld w 17 4) (fld w 13 4) (fld w 9 4)) else .error .mustBeZero
  | 1 => if w / 2 ^ 3 % 64 = 0 then wellFormedOr (.por (ctl w) (fld w 17 4) (fld w 13 4) (fld w 9 4)) else .error .mustBeZero
  | 2 => if w / 2 ^ 3 % 64 = 0 then wellFormedOr (.pxor (ctl w) (fld w 17 4) (fld w 13 4) (fld w 9 4)) else .error .mustBeZero
  | 3 => if w / 2 ^ 3 % 64 = 0 then wellFormedOr (.pandn (ctl w) (fld w 17 4) (fld w 13 4) (fld w 9 4)) else .error .mustBeZero
  | 4 => if w / 2 ^ 3 % 64 = 0 then wellFormedOr (.pnot (ctl w) (fld w 17 4) (fld w 13 4) (fld w 9 4)) else .error .mustBeZero
  | 5 => if w / 2 ^ 3 % 64 = 0 then wellFormedOr (.pmov (ctl w) (fld w 17 4) (fld w 13 4) (fld w 9 4)) else .error .mustBeZero
  | 6 => if w / 2 ^ 3 % 64 = 0 then wellFormedOr (.pset (ctl w) (fld w 17 4) (fld w 13 4) (fld w 9 4)) else .error .mustBeZero
  | 7 => if w / 2 ^ 3 % 64 = 0 then wellFormedOr (.pclr (ctl w) (fld w 17 4) (fld w 13 4) (fld w 9 4)) else .error .mustBeZero
  | _ => .error .reservedMinor

/-- Major 0x12, BPT (R81). -/
def decodeBpt (w : Nat) : Except Reject Instr :=
  wellFormedOr (.bpt (ctl w) (fld w 19 2) (fld w 0 19))

/-- Major 0x13, BRX (R81, R84). -/
def decodeBrx (w : Nat) : Except Reject Instr :=
  match w % 8 with
  | 0 => if w / 2 ^ 3 % 64 = 0 ∧ w / 2 ^ 17 % 16 = 0 then wellFormedOr (.bpr (ctl w) (fld w 15 2) (fld w 9 6)) else .error .mustBeZero
  | 1 => if w / 2 ^ 15 % 64 = 0 then wellFormedOr (.jtab (ctl w) (fld w 9 6) (fld w 3 6)) else .error .mustBeZero
  | 2 => if w / 2 ^ 3 % 64 = 0 ∧ w / 2 ^ 11 % 16 = 0 then wellFormedOr (.btox (ctl w) (fld w 15 6) (fld w 9 2)) else .error .mustBeZero
  | _ => .error .reservedMinor

/-- Major 0x14, JD (R81). -/
def decodeJd (w : Nat) : Except Reject Instr :=
  if w % 2048 = 0 then wellFormedOr (.jd (ctl w) (fld w 19 2) (fld w 15 4) (flag w 14) (fld w 12 2) (flag w 11)) else .error .mustBeZero

/-- Major 0x15, LOOP (R81, R84). -/
def decodeLoop (w : Nat) : Except Reject Instr :=
  match w % 8 with
  | 0 => if w / 2 ^ 6 % 8 = 0 ∧ w / 2 ^ 15 % 64 = 0 then wellFormedOr (.lps (ctl w) (fld w 9 6) (fld w 3 3)) else .error .mustBeZero
  | 1 => if w / 2 ^ 3 % 4096 = 0 ∧ w / 2 ^ 17 % 16 = 0 then wellFormedOr (.lbr (ctl w) (fld w 15 2)) else .error .mustBeZero
  | 2 => if w / 2 ^ 3 % 4096 = 0 then wellFormedOr (.lcr (ctl w) (fld w 15 6)) else .error .mustBeZero
  | 3 => if w / 2 ^ 3 % 64 = 0 ∧ w / 2 ^ 15 % 64 = 0 then wellFormedOr (.lcw (ctl w) (fld w 9 6)) else .error .mustBeZero
  | _ => .error .reservedMinor

/-- Major 0x16, VOTE (R81, R84). -/
def decodeVote (w : Nat) : Except Reject Instr :=
  match w % 8 with
  | 0 => if w / 2 ^ 3 % 2048 = 0 then wellFormedOr (.vany (ctl w) (fld w 17 4) (fld w 14 3)) else .error .mustBeZero
  | 1 => if w / 2 ^ 3 % 2048 = 0 then wellFormedOr (.vall (ctl w) (fld w 17 4) (fld w 14 3)) else .error .mustBeZero
  | 2 => if w / 2 ^ 3 % 2048 = 0 then wellFormedOr (.vnone (ctl w) (fld w 17 4) (fld w 14 3)) else .error .mustBeZero
  | _ => .error .reservedMinor

/-- Major 0x17, LD (R81). -/
def decodeLd (w : Nat) : Except Reject Instr :=
  wellFormedOr (.ld (ctl w) (fld w 15 6) (fld w 9 6) (fld w 5 4) (fld w 3 2) (fld w 0 3))

/-- Major 0x18, LDP (R81). -/
def decodeLdp (w : Nat) : Except Reject Instr :=
  wellFormedOr (.ldp (ctl w) (fld w 15 6) (fld w 9 6) (fld w 5 4) (fld w 3 2) (fld w 0 3))

/-- Major 0x19, ST (R81). -/
def decodeSt (w : Nat) : Except Reject Instr :=
  if w / 2 ^ 5 % 16 = 0 then wellFormedOr (.st (ctl w) (fld w 15 6) (fld w 9 6) (fld w 3 2) (fld w 0 3)) else .error .mustBeZero

/-- Major 0x1A, STP (R81). -/
def decodeStp (w : Nat) : Except Reject Instr :=
  if w / 2 ^ 5 % 16 = 0 then wellFormedOr (.stp (ctl w) (fld w 15 6) (fld w 9 6) (fld w 3 2) (fld w 0 3)) else .error .mustBeZero

/-- Major 0x1B, SMEM (R81, R84). -/
def decodeSmem (w : Nat) : Except Reject Instr :=
  match w % 8 with
  | 0 => if w / 2 ^ 5 % 16 = 0 then wellFormedOr (.ldacq (ctl w) (fld w 15 6) (fld w 9 6) (fld w 3 2)) else .error .mustBeZero
  | 1 => if w / 2 ^ 17 % 16 = 0 then wellFormedOr (.strel (ctl w) (fld w 15 2) (fld w 9 6) (fld w 3 6)) else .error .mustBeZero
  | 2 => if w / 2 ^ 3 % 64 = 0 then wellFormedOr (.ldfe (ctl w) (fld w 15 6) (fld w 9 6)) else .error .mustBeZero
  | 3 => if w / 2 ^ 15 % 64 = 0 then wellFormedOr (.stfe (ctl w) (fld w 9 6) (fld w 3 6)) else .error .mustBeZero
  | 4 => if w / 2 ^ 3 % 64 = 0 then wellFormedOr (.ldf (ctl w) (fld w 15 6) (fld w 9 6)) else .error .mustBeZero
  | 5 => if w / 2 ^ 15 % 64 = 0 then wellFormedOr (.stf (ctl w) (fld w 9 6) (fld w 3 6)) else .error .mustBeZero
  | 6 => if w / 2 ^ 3 % 64 = 0 ∧ w / 2 ^ 19 % 4 = 0 then wellFormedOr (.fepr (ctl w) (fld w 15 4) (fld w 9 6)) else .error .mustBeZero
  | 7 => if w / 2 ^ 15 % 64 = 0 then wellFormedOr (.feset (ctl w) (fld w 9 6) (fld w 3 6)) else .error .mustBeZero
  | _ => .error .reservedMinor

/-- Major 0x1C, MORD (R81, R84). -/
def decodeMord (w : Nat) : Except Reject Instr :=
  match w % 8 with
  | 0 => if w / 2 ^ 9 % 4096 = 0 then wellFormedOr (.fence (ctl w) (fld w 5 4) (fld w 3 2)) else .error .mustBeZero
  | 1 => if w / 2 ^ 3 % 64 = 0 ∧ w / 2 ^ 15 % 64 = 0 then wellFormedOr (.rpub (ctl w) (fld w 9 6)) else .error .mustBeZero
  | 2 => if w / 2 ^ 3 % 64 = 0 then wellFormedOr (.rview (ctl w) (fld w 15 6) (fld w 9 6)) else .error .mustBeZero
  | 3 => if w / 2 ^ 15 % 64 = 0 then wellFormedOr (.cwbr (ctl w) (fld w 9 6) (fld w 3 6)) else .error .mustBeZero
  | 4 => if w / 2 ^ 15 % 64 = 0 then wellFormedOr (.cinvr (ctl w) (fld w 9 6) (fld w 3 6)) else .error .mustBeZero
  | 5 => if w / 2 ^ 18 % 8 = 0 then wellFormedOr (.cpin (ctl w) (fld w 15 3) (fld w 9 6) (fld w 3 6)) else .error .mustBeZero
  | 6 => if w / 2 ^ 3 % 4096 = 0 ∧ w / 2 ^ 18 % 8 = 0 then wellFormedOr (.cunpin (ctl w) (fld w 15 3)) else .error .mustBeZero
  | 7 => if w / 2 ^ 3 % 64 = 0 ∧ w / 2 ^ 15 % 64 = 0 then wellFormedOr (.pref (ctl w) (fld w 9 6)) else .error .mustBeZero
  | _ => .error .reservedMinor

/-- Major 0x1D, ATOM (R81, R84). -/
def decodeAtom (w : Nat) : Except Reject Instr :=
  match w % 8 with
  | 0 => wellFormedOr (.aadd (ctl w) (fld w 15 6) (fld w 9 6) (fld w 3 6))
  | 1 => wellFormedOr (.amax (ctl w) (fld w 15 6) (fld w 9 6) (fld w 3 6))
  | 2 => wellFormedOr (.amin (ctl w) (fld w 15 6) (fld w 9 6) (fld w 3 6))
  | 3 => wellFormedOr (.aand (ctl w) (fld w 15 6) (fld w 9 6) (fld w 3 6))
  | 4 => wellFormedOr (.aor (ctl w) (fld w 15 6) (fld w 9 6) (fld w 3 6))
  | 5 => wellFormedOr (.axor (ctl w) (fld w 15 6) (fld w 9 6) (fld w 3 6))
  | 6 => wellFormedOr (.aswp (ctl w) (fld w 15 6) (fld w 9 6) (fld w 3 6))
  | 7 => wellFormedOr (.afadd (ctl w) (fld w 15 6) (fld w 9 6) (fld w 3 6))
  | _ => .error .reservedMinor

/-- Major 0x1E, ACAS (R81, R84). -/
def decodeAcas (w : Nat) : Except Reject Instr :=
  match w % 8 with
  | 0 => wellFormedOr (.acas (ctl w) (fld w 15 6) (fld w 9 6) (fld w 3 6))
  | 1 => wellFormedOr (.acasW (ctl w) (fld w 15 6) (fld w 9 6) (fld w 3 6))
  | _ => .error .reservedMinor

/-- Major 0x1F, VF (R81, R84). -/
def decodeVf (w : Nat) : Except Reject Instr :=
  match w % 8 with
  | 0 => wellFormedOr (.vadd (ctl w) (fld w 15 6) (fld w 9 6) (fld w 3 6))
  | 1 => wellFormedOr (.vsub (ctl w) (fld w 15 6) (fld w 9 6) (fld w 3 6))
  | 2 => wellFormedOr (.vmul (ctl w) (fld w 15 6) (fld w 9 6) (fld w 3 6))
  | 3 => wellFormedOr (.vfma (ctl w) (fld w 15 6) (fld w 9 6) (fld w 3 6))
  | 4 => wellFormedOr (.vmax (ctl w) (fld w 15 6) (fld w 9 6) (fld w 3 6))
  | 5 => wellFormedOr (.vmin (ctl w) (fld w 15 6) (fld w 9 6) (fld w 3 6))
  | 6 => wellFormedOr (.vfms (ctl w) (fld w 15 6) (fld w 9 6) (fld w 3 6))
  | 7 => wellFormedOr (.vabd (ctl w) (fld w 15 6) (fld w 9 6) (fld w 3 6))
  | _ => .error .reservedMinor

/-- Major 0x20, VI (R81, R84). -/
def decodeVi (w : Nat) : Except Reject Instr :=
  match w % 8 with
  | 0 => wellFormedOr (.viadd (ctl w) (fld w 15 6) (fld w 9 6) (fld w 3 6))
  | 1 => wellFormedOr (.visub (ctl w) (fld w 15 6) (fld w 9 6) (fld w 3 6))
  | 2 => wellFormedOr (.vimul (ctl w) (fld w 15 6) (fld w 9 6) (fld w 3 6))
  | 3 => wellFormedOr (.vand (ctl w) (fld w 15 6) (fld w 9 6) (fld w 3 6))
  | 4 => wellFormedOr (.vor (ctl w) (fld w 15 6) (fld w 9 6) (fld w 3 6))
  | 5 => wellFormedOr (.vxor (ctl w) (fld w 15 6) (fld w 9 6) (fld w 3 6))
  | 6 => wellFormedOr (.vshl (ctl w) (fld w 15 6) (fld w 9 6) (fld w 3 6))
  | 7 => wellFormedOr (.vshr (ctl w) (fld w 15 6) (fld w 9 6) (fld w 3 6))
  | _ => .error .reservedMinor

/-- Major 0x21, VU (R81, R84). -/
def decodeVu (w : Nat) : Except Reject Instr :=
  match w % 8 with
  | 0 => if w / 2 ^ 3 % 64 = 0 then wellFormedOr (.vneg (ctl w) (fld w 15 6) (fld w 9 6)) else .error .mustBeZero
  | 1 => if w / 2 ^ 3 % 64 = 0 then wellFormedOr (.vabs (ctl w) (fld w 15 6) (fld w 9 6)) else .error .mustBeZero
  | 2 => if w / 2 ^ 3 % 64 = 0 then wellFormedOr (.vrcp (ctl w) (fld w 15 6) (fld w 9 6)) else .error .mustBeZero
  | 3 => if w / 2 ^ 3 % 64 = 0 then wellFormedOr (.vrsq (ctl w) (fld w 15 6) (fld w 9 6)) else .error .mustBeZero
  | 4 => if w / 2 ^ 3 % 64 = 0 then wellFormedOr (.vex2 (ctl w) (fld w 15 6) (fld w 9 6)) else .error .mustBeZero
  | 5 => if w / 2 ^ 3 % 64 = 0 then wellFormedOr (.vlg2 (ctl w) (fld w 15 6) (fld w 9 6)) else .error .mustBeZero
  | 6 => if w / 2 ^ 3 % 64 = 0 then wellFormedOr (.vflr (ctl w) (fld w 15 6) (fld w 9 6)) else .error .mustBeZero
  | 7 => if w / 2 ^ 3 % 64 = 0 then wellFormedOr (.vmov (ctl w) (fld w 15 6) (fld w 9 6)) else .error .mustBeZero
  | _ => .error .reservedMinor

/-- Major 0x22, VCVT (R81). -/
def decodeVcvt (w : Nat) : Except Reject Instr :=
  wellFormedOr (.vcvt (ctl w) (fld w 15 6) (fld w 9 6) (fld w 5 4) (fld w 1 4) (flag w 0))

/-- Major 0x23, VCMP (R81). -/
def decodeVcmp (w : Nat) : Except Reject Instr :=
  if w / 2 ^ 15 % 8 = 0 then wellFormedOr (.vcmp (ctl w) (fld w 18 3) (fld w 9 6) (fld w 3 6) (fld w 0 3)) else .error .mustBeZero

/-- Major 0x24, VPERM (R81, R84). -/
def decodeVperm (w : Nat) : Except Reject Instr :=
  match w % 8 with
  | 0 => wellFormedOr (.vsel (ctl w) (fld w 15 6) (fld w 9 6) (fld w 3 6))
  | 1 => wellFormedOr (.vprm (ctl w) (fld w 15 6) (fld w 9 6) (fld w 3 6))
  | 2 => if w / 2 ^ 3 % 64 = 0 then wellFormedOr (.vbc (ctl w) (fld w 15 6) (fld w 9 6)) else .error .mustBeZero
  | 3 => wellFormedOr (.vext (ctl w) (fld w 15 6) (fld w 9 6) (fld w 3 6))
  | 4 => wellFormedOr (.vins (ctl w) (fld w 15 6) (fld w 9 6) (fld w 3 6))
  | 5 => wellFormedOr (.vrot (ctl w) (fld w 15 6) (fld w 9 6) (fld w 3 6))
  | 6 => wellFormedOr (.vzip (ctl w) (fld w 15 6) (fld w 9 6) (fld w 3 6))
  | 7 => wellFormedOr (.vuzp (ctl w) (fld w 15 6) (fld w 9 6) (fld w 3 6))
  | _ => .error .reservedMinor

/-- Major 0x25, VRED (R81, R84). -/
def decodeVred (w : Nat) : Except Reject Instr :=
  match w % 8 with
  | 0 => if w / 2 ^ 3 % 64 = 0 then wellFormedOr (.vradd (ctl w) (fld w 15 6) (fld w 9 6)) else .error .mustBeZero
  | 1 => if w / 2 ^ 3 % 64 = 0 then wellFormedOr (.vrmax (ctl w) (fld w 15 6) (fld w 9 6)) else .error .mustBeZero
  | 2 => if w / 2 ^ 3 % 64 = 0 then wellFormedOr (.vrmin (ctl w) (fld w 15 6) (fld w 9 6)) else .error .mustBeZero
  | 3 => wellFormedOr (.vdot (ctl w) (fld w 15 6) (fld w 9 6) (fld w 3 6))
  | 4 => if w / 2 ^ 3 % 64 = 0 then wellFormedOr (.vramx (ctl w) (fld w 15 6) (fld w 9 6)) else .error .mustBeZero
  | _ => .error .reservedMinor

/-- Major 0x26, VSCL (R81, R84). -/
def decodeVscl (w : Nat) : Except Reject Instr :=
  match w % 16 with
  | 0 => wellFormedOr (.vqnt (ctl w) (fld w 15 6) (fld w 9 6) (fld w 4 5))
  | 1 => wellFormedOr (.vdq (ctl w) (fld w 15 6) (fld w 9 6) (fld w 4 5))
  | 2 => if w / 2 ^ 15 % 64 = 0 then wellFormedOr (.vhist (ctl w) (fld w 9 6) (fld w 4 5)) else .error .mustBeZero
  | 3 => wellFormedOr (.vscx (ctl w) (fld w 15 6) (fld w 9 6) (fld w 4 5))
  | _ => .error .reservedMinor

/-- Major 0x27, MD (R81, R84). -/
def decodeMd (w : Nat) : Except Reject Instr :=
  match w % 8 with
  | 0 => if w / 2 ^ 3 % 2 = 0 ∧ w / 2 ^ 15 % 64 = 0 then wellFormedOr (.mdbind (ctl w) (fld w 9 6) (fld w 4 5)) else .error .mustBeZero
  | 1 => if w / 2 ^ 3 % 2 = 0 ∧ w / 2 ^ 9 % 4096 = 0 then wellFormedOr (.mdclose (ctl w) (fld w 4 5)) else .error .mustBeZero
  | 2 => if w / 2 ^ 3 % 2 = 0 then wellFormedOr (.mdread (ctl w) (fld w 15 6) (fld w 9 6) (fld w 4 5)) else .error .mustBeZero
  | 3 => if w / 2 ^ 3 % 2 = 0 ∧ w / 2 ^ 15 % 64 = 0 then wellFormedOr (.mdset (ctl w) (fld w 9 6) (fld w 4 5)) else .error .mustBeZero
  | 4 => if w / 2 ^ 3 % 2 = 0 then wellFormedOr (.mdpm (ctl w) (fld w 15 6) (fld w 9 6) (fld w 4 5)) else .error .mustBeZero
  | 5 => if w / 2 ^ 3 % 2 = 0 ∧ w / 2 ^ 15 % 64 = 0 then wellFormedOr (.mdwait (ctl w) (fld w 9 6) (fld w 4 5)) else .error .mustBeZero
  | _ => .error .reservedMinor

/-- Major 0x28, STC (R81, R84). -/
def decodeStc (w : Nat) : Except Reject Instr :=
  match w % 8 with
  | 0 => if w / 2 ^ 3 % 64 = 0 then wellFormedOr (.stld (ctl w) (fld w 15 6) (fld w 9 6)) else .error .mustBeZero
  | 1 => if w / 2 ^ 7 % 4 = 0 then wellFormedOr (.stwr (ctl w) (fld w 15 6) (fld w 9 6) (fld w 3 4)) else .error .mustBeZero
  | 2 => if w / 2 ^ 7 % 4 = 0 then wellFormedOr (.strd (ctl w) (fld w 15 6) (fld w 9 6) (fld w 3 4)) else .error .mustBeZero
  | 3 => if w / 2 ^ 3 % 64 = 0 ∧ w / 2 ^ 19 % 4 = 0 then wellFormedOr (.gset (ctl w) (fld w 15 4) (fld w 9 6)) else .error .mustBeZero
  | 4 => if w / 2 ^ 3 % 4096 = 0 ∧ w / 2 ^ 19 % 4 = 0 then wellFormedOr (.gclr (ctl w) (fld w 15 4)) else .error .mustBeZero
  | _ => .error .reservedMinor

/-- Major 0x29, SYNC (R81, R84). -/
def decodeSync (w : Nat) : Except Reject Instr :=
  match w % 8 with
  | 0 => if w / 2 ^ 3 % 262144 = 0 then wellFormedOr (.phase (ctl w)) else .error .mustBeZero
  | 1 => if w / 2 ^ 3 % 64 = 0 then wellFormedOr (.phwt (ctl w) (fld w 15 6) (fld w 9 6)) else .error .mustBeZero
  | 2 => if w / 2 ^ 3 % 64 = 0 ∧ w / 2 ^ 15 % 64 = 0 then wellFormedOr (.dmjoin (ctl w) (fld w 9 6)) else .error .mustBeZero
  | 3 => if w / 2 ^ 3 % 262144 = 0 then wellFormedOr (.dmleave (ctl w)) else .error .mustBeZero
  | 4 => if w / 2 ^ 15 % 64 = 0 then wellFormedOr (.bbpost (ctl w) (fld w 9 6) (fld w 3 6)) else .error .mustBeZero
  | 5 => wellFormedOr (.bbwt (ctl w) (fld w 15 6) (fld w 9 6) (fld w 3 6))
  | 6 => if w / 2 ^ 15 % 64 = 0 then wellFormedOr (.waitc (ctl w) (fld w 9 6) (fld w 3 6)) else .error .mustBeZero
  | 7 => if w / 2 ^ 15 % 64 = 0 then wellFormedOr (.req (ctl w) (fld w 9 6) (fld w 3 6)) else .error .mustBeZero
  | _ => .error .reservedMinor

/-- Major 0x2A, TASK (R81, R84). -/
def decodeTask (w : Nat) : Except Reject Instr :=
  match w % 8 with
  | 0 => if w / 2 ^ 3 % 64 = 0 then wellFormedOr (.tspawn (ctl w) (fld w 15 6) (fld w 9 6)) else .error .mustBeZero
  | 1 => if w / 2 ^ 3 % 64 = 0 ∧ w / 2 ^ 15 % 64 = 0 then wellFormedOr (.tend (ctl w) (fld w 9 6)) else .error .mustBeZero
  | 2 => if w / 2 ^ 3 % 64 = 0 then wellFormedOr (.pwreq (ctl w) (fld w 15 6) (fld w 9 6)) else .error .mustBeZero
  | 3 => if w / 2 ^ 3 % 262144 = 0 then wellFormedOr (.pwrel (ctl w)) else .error .mustBeZero
  | 4 => if w / 2 ^ 7 % 256 = 0 then wellFormedOr (.accr (ctl w) (fld w 15 6) (fld w 3 4)) else .error .mustBeZero
  | 5 => if w / 2 ^ 3 % 4096 = 0 then wellFormedOr (.esnr (ctl w) (fld w 15 6)) else .error .mustBeZero
  | _ => .error .reservedMinor

/-- Major 0x2B, CSRR (R81). -/
def decodeCsrr (w : Nat) : Except Reject Instr :=
  if w / 2 ^ 9 % 64 = 0 then wellFormedOr (.csrr (ctl w) (fld w 15 6) (fld w 0 9)) else .error .mustBeZero

/-- Major 0x2C, CSRW (R81). -/
def decodeCsrw (w : Nat) : Except Reject Instr :=
  if w / 2 ^ 15 % 64 = 0 then wellFormedOr (.csrw (ctl w) (fld w 9 6) (fld w 0 9)) else .error .mustBeZero

/-- Major 0x2D, SYS (R81, R84). -/
def decodeSys (w : Nat) : Except Reject Instr :=
  match w % 8 with
  | 4 => if w / 2 ^ 3 % 8 = 0 then wellFormedOr (.csrs (ctl w) (fld w 12 9) (fld w 6 6)) else .error .mustBeZero
  | 5 => if w / 2 ^ 3 % 8 = 0 then wellFormedOr (.csrc (ctl w) (fld w 12 9) (fld w 6 6)) else .error .mustBeZero
  | 0 => if w / 2 ^ 3 % 262144 = 0 then wellFormedOr (.eret (ctl w)) else .error .mustBeZero
  | 1 => if w / 2 ^ 15 % 64 = 0 then wellFormedOr (.tlbi (ctl w) (fld w 9 6) (fld w 3 6)) else .error .mustBeZero
  | 2 => if w / 2 ^ 3 % 262144 = 0 then wellFormedOr (.fencei (ctl w)) else .error .mustBeZero
  | 3 => if w / 2 ^ 3 % 262144 = 0 then wellFormedOr (.wfe (ctl w)) else .error .mustBeZero
  | 6 => if w / 2 ^ 3 % 262144 = 0 then wellFormedOr (.halt (ctl w)) else .error .mustBeZero
  | _ => .error .reservedMinor

/-- Major 0x2E, TRAP (R81). -/
def decodeTrap (w : Nat) : Except Reject Instr :=
  if w / 2 ^ 15 % 64 = 0 then wellFormedOr (.trap (ctl w) (fld w 0 15)) else .error .mustBeZero

/-- The word's major selects its decoder (R81, R82); bits [31:30] = 0b11 make it a stamp (R49, R86). -/
def decodeMajor (m w : Nat) : Except Reject Instr :=
  match m with
  | 0x00 => decodeAlu w
  | 0x01 => decodeMulx w
  | 0x02 => decodeDivx w
  | 0x03 => decodeUnx w
  | 0x04 => decodeAddi w
  | 0x05 => decodeAndi w
  | 0x06 => decodeOri w
  | 0x07 => decodeXori w
  | 0x08 => decodeShi w
  | 0x09 => decodeSlti w
  | 0x0A => decodeSltiu w
  | 0x0B => decodeLi w
  | 0x0C => decodeLsi w
  | 0x0D => decodeAdrx w
  | 0x0E => decodeSel w
  | 0x0F => decodeCmp w
  | 0x10 => decodeCmpi w
  | 0x11 => decodePlog w
  | 0x12 => decodeBpt w
  | 0x13 => decodeBrx w
  | 0x14 => decodeJd w
  | 0x15 => decodeLoop w
  | 0x16 => decodeVote w
  | 0x17 => decodeLd w
  | 0x18 => decodeLdp w
  | 0x19 => decodeSt w
  | 0x1A => decodeStp w
  | 0x1B => decodeSmem w
  | 0x1C => decodeMord w
  | 0x1D => decodeAtom w
  | 0x1E => decodeAcas w
  | 0x1F => decodeVf w
  | 0x20 => decodeVi w
  | 0x21 => decodeVu w
  | 0x22 => decodeVcvt w
  | 0x23 => decodeVcmp w
  | 0x24 => decodeVperm w
  | 0x25 => decodeVred w
  | 0x26 => decodeVscl w
  | 0x27 => decodeMd w
  | 0x28 => decodeStc w
  | 0x29 => decodeSync w
  | 0x2A => decodeTask w
  | 0x2B => decodeCsrr w
  | 0x2C => decodeCsrw w
  | 0x2D => decodeSys w
  | 0x2E => decodeTrap w
  | _ => .error .reservedMajor

/-- A stamp: TK in [29:26], SLOT, FSEL, VAL (R49, R86). -/
def decodeStamp (w : Nat) : Instr := .stamp (fld w 26 4) (fld w 20 6) (fld w 16 4) (fld w 0 16)

/-- The decoder of one 32-bit word. -/
def decodeWord (w : Nat) : Except Reject Instr :=
  if w / 2 ^ 30 % 4 = 3 then .ok (decodeStamp w) else decodeMajor (w / 2 ^ 26 % 64) w

/-- Little-endian value of a list of bytes (R3). -/
def bytesToNat : List Byte → Nat
  | [] => 0
  | b :: bs => b.toNat + 256 * bytesToNat bs

/-- The decoder on bytes: the first four, little-endian, are the word (R49). -/
def decode : List Byte → Except Reject (Instr × List Byte)
  | b0 :: b1 :: b2 :: b3 :: rest => (decodeWord (bytesToNat [b0, b1, b2, b3])).map (·, rest)
  | _ => .error .truncated

/-- Four bytes of a word as the hardware stores them. -/
def wordBytes (w : Nat) : List Byte :=
  [BitVec.ofNat 8 w, BitVec.ofNat 8 (w / 2 ^ 8), BitVec.ofNat 8 (w / 2 ^ 16), BitVec.ofNat 8 (w / 2 ^ 24)]

/-- The instruction the decoder reads from a table row's word: every row with an encoding has 32 bits. -/
def decodeTableWord (nbits w : Nat) : Option Instr :=
  if nbits = 32 then
    match decode (wordBytes w) with
    | .ok (i, _) => some i
    | .error _ => none
  else none

/-- Major, TK and SY of an ordinary word in place (R49). -/
def op (major : Nat) (k : Ctl) : Nat := major * 2 ^ 26 + k.tk.toNat * 2 ^ 22 + k.sy.toNat * 2 ^ 21

/-- The layout d [20:15], a [14:9], b [8:3]. -/
def layDab (major : Nat) (k : Ctl) (low : Nat) (d : BitVec 6) (a : BitVec 6) (b : BitVec 6) : Nat :=
  op major k + d.toNat * 2 ^ 15 + a.toNat * 2 ^ 9 + b.toNat * 2 ^ 3 + low

/-- The layout d [20:15], a [14:9]. -/
def layDa (major : Nat) (k : Ctl) (low : Nat) (d : BitVec 6) (a : BitVec 6) : Nat :=
  op major k + d.toNat * 2 ^ 15 + a.toNat * 2 ^ 9 + low

/-- The layout d [20:15], a [14:9], i [8:0]. -/
def layDai (major : Nat) (k : Ctl) (low : Nat) (d : BitVec 6) (a : BitVec 6) (i : BitVec 9) : Nat :=
  op major k + d.toNat * 2 ^ 15 + a.toNat * 2 ^ 9 + i.toNat + low

/-- The layout d [20:15], a [14:9], n [5:0]. -/
def layDan (major : Nat) (k : Ctl) (low : Nat) (d : BitVec 6) (a : BitVec 6) (n : BitVec 6) : Nat :=
  op major k + d.toNat * 2 ^ 15 + a.toNat * 2 ^ 9 + n.toNat + low

/-- The layout d [20:15], i [14:0]. -/
def layDi (major : Nat) (k : Ctl) (low : Nat) (d : BitVec 6) (i : BitVec 15) : Nat :=
  op major k + d.toNat * 2 ^ 15 + i.toNat + low

/-- The layout d [20:15], p [12:9]. -/
def layDp (major : Nat) (k : Ctl) (low : Nat) (d : BitVec 6) (p : BitVec 4) : Nat :=
  op major k + d.toNat * 2 ^ 15 + p.toNat * 2 ^ 9 + low

/-- The layout p [18:15], a [14:9]. -/
def layPa (major : Nat) (k : Ctl) (low : Nat) (p : BitVec 4) (a : BitVec 6) : Nat :=
  op major k + p.toNat * 2 ^ 15 + a.toNat * 2 ^ 9 + low

/-- The layout d [20:15], a [14:9], b [8:3], p [2:0]. -/
def layDabp (major : Nat) (k : Ctl) (low : Nat) (d : BitVec 6) (a : BitVec 6) (b : BitVec 6) (p : BitVec 3) : Nat :=
  op major k + d.toNat * 2 ^ 15 + a.toNat * 2 ^ 9 + b.toNat * 2 ^ 3 + p.toNat + low

/-- The layout p [20:17], a [16:11], b [10:5], c [4:2], m [1:0]. -/
def layPabcm (major : Nat) (k : Ctl) (low : Nat) (p : BitVec 4) (a : BitVec 6) (b : BitVec 6) (c : BitVec 3) (m : BitVec 2) : Nat :=
  op major k + p.toNat * 2 ^ 17 + a.toNat * 2 ^ 11 + b.toNat * 2 ^ 5 + c.toNat * 2 ^ 2 + m.toNat + low

/-- The layout p [20:17], q [16:13], r [12:9]. -/
def layPqr (major : Nat) (k : Ctl) (low : Nat) (p : BitVec 4) (q : BitVec 4) (r : BitVec 4) : Nat :=
  op major k + p.toNat * 2 ^ 17 + q.toNat * 2 ^ 13 + r.toNat * 2 ^ 9 + low

/-- The layout n [20:19], o [18:0]. -/
def layNo (major : Nat) (k : Ctl) (low : Nat) (n : BitVec 2) (o : BitVec 19) : Nat :=
  op major k + n.toNat * 2 ^ 19 + o.toNat + low

/-- The layout n [16:15], a [14:9]. -/
def layNa (major : Nat) (k : Ctl) (low : Nat) (n : BitVec 2) (a : BitVec 6) : Nat :=
  op major k + n.toNat * 2 ^ 15 + a.toNat * 2 ^ 9 + low

/-- The layout a [14:9], b [8:3]. -/
def layAb (major : Nat) (k : Ctl) (low : Nat) (a : BitVec 6) (b : BitVec 6) : Nat :=
  op major k + a.toNat * 2 ^ 9 + b.toNat * 2 ^ 3 + low

/-- The layout d [20:15], n [10:9]. -/
def layDn (major : Nat) (k : Ctl) (low : Nat) (d : BitVec 6) (n : BitVec 2) : Nat :=
  op major k + d.toNat * 2 ^ 15 + n.toNat * 2 ^ 9 + low

/-- The layout n [20:19], p [18:15], g [14:14], e [13:12], l [11:11]. -/
def layNpgel (major : Nat) (k : Ctl) (low : Nat) (n : BitVec 2) (p : BitVec 4) (g : Bool) (e : BitVec 2) (l : Bool) : Nat :=
  op major k + n.toNat * 2 ^ 19 + p.toNat * 2 ^ 15 + g.toNat * 2 ^ 14 + e.toNat * 2 ^ 12 + l.toNat * 2 ^ 11 + low

/-- The layout a [14:9], s [5:3]. -/
def layAs (major : Nat) (k : Ctl) (low : Nat) (a : BitVec 6) (s : BitVec 3) : Nat :=
  op major k + a.toNat * 2 ^ 9 + s.toNat * 2 ^ 3 + low

/-- The layout n [16:15]. -/
def layN (major : Nat) (k : Ctl) (low : Nat) (n : BitVec 2) : Nat :=
  op major k + n.toNat * 2 ^ 15 + low

/-- The layout d [20:15]. -/
def layD (major : Nat) (k : Ctl) (low : Nat) (d : BitVec 6) : Nat :=
  op major k + d.toNat * 2 ^ 15 + low

/-- The layout a [14:9]. -/
def layA (major : Nat) (k : Ctl) (low : Nat) (a : BitVec 6) : Nat :=
  op major k + a.toNat * 2 ^ 9 + low

/-- The layout p [20:17], v [16:14]. -/
def layPv (major : Nat) (k : Ctl) (low : Nat) (p : BitVec 4) (v : BitVec 3) : Nat :=
  op major k + p.toNat * 2 ^ 17 + v.toNat * 2 ^ 14 + low

/-- The layout d [20:15], a [14:9], s [8:5], h [4:3], z [2:0]. -/
def layDashz (major : Nat) (k : Ctl) (low : Nat) (d : BitVec 6) (a : BitVec 6) (s : BitVec 4) (h : BitVec 2) (z : BitVec 3) : Nat :=
  op major k + d.toNat * 2 ^ 15 + a.toNat * 2 ^ 9 + s.toNat * 2 ^ 5 + h.toNat * 2 ^ 3 + z.toNat + low

/-- The layout c [20:15], a [14:9], h [4:3], z [2:0]. -/
def layCahz (major : Nat) (k : Ctl) (low : Nat) (c : BitVec 6) (a : BitVec 6) (h : BitVec 2) (z : BitVec 3) : Nat :=
  op major k + c.toNat * 2 ^ 15 + a.toNat * 2 ^ 9 + h.toNat * 2 ^ 3 + z.toNat + low

/-- The layout d [20:15], a [14:9], c [4:3]. -/
def layDac (major : Nat) (k : Ctl) (low : Nat) (d : BitVec 6) (a : BitVec 6) (c : BitVec 2) : Nat :=
  op major k + d.toNat * 2 ^ 15 + a.toNat * 2 ^ 9 + c.toNat * 2 ^ 3 + low

/-- The layout c [16:15], a [14:9], b [8:3]. -/
def layCab (major : Nat) (k : Ctl) (low : Nat) (c : BitVec 2) (a : BitVec 6) (b : BitVec 6) : Nat :=
  op major k + c.toNat * 2 ^ 15 + a.toNat * 2 ^ 9 + b.toNat * 2 ^ 3 + low

/-- The layout m [8:5], c [4:3]. -/
def layMc (major : Nat) (k : Ctl) (low : Nat) (m : BitVec 4) (c : BitVec 2) : Nat :=
  op major k + m.toNat * 2 ^ 5 + c.toNat * 2 ^ 3 + low

/-- The layout n [17:15], a [14:9], b [8:3]. -/
def layNab (major : Nat) (k : Ctl) (low : Nat) (n : BitVec 3) (a : BitVec 6) (b : BitVec 6) : Nat :=
  op major k + n.toNat * 2 ^ 15 + a.toNat * 2 ^ 9 + b.toNat * 2 ^ 3 + low

/-- The layout n [17:15]. -/
def layN2 (major : Nat) (k : Ctl) (low : Nat) (n : BitVec 3) : Nat :=
  op major k + n.toNat * 2 ^ 15 + low

/-- The layout d [20:15], a [14:9], t [8:5], s [4:1], u [0:0]. -/
def layDatsu (major : Nat) (k : Ctl) (low : Nat) (d : BitVec 6) (a : BitVec 6) (t : BitVec 4) (s : BitVec 4) (u : Bool) : Nat :=
  op major k + d.toNat * 2 ^ 15 + a.toNat * 2 ^ 9 + t.toNat * 2 ^ 5 + s.toNat * 2 ^ 1 + u.toNat + low

/-- The layout p [20:18], a [14:9], b [8:3], c [2:0]. -/
def layPabc (major : Nat) (k : Ctl) (low : Nat) (p : BitVec 3) (a : BitVec 6) (b : BitVec 6) (c : BitVec 3) : Nat :=
  op major k + p.toNat * 2 ^ 18 + a.toNat * 2 ^ 9 + b.toNat * 2 ^ 3 + c.toNat + low

/-- The layout d [20:15], a [14:9], h [8:4]. -/
def layDah (major : Nat) (k : Ctl) (low : Nat) (d : BitVec 6) (a : BitVec 6) (h : BitVec 5) : Nat :=
  op major k + d.toNat * 2 ^ 15 + a.toNat * 2 ^ 9 + h.toNat * 2 ^ 4 + low

/-- The layout a [14:9], h [8:4]. -/
def layAh (major : Nat) (k : Ctl) (low : Nat) (a : BitVec 6) (h : BitVec 5) : Nat :=
  op major k + a.toNat * 2 ^ 9 + h.toNat * 2 ^ 4 + low

/-- The layout h [8:4]. -/
def layH (major : Nat) (k : Ctl) (low : Nat) (h : BitVec 5) : Nat :=
  op major k + h.toNat * 2 ^ 4 + low

/-- The layout s [20:15], a [14:9], f [6:3]. -/
def laySaf (major : Nat) (k : Ctl) (low : Nat) (s : BitVec 6) (a : BitVec 6) (f : BitVec 4) : Nat :=
  op major k + s.toNat * 2 ^ 15 + a.toNat * 2 ^ 9 + f.toNat * 2 ^ 3 + low

/-- The layout g [18:15]. -/
def layG (major : Nat) (k : Ctl) (low : Nat) (g : BitVec 4) : Nat :=
  op major k + g.toNat * 2 ^ 15 + low

/-- The layout without operand fields. -/
def layNone (major : Nat) (k : Ctl) (low : Nat) : Nat :=
  op major k + low

/-- The layout d [20:15], c [6:3]. -/
def layDc (major : Nat) (k : Ctl) (low : Nat) (d : BitVec 6) (c : BitVec 4) : Nat :=
  op major k + d.toNat * 2 ^ 15 + c.toNat * 2 ^ 3 + low

/-- The layout d [20:15], c [8:0]. -/
def layDc2 (major : Nat) (k : Ctl) (low : Nat) (d : BitVec 6) (c : BitVec 9) : Nat :=
  op major k + d.toNat * 2 ^ 15 + c.toNat + low

/-- The layout a [14:9], c [8:0]. -/
def layAc (major : Nat) (k : Ctl) (low : Nat) (a : BitVec 6) (c : BitVec 9) : Nat :=
  op major k + a.toNat * 2 ^ 9 + c.toNat + low

/-- The layout c [20:12], a [11:6]. -/
def layCa (major : Nat) (k : Ctl) (low : Nat) (c : BitVec 9) (a : BitVec 6) : Nat :=
  op major k + c.toNat * 2 ^ 12 + a.toNat * 2 ^ 6 + low

/-- The layout i [14:0]. -/
def layI (major : Nat) (k : Ctl) (low : Nat) (i : BitVec 15) : Nat :=
  op major k + i.toNat + low

/-- The word of an instruction, from the same layouts; 0 for an event, which has no encoding. -/
def encodeWord : Instr → Nat
  | .add k d a b => layDab 0x00 k 0 d a b
  | .sub k d a b => layDab 0x00 k 1 d a b
  | .and k d a b => layDab 0x00 k 2 d a b
  | .or k d a b => layDab 0x00 k 3 d a b
  | .xor k d a b => layDab 0x00 k 4 d a b
  | .shl k d a b => layDab 0x00 k 5 d a b
  | .shr k d a b => layDab 0x00 k 6 d a b
  | .sar k d a b => layDab 0x00 k 7 d a b
  | .mul k d a b => layDab 0x01 k 0 d a b
  | .mulh k d a b => layDab 0x01 k 1 d a b
  | .mulhu k d a b => layDab 0x01 k 2 d a b
  | .min k d a b => layDab 0x01 k 3 d a b
  | .max k d a b => layDab 0x01 k 4 d a b
  | .minu k d a b => layDab 0x01 k 5 d a b
  | .maxu k d a b => layDab 0x01 k 6 d a b
  | .andn k d a b => layDab 0x01 k 7 d a b
  | .div k d a b => layDab 0x02 k 0 d a b
  | .divu k d a b => layDab 0x02 k 1 d a b
  | .rem k d a b => layDab 0x02 k 2 d a b
  | .remu k d a b => layDab 0x02 k 3 d a b
  | .slt k d a b => layDab 0x02 k 4 d a b
  | .sltu k d a b => layDab 0x02 k 5 d a b
  | .orn k d a b => layDab 0x02 k 6 d a b
  | .clz k d a => layDa 0x03 k 0 d a
  | .ctz k d a => layDa 0x03 k 1 d a
  | .popc k d a => layDa 0x03 k 2 d a
  | .brev k d a => layDa 0x03 k 3 d a
  | .abs k d a => layDa 0x03 k 4 d a
  | .sxb k d a => layDa 0x03 k 5 d a
  | .sxh k d a => layDa 0x03 k 6 d a
  | .sxw k d a => layDa 0x03 k 7 d a
  | .addi k d a i => layDai 0x04 k 0 d a i
  | .andi k d a i => layDai 0x05 k 0 d a i
  | .ori k d a i => layDai 0x06 k 0 d a i
  | .xori k d a i => layDai 0x07 k 0 d a i
  | .shli k d a n => layDan 0x08 k 0 d a n
  | .shri k d a n => layDan 0x08 k 128 d a n
  | .sari k d a n => layDan 0x08 k 256 d a n
  | .slti k d a i => layDai 0x09 k 0 d a i
  | .sltiu k d a i => layDai 0x0A k 0 d a i
  | .li k d i => layDi 0x0B k 0 d i
  | .lsi k d i => layDi 0x0C k 0 d i
  | .adds1 k d a b => layDab 0x0D k 0 d a b
  | .adds2 k d a b => layDab 0x0D k 1 d a b
  | .adds3 k d a b => layDab 0x0D k 2 d a b
  | .adds4 k d a b => layDab 0x0D k 3 d a b
  | .bfx k d a b => layDab 0x0D k 4 d a b
  | .bfi k d a b => layDab 0x0D k 5 d a b
  | .ptox k d p => layDp 0x0D k 6 d p
  | .xtop k p a => layPa 0x0D k 7 p a
  | .sel k d a b p => layDabp 0x0E k 0 d a b p
  | .cmp k p a b c m => layPabcm 0x0F k 0 p a b c m
  | .cmpi k p a i c m => layPabcm 0x10 k 0 p a i c m
  | .pand k p q r => layPqr 0x11 k 0 p q r
  | .por k p q r => layPqr 0x11 k 1 p q r
  | .pxor k p q r => layPqr 0x11 k 2 p q r
  | .pandn k p q r => layPqr 0x11 k 3 p q r
  | .pnot k p q r => layPqr 0x11 k 4 p q r
  | .pmov k p q r => layPqr 0x11 k 5 p q r
  | .pset k p q r => layPqr 0x11 k 6 p q r
  | .pclr k p q r => layPqr 0x11 k 7 p q r
  | .bpt k n o => layNo 0x12 k 0 n o
  | .bpr k n a => layNa 0x13 k 0 n a
  | .jtab k a b => layAb 0x13 k 1 a b
  | .btox k d n => layDn 0x13 k 2 d n
  | .jd k n p g e l => layNpgel 0x14 k 0 n p g e l
  | .lps k a s => layAs 0x15 k 0 a s
  | .lbr k n => layN 0x15 k 1 n
  | .lcr k d => layD 0x15 k 2 d
  | .lcw k a => layA 0x15 k 3 a
  | .vany k p v => layPv 0x16 k 0 p v
  | .vall k p v => layPv 0x16 k 1 p v
  | .vnone k p v => layPv 0x16 k 2 p v
  | .ld k d a s h z => layDashz 0x17 k 0 d a s h z
  | .ldp k d a s h z => layDashz 0x18 k 0 d a s h z
  | .st k c a h z => layCahz 0x19 k 0 c a h z
  | .stp k c a h z => layCahz 0x1A k 0 c a h z
  | .ldacq k d a c => layDac 0x1B k 0 d a c
  | .strel k c a b => layCab 0x1B k 1 c a b
  | .ldfe k d a => layDa 0x1B k 2 d a
  | .stfe k a b => layAb 0x1B k 3 a b
  | .ldf k d a => layDa 0x1B k 4 d a
  | .stf k a b => layAb 0x1B k 5 a b
  | .fepr k p a => layPa 0x1B k 6 p a
  | .feset k a b => layAb 0x1B k 7 a b
  | .fence k m c => layMc 0x1C k 0 m c
  | .rpub k a => layA 0x1C k 1 a
  | .rview k d a => layDa 0x1C k 2 d a
  | .cwbr k a b => layAb 0x1C k 3 a b
  | .cinvr k a b => layAb 0x1C k 4 a b
  | .cpin k n a b => layNab 0x1C k 5 n a b
  | .cunpin k n => layN2 0x1C k 6 n
  | .pref k a => layA 0x1C k 7 a
  | .aadd k d a b => layDab 0x1D k 0 d a b
  | .amax k d a b => layDab 0x1D k 1 d a b
  | .amin k d a b => layDab 0x1D k 2 d a b
  | .aand k d a b => layDab 0x1D k 3 d a b
  | .aor k d a b => layDab 0x1D k 4 d a b
  | .axor k d a b => layDab 0x1D k 5 d a b
  | .aswp k d a b => layDab 0x1D k 6 d a b
  | .afadd k d a b => layDab 0x1D k 7 d a b
  | .acas k d a b => layDab 0x1E k 0 d a b
  | .acasW k d a b => layDab 0x1E k 1 d a b
  | .vadd k d a b => layDab 0x1F k 0 d a b
  | .vsub k d a b => layDab 0x1F k 1 d a b
  | .vmul k d a b => layDab 0x1F k 2 d a b
  | .vfma k d a b => layDab 0x1F k 3 d a b
  | .vmax k d a b => layDab 0x1F k 4 d a b
  | .vmin k d a b => layDab 0x1F k 5 d a b
  | .vfms k d a b => layDab 0x1F k 6 d a b
  | .vabd k d a b => layDab 0x1F k 7 d a b
  | .viadd k d a b => layDab 0x20 k 0 d a b
  | .visub k d a b => layDab 0x20 k 1 d a b
  | .vimul k d a b => layDab 0x20 k 2 d a b
  | .vand k d a b => layDab 0x20 k 3 d a b
  | .vor k d a b => layDab 0x20 k 4 d a b
  | .vxor k d a b => layDab 0x20 k 5 d a b
  | .vshl k d a b => layDab 0x20 k 6 d a b
  | .vshr k d a b => layDab 0x20 k 7 d a b
  | .vneg k d a => layDa 0x21 k 0 d a
  | .vabs k d a => layDa 0x21 k 1 d a
  | .vrcp k d a => layDa 0x21 k 2 d a
  | .vrsq k d a => layDa 0x21 k 3 d a
  | .vex2 k d a => layDa 0x21 k 4 d a
  | .vlg2 k d a => layDa 0x21 k 5 d a
  | .vflr k d a => layDa 0x21 k 6 d a
  | .vmov k d a => layDa 0x21 k 7 d a
  | .vcvt k d a t s u => layDatsu 0x22 k 0 d a t s u
  | .vcmp k p a b c => layPabc 0x23 k 0 p a b c
  | .vsel k d a b => layDab 0x24 k 0 d a b
  | .vprm k d a b => layDab 0x24 k 1 d a b
  | .vbc k d a => layDa 0x24 k 2 d a
  | .vext k d a b => layDab 0x24 k 3 d a b
  | .vins k d a b => layDab 0x24 k 4 d a b
  | .vrot k d a b => layDab 0x24 k 5 d a b
  | .vzip k d a b => layDab 0x24 k 6 d a b
  | .vuzp k d a b => layDab 0x24 k 7 d a b
  | .vradd k d a => layDa 0x25 k 0 d a
  | .vrmax k d a => layDa 0x25 k 1 d a
  | .vrmin k d a => layDa 0x25 k 2 d a
  | .vdot k d a b => layDab 0x25 k 3 d a b
  | .vramx k d a => layDa 0x25 k 4 d a
  | .vqnt k d a h => layDah 0x26 k 0 d a h
  | .vdq k d a h => layDah 0x26 k 1 d a h
  | .vhist k a h => layAh 0x26 k 2 a h
  | .vscx k d a h => layDah 0x26 k 3 d a h
  | .mdbind k a h => layAh 0x27 k 0 a h
  | .mdclose k h => layH 0x27 k 1 h
  | .mdread k d a h => layDah 0x27 k 2 d a h
  | .mdset k a h => layAh 0x27 k 3 a h
  | .mdpm k d a h => layDah 0x27 k 4 d a h
  | .mdwait k a h => layAh 0x27 k 5 a h
  | .stld k s a => layDa 0x28 k 0 s a
  | .stwr k s a f => laySaf 0x28 k 1 s a f
  | .strd k d s f => laySaf 0x28 k 2 d s f
  | .gset k g a => layPa 0x28 k 3 g a
  | .gclr k g => layG 0x28 k 4 g
  | .phase k => layNone 0x29 k 0
  | .phwt k d a => layDa 0x29 k 1 d a
  | .dmjoin k a => layA 0x29 k 2 a
  | .dmleave k => layNone 0x29 k 3
  | .bbpost k a b => layAb 0x29 k 4 a b
  | .bbwt k d a b => layDab 0x29 k 5 d a b
  | .waitc k a b => layAb 0x29 k 6 a b
  | .req k a b => layAb 0x29 k 7 a b
  | .tspawn k d a => layDa 0x2A k 0 d a
  | .tend k a => layA 0x2A k 1 a
  | .pwreq k d a => layDa 0x2A k 2 d a
  | .pwrel k => layNone 0x2A k 3
  | .accr k d c => layDc 0x2A k 4 d c
  | .esnr k d => layD 0x2A k 5 d
  | .csrr k d c => layDc2 0x2B k 0 d c
  | .csrw k a c => layAc 0x2C k 0 a c
  | .csrs k c a => layCa 0x2D k 4 c a
  | .csrc k c a => layCa 0x2D k 5 c a
  | .eret k => layNone 0x2D k 0
  | .tlbi k a b => layAb 0x2D k 1 a b
  | .fencei k => layNone 0x2D k 2
  | .wfe k => layNone 0x2D k 3
  | .halt k => layNone 0x2D k 6
  | .trap k i => layI 0x2E k 0 i
  | .stamp tk slot fsel val => 3 * 2 ^ 30 + tk.toNat * 2 ^ 26 + slot.toNat * 2 ^ 20 + fsel.toNat * 2 ^ 16 + val.toNat
  | .atomicReply | .loadResultLand | .bundleIssue | .join | .mwl | .mma
  | .mdr | .maz | .mas | .mar | .xtr | .xfw
  | .uaw | .usm | .uax | .uns | .cpy | .cpyPm
  | .cpyCv | .cpg | .cps | .cpm | .cpl | .cpz
  | .guardDiscard _ | .powerGrant _ | .unitReturn _ | .commandCompletion _ | .histogramUpdate | .iterationClose
  | .recordStore | .rd _ _ | .wr _ _ | .atMsg _ _ | .inv _ _ | .dataMsg _ _
  | .ack _ _ | .conflict _ _ | .retry _ _ | .write _ _ | .reduce _ _ | .readRequest _ _
  | .readReply _ _ | .control _ _ | .flipMarker _ _ | .link _ _ | .stop _ _ | .go _ _
  | .replay _ _ | .linkDown _ | .boundaryComplete _ | .boundaryRelease | .phwtTimeout | .bbwtDone
  | .bbwtTimeout | .qfullTimeout | .tspawnTimeout | .pwreqTimeout | .regionPush _ | .staleTimeout
  | .ringPoll _ | .allreduce | .reducescatter | .allgather | .broadcast | .agree
  | .barrier | .collectiveComplete | .fireCopy | .fireSum | .fireMax | .heldFireRetry _
  | .taskReady _ | .taskDispatch _ | .preempt _ | .continuationEnqueue | .downwardStep _ | .upwardStep _
  | .thermalBudgetLower _ | .thermalStep _ | .thermalTrip _ | .scrub _ | .traceSample | .dumpRecord _
  | .dumpMarker _ _ | .info _ | .attest _ _ | .fwLoad _ _ | .fwCommit _ | .queueSet _ _ _ _ _ _ _ _
  | .domainCreate _ _ _ _ _ _ _ | .regionSet _ _ _ | .policySet _ _ _ | .carve _ _ _ | .retnGrant _ _ _ _ _ | .fatSet _ _ _ _ _
  | .fatArm _ _ _ _ | .devidSet _ _ | .opSet _ _ _ | .budget _ _ _ | .rowmapRead _ _ _ _ | .eventRead _ _ _ _
  | .kill _ _ | .thaw _ _ | .thawMode1 _ _ | .acctRead _ _ _ _ | .imageMove _ _ _ _ | .dbgSet _ _ _
  | .dbgResume _ _ _ _ | .dbgTrace _ _ _ _ _ _ | .dbgInject _ _ _ | .dump _ _ _ _ | .dumpRead _ _ _ _ | .enqueue
  | .hqTailWrite _ _ | .controlPageWrite _ _ | .functionLevelReset | .powerOnReset | .hbmTraining _ | .rowTesting _
  | .plateBinding _ | .softError _ | .correctedErrorEvent _ _ | .msixVectorFire _ | .remap _ | .cycleCharge => 0

/-- The encoder: the words of a well-formed instruction (one word, or none for an event). -/
def encode (i : Instr) : List (BitVec 32) := if i.isWord then [BitVec.ofNat 32 (encodeWord i)] else []

end Sys2Proof
end

