-- ==== Sys2Proof/Config.lean ====
section
/-! DEFINITION. What the manual leaves open, as constants without a body: nothing in Lean can evaluate one, so a
statement that holds, holds whatever their values are. `State.fresh` counts; a key tells apart the places that draw
one in the same step. -/

namespace Sys2Proof

/-- An undefined 64-bit value (R5): the value of free place `key` at count `n`. Log entry 3 (DESIGN CHOICE). -/
opaque Config.freeWord (n key : Nat) : BitVec 64

/-- An undefined vector register (R5, R68). Log entry 3 (DESIGN CHOICE). -/
opaque Config.freeVReg (n key : Nat) : BitVec 2048

/-- An open choice between two outcomes the manual allows (R96, R218, R293). Log entry 3 (DESIGN CHOICE). -/
opaque Config.freeBit (n key : Nat) : Bool

/-- What errors of the matrix array change in the shadow value of an element (R46, R174), in the command that draws count n:
0 where there is none. Log entry 19 (DESIGN CHOICE). -/
opaque Config.arrayError (n key : Nat) : BitVec 48

/-- SHA3-384, a published standard the manual names and does not define (R381, R383). Log entry 28 (DESIGN CHOICE). -/
opaque Config.sha3 (bytes : List (BitVec 8)) : BitVec 384

/-- Both signatures of an image verify against keys whose digests match the fuses (R381). Log entry 28 (DESIGN CHOICE). -/
opaque Config.signaturesOk (image : FwImage) : Bool

/-- The digest of the ROM (R383). Log entry 28 (DESIGN CHOICE). -/
opaque Config.romDigest : BitVec 384

/-- The two identity public keys (R383). -/
opaque Config.identityKeys : List (BitVec 8)

/-- Ed25519 and ML-DSA-65 signatures over a message under the device's identity keys (R383).
Log entry 28 (DESIGN CHOICE). -/
opaque Config.identitySign (msg : List (BitVec 8)) : List (BitVec 8)

/-- The firmware images that the two slots hold when the part leaves power-on reset (R381). -/
opaque Config.slotImage (slotB : Bool) : FwImage

/-- What INFO returns (R378): stepping, capacities, mailbox addresses and the CXL capacity per port, which it is given
(R253); the manual gives no layout. -/
opaque Config.infoWords (cxl : List Nat) : List (BitVec 64)

/-- The bytes of a command's argument as a measurement takes them, and of the row maps (R383): no layout is given. -/
opaque Config.argBytes (cmd : Nat) (args : List Nat) : List (BitVec 8)

/-- The stepping as ATTEST reports it (R383). -/
opaque Config.stepping : List (BitVec 8)

/-- What the staged start of this part finds: the dies whose HBM trains, the rows that fail, the plates bound (R11, R268, R380).
Log entry 40 (DESIGN CHOICE). -/
opaque Config.trained : BitVec 4
opaque Config.rowFails : List RowFail
opaque Config.binding : List (BitVec 9 × BitVec 8)

/-- The capacity attached to each CXL port in bytes, as its memory devices give it (R253). -/
opaque Config.cxlCapacity (port : Nat) : Nat

/-- The barrier-tree message a control flit carries (R305), and its bytes: the manual gives no layout.
Log entry 22 (DESIGN CHOICE). -/
opaque Config.treeMsg (payload : List (BitVec 8)) : Option TreeMsg
opaque Config.treeBytes (m : TreeMsg) : List (BitVec 8)

/-- The bytes of a reply with a status, 0 for an acknowledgement, and the status that a reply holds (R316, R362): the manual gives
no layout. Log entry 22 (DESIGN CHOICE). -/
opaque Config.replyBytes (code : Nat) : List (BitVec 8)
opaque Config.replyCode (payload : List (BitVec 8)) : Nat

/-- What a flit's CRC starts from and ends with (R302): the manual gives the polynomial. Log entry 62 (DESIGN CHOICE). -/
opaque Config.crcStart : BitVec 32
opaque Config.crcFinal : BitVec 32

/-- The Amibuley port through which a device is reached: the wiring between devices is not the manual's.
Log entry 22 (DESIGN CHOICE). -/
opaque Config.portOf (dev : BitVec 12) : BitVec 4

/-- Junction temperature of a die in a cycle, in degrees, as its hottest sensor shows it (R385).
Log entry 41 (DESIGN CHOICE). -/
opaque Config.junction (cycle die : Nat) : Nat

/-- Busy cycles of a copy-engine command, beyond its first (R167): the memory path sets them, no figure is given.
Log entry 15 (DESIGN CHOICE). -/
opaque Config.cpeCycles (n : Nat) : Nat

/-- Cycles of a placement, staging, creation or restore (R328): no figure is given. Log entry 20 (DESIGN CHOICE). -/
opaque Config.launchCycles (n : Nat) : Nat

/-- How an event names an array (R356, R359): the manual gives no numbering; the argument is the array's row in R357.
Log entry 25 (DESIGN CHOICE). -/
opaque Config.arrayNumber (row : Nat) : BitVec 8

/-- How DETAIL names a comparator (R365): the manual gives no numbering. Kind 0 instruction, 1 engine, 2 watch.
Log entry 25 (DESIGN CHOICE). -/
opaque Config.comparatorName (kind slot : Nat) : BitVec 64

end Sys2Proof
end

