-- ==== Sys2Proof/Machine/Numbers.lean ====
section
/-! DEFINITION. The formats of spec/02_numbers.md: decoding, exact arithmetic, rounding, saturation and flags. A
number is exact: a sign, a natural mantissa and a power of two; `sticky` says that the value lies strictly between
the mantissa and the next one (quotients, roots, 2^x, log2 x). -/

namespace Sys2Proof

/-- An exact value: (−1)^neg × (m, or strictly between m and m + 1 when sticky) × 2^e, an infinity or a NaN. -/
inductive Num where
  | nan
  | inf (neg : Bool)
  | fin (neg : Bool) (m : Nat) (e : Int) (sticky : Bool)
  deriving DecidableEq, Repr

/-- The rounding modes of R33. -/
inductive RMode where
  | rne | rz | ru | rd | sr
  deriving DecidableEq, Repr

/-- The mode of a code; 5 to 7 are never held (R39). -/
def RMode.ofCode : Nat → RMode
  | 0 => .rne | 1 => .rz | 2 => .ru | 3 => .rd | _ => .sr

/-- FSTAT flags by name (R38). -/
def fNV : BitVec 6 := 1
def fOF : BitVec 6 := 2
def fUF : BitVec 6 := 4
def fNX : BitVec 6 := 8
def fSINV : BitVec 6 := 16
def fRUF : BitVec 6 := 32

/-- Number of bits of n: 0 for 0. -/
def bitLen (n : Nat) : Nat := if n = 0 then 0 else Nat.log2 n + 1

/-- 2^e as a multiplier for e ≥ 0, and 1 otherwise. -/
def pow2 (e : Int) : Nat := 2 ^ e.toNat

/-- Compare two exact magnitudes m1 × 2^e1 and m2 × 2^e2. -/
def cmpMag (m1 : Nat) (e1 : Int) (m2 : Nat) (e2 : Int) : Ordering :=
  compare (m1 * pow2 (e1 - e2)) (m2 * pow2 (e2 - e1))

/-- The value is zero. -/
def Num.isZero : Num → Bool
  | .fin _ 0 _ false => true
  | _ => false

def Num.isNan : Num → Bool
  | .nan => true
  | _ => false

/-- The sign of a value; a NaN has none. -/
def Num.isNeg : Num → Bool
  | .nan => false
  | .inf n => n
  | .fin n _ _ _ => n

def Num.neg : Num → Num
  | .nan => .nan
  | .inf n => .inf (!n)
  | .fin n m e s => .fin (!n) m e s

def Num.abs : Num → Num
  | .nan => .nan
  | .inf _ => .inf false
  | .fin _ m e s => .fin false m e s

/-- x × 2^k, exact (R40, R47). -/
def Num.scale : Num → Int → Num
  | .fin n m e s, k => .fin n m (e + k) s
  | x, _ => x

def Num.zero : Num := .fin false 0 0 false
def Num.one : Num := .fin false 1 0 false

/-- An integer as an exact value. -/
def Num.ofInt (i : Int) : Num := .fin (decide (i < 0)) i.natAbs 0 false

/-- The sign of an exact zero sum of two terms (R388). -/
def zeroSign (mode : RMode) (aZero bZero aNeg bNeg : Bool) : Bool :=
  if aZero && bZero && aNeg == bNeg then aNeg else decide (mode = .rd)

/-- An operation's exact result and whether it made a NaN of non-NaN operands (NV, R38). -/
abbrev NumFlag := Num × BitVec 6

/-- The exact sum (R142, R388): ∞ − ∞ is NaN with NV, a NaN operand gives NaN without a flag. -/
def Num.add (mode : RMode) : Num → Num → NumFlag
  | .nan, _ => (.nan, 0)
  | _, .nan => (.nan, 0)
  | .inf a, .inf b => if a = b then (.inf a, 0) else (.nan, fNV)
  | .inf a, .fin .. => (.inf a, 0)
  | .fin .., .inf b => (.inf b, 0)
  | .fin n1 m1 e1 _, .fin n2 m2 e2 _ =>
    let e := min e1 e2
    let v1 : Int := m1 * pow2 (e1 - e)
    let v2 : Int := m2 * pow2 (e2 - e)
    let v := (if n1 then -v1 else v1) + (if n2 then -v2 else v2)
    if v = 0 then (.fin (zeroSign mode (m1 = 0) (m2 = 0) n1 n2) 0 0 false, 0)
    else (.fin (decide (v < 0)) v.natAbs e false, 0)

/-- The exact product (R41): ∞ × 0 is NaN with NV. -/
def Num.mul : Num → Num → NumFlag
  | .nan, _ => (.nan, 0)
  | _, .nan => (.nan, 0)
  | .inf a, y => if y.isZero then (.nan, fNV) else (.inf (a != y.isNeg), 0)
  | .fin n m e s, .inf b =>
    if (Num.fin n m e s).isZero then (.nan, fNV) else (.inf (n != b), 0)
  | .fin n1 m1 e1 _, .fin n2 m2 e2 _ => (.fin (n1 != n2) (m1 * m2) (e1 + e2) false, 0)

/-- Bits of precision of quotients and roots: far above what any destination and SR need. Log entry 29 (DEDUCED). -/
def workBits : Nat := 320

/-- The exact quotient of nonzero finite magnitudes, truncated to `workBits` bits with a sticky rest. -/
def divMag (m1 : Nat) (e1 : Int) (m2 : Nat) (e2 : Int) : Nat × Int × Bool :=
  let k := workBits + bitLen m2
  let n := m1 * 2 ^ k
  (n / m2, e1 - e2 - k, decide (n % m2 ≠ 0))

/-- The exact quotient (R182): 0/0 and ∞/∞ are NaN with NV; x/0 is an infinity and sets no flag. Log entry 29 (DEDUCED). -/
def Num.div : Num → Num → NumFlag
  | .nan, _ => (.nan, 0)
  | _, .nan => (.nan, 0)
  | .inf _, .inf _ => (.nan, fNV)
  | .inf a, .fin n _ _ _ => (.inf (a != n), 0)
  | .fin n _ _ _, .inf b => (.fin (n != b) 0 0 false, 0)
  | .fin n1 m1 e1 s1, .fin n2 m2 e2 s2 =>
    if (Num.fin n2 m2 e2 s2).isZero then
      if (Num.fin n1 m1 e1 s1).isZero then (.nan, fNV) else (.inf (n1 != n2), 0)
    else if m1 = 0 then (.fin (n1 != n2) 0 0 false, 0)
    else
      let (q, e, st) := divMag m1 e1 m2 e2
      (.fin (n1 != n2) q e st, 0)

/-- Integer square root, bit by bit: `b` more bits below the root found so far. -/
def isqrtGo : Nat → Nat → Nat → Nat
  | 0, _, r => r
  | b + 1, n, r =>
    let t := r + 2 ^ b
    isqrtGo b n (if t * t ≤ n then t else r)

/-- ⌊√n⌋. -/
def isqrt (n : Nat) : Nat := isqrtGo (bitLen n / 2 + 1) n 0

/-- √(m × 2^e) for m > 0, with a sticky rest. -/
def sqrtMag (m : Nat) (e : Int) : Nat × Int × Bool :=
  let k : Nat := 2 * workBits + (e % 2).toNat
  let n := m * 2 ^ k
  let r := isqrt n
  (r, (e - k) / 2, decide (r * r ≠ n))

/-- √x (R182): below −0 NaN with NV; √(−0) is −0. Log entry 29 (DEDUCED). -/
def Num.sqrt : Num → NumFlag
  | .nan => (.nan, 0)
  | .inf n => if n then (.nan, fNV) else (.inf false, 0)
  | .fin n m e s =>
    if (Num.fin n m e s).isZero then (.fin n 0 0 false, 0)
    else if n then (.nan, fNV)
    else
      let (r, e', st) := sqrtMag m e
      (.fin false r e' st, 0)

/-- 1/√(m × 2^e) for m > 0, with a sticky rest. -/
def rsqrtMag (m : Nat) (e : Int) : Nat × Int × Bool :=
  let m' := if e % 2 = 0 then m else 2 * m
  let e' := if e % 2 = 0 then e else e - 1
  let k := workBits + bitLen m'
  let r := isqrt (2 ^ (2 * k) / m')
  (r, -(e' / 2) - k, decide (r * r * m' ≠ 2 ^ (2 * k)))

/-- Fixed-point bits of the approximations of 2^x and log2 x. -/
def approxBits : Nat := 448

/-- The product of 2^(2^−i) over the set bits i of the fraction, `n` bits left, `root` = 2^(2^−i) so far. -/
def exp2Go : Nat → Nat → Nat → Nat → Nat
  | 0, _, _, acc => acc
  | n + 1, f, root, acc =>
    let root' := isqrt (root * 2 ^ approxBits)
    let acc' := if f / 2 ^ n % 2 = 1 then acc * root' / 2 ^ approxBits else acc
    exp2Go n f root' acc'

/-- 2^(v × 2^(−approxBits)) for a fixed-point v: an exact power of two when the fraction is zero. -/
def exp2Fixed (v : Int) : Nat × Int × Bool :=
  let one : Int := 2 ^ approxBits
  let i := v / one
  let f := (v % one).toNat
  if f = 0 then (1, i, false)
  else (exp2Go approxBits f (2 * 2 ^ approxBits) (2 ^ approxBits), i - approxBits, true)

/-- 2^x for finite x, correctly truncated with a sticky rest (R144). Past ±4096 every destination over- or
underflows, so the exponent is held there. Log entry 29 (DEDUCED). -/
def exp2Num (neg : Bool) (m : Nat) (e : Int) : Num :=
  if m = 0 then .one
  else if (bitLen m : Int) + e > 12 then .fin false 1 (if neg then -4096 else 4096) true
  else
    let sh := e + approxBits
    let v : Int := if 0 ≤ sh then m * 2 ^ sh.toNat else m / 2 ^ (-sh).toNat
    let (r, x, st) := exp2Fixed (if neg then -v else v)
    .fin false r x st

/-- Bits of the fraction of log2 that are taken. -/
def logBits : Nat := 160

/-- Fraction bits of log2 y by repeated squaring, y fixed-point in [1, 2). -/
def log2Go : Nat → Nat → Nat → Nat
  | 0, _, acc => acc
  | n + 1, y, acc =>
    let y2 := y * y / 2 ^ approxBits
    if y2 ≥ 2 * 2 ^ approxBits then log2Go n (y2 / 2) (2 * acc + 1) else log2Go n y2 (2 * acc)

/-- ⌊log2(m × 2^e) × 2^logBits⌋ and whether a rest follows, for m > 0. -/
def log2Fixed (m : Nat) (e : Int) : Int × Bool :=
  let l := bitLen m - 1
  let i := e + l
  if m = 2 ^ l then (i * 2 ^ logBits, false)
  else (i * 2 ^ logBits + log2Go logBits (m * 2 ^ approxBits / 2 ^ l) 0, true)

/-- A fixed-point floor with a rest, as a value. -/
def ofFloor (v : Int) (e : Int) (st : Bool) : Num :=
  if 0 ≤ v then .fin false v.toNat e st
  else if st then .fin true (v.natAbs - 1) e true else .fin true v.natAbs e false

/-- log2 of a positive finite value (R144). Log entry 29 (DEDUCED). -/
def log2Num (m : Nat) (e : Int) : Num :=
  let (v, st) := log2Fixed m e
  ofFloor v (-logBits) st

/-- The value is an integer, and then which (zero counts). -/
def Num.toInt? : Num → Option Int
  | .fin n m e false =>
    if 0 ≤ e then some ((if n then -1 else 1) * (m * 2 ^ e.toNat : Nat))
    else if m % 2 ^ (-e).toNat = 0 then some ((if n then -1 else 1) * (m / 2 ^ (-e).toNat : Nat)) else none
  | _ => none

/-- |β|^step for a positive finite β and a finite step: exact for a small integer step, otherwise 2^(step × log2 β). -/
def powMag (m : Nat) (e : Int) (y : Num) : Num :=
  match y.toInt? with
  | some k =>
    if k.natAbs * bitLen m ≤ 65536 then
      let p := m ^ k.natAbs
      if 0 ≤ k then .fin false p (e * k) false
      else
        let (q, x, st) := divMag 1 0 p (e * k.natAbs)
        .fin false q x st
    else powGen m e y
  | none => powGen m e y
where
  /-- step × log2 β in fixed point, then 2^ of it. -/
  powGen (m : Nat) (e : Int) (y : Num) : Num :=
    let l := bitLen m - 1
    let lg : Int := (e + l) * 2 ^ approxBits +
      (if m = 2 ^ l then 0 else ((log2Go 192 (m * 2 ^ approxBits / 2 ^ l) 0 * 2 ^ (approxBits - 192) : Nat) : Int))
    match y with
    | .fin n ym ye _ =>
      let prod : Int := lg * ym * (if n then -1 else 1)
      let v : Int := if 0 ≤ ye then prod * 2 ^ ye.toNat else prod / 2 ^ (-ye).toNat
      if v.natAbs > 4096 * 2 ^ approxBits then .fin false 1 (if v < 0 then -4096 else 4096) true
      else
        let (r, x, st) := exp2Fixed v
        .fin false r x st
    | _ => .nan

/-- The integer value of a step is odd. -/
def Num.isOdd (y : Num) : Bool :=
  match y.toInt? with
  | some k => k % 2 != 0
  | none => false

/-- pow of IEEE 754-2019 clause 9.2, with its special cases (R182); NV for its invalid operation. -/
def Num.pow (x y : Num) : NumFlag :=
  if y.isZero then (.one, 0)
  else if x.toInt? = some 1 then (.one, 0)
  else match x, y with
  | .nan, _ => (.nan, 0)
  | _, .nan => (.nan, 0)
  | .inf _, .inf ny => (if ny then .fin false 0 0 false else .inf false, 0)
  | .inf n, .fin ny _ _ _ =>
    let sg := n && y.isOdd
    (if ny then .fin sg 0 0 false else .inf sg, 0)
  | .fin _ m e _, .inf ny =>
    match cmpMag m e 1 0 with
    | .eq => (.one, 0)
    | .lt => (if ny then .inf false else .fin false 0 0 false, 0)
    | .gt => (if ny then .fin false 0 0 false else .inf false, 0)
  | .fin n m e _, .fin ny _ _ _ =>
    if m = 0 then
      let sg := n && y.isOdd
      (if ny then .inf sg else .fin sg 0 0 false, 0)
    else if n then
      match y.toInt? with
      | none => (.nan, fNV)
      | some k => let p := powMag m e y; (if k % 2 = 0 then p else p.neg, 0)
    else (powMag m e y, 0)

/-- 1 − p for a power p that may carry a rest. -/
def oneMinus (mode : RMode) : Num → NumFlag
  | .fin false m e true =>
    let e' := min e 0
    let v : Int := pow2 (-e') - m * pow2 (e - e')
    if 0 < v then (.fin false (v.toNat - 1) e' true, 0) else (.fin true v.natAbs e' true, 0)
  | p => Num.add mode .one p.neg

/-! ### Rounding (R33 to R37) -/

/-- Round up (away from zero) by the mode: the part cut off is (rem, or a little more when sticky) / 2^sh, n is the
magnitude kept, rnd the generator's value under SR. -/
def roundsUp (mode : RMode) (neg : Bool) (n rem sh : Nat) (sticky : Bool) (rnd : Nat) : Bool :=
  let inexact := decide (rem ≠ 0) || sticky
  match mode with
  | .rne =>
    match compare (2 * rem) (2 ^ sh) with
    | .gt => true
    | .eq => sticky || n % 2 == 1
    | .lt => false
  | .rz => false
  | .ru => inexact && !neg
  | .rd => inexact && neg
  | .sr => decide (rnd < rem * 2 ^ 32 / 2 ^ sh)

/-- A magnitude rounded to the quantum 2^q: the new mantissa and whether it is inexact. -/
def roundQuantum (mode : RMode) (neg : Bool) (m : Nat) (e : Int) (sticky : Bool) (q : Int) (rnd : Nat) : Nat × Bool :=
  if q ≤ e then
    let n := m * 2 ^ (e - q).toNat
    (n + (if sticky && (match mode with | .ru => !neg | .rd => neg | _ => false) then 1 else 0), sticky)
  else
    let sh := (q - e).toNat
    let n := m / 2 ^ sh
    let rem := m % 2 ^ sh
    (n + (if roundsUp mode neg n rem sh sticky rnd then 1 else 0), decide (rem ≠ 0) || sticky)

/-- A binary float format: widths of exponent and mantissa, bias, largest finite mantissa × 2^exponent, whether it
has infinities, the words for NaN and for a magnitude past the largest. -/
structure FFmt where
  ebits : Nat
  mbits : Nat
  bias  : Nat
  maxN  : Nat
  maxQ  : Int
  inf   : Bool
  nan   : Nat
  deriving DecidableEq, Repr

/-- Mode result when the magnitude overflows and SAT = 0 (R35): true for the word past the largest. -/
def overflowsOut (mode : RMode) (neg : Bool) : Bool :=
  match mode with
  | .rne => true | .sr => true | .rz => false | .ru => !neg | .rd => neg

/-- Sign in place above exponent and mantissa. -/
def FFmt.signBit (f : FFmt) (neg : Bool) : Nat := if neg then 2 ^ (f.ebits + f.mbits) else 0

/-- The word of n × 2^q, n < 2^(mbits+1), at the format's quantum. -/
def FFmt.word (f : FFmt) (neg : Bool) (n : Nat) (q : Int) : Nat :=
  let (n, q) := if n = 2 ^ (f.mbits + 1) then (2 ^ f.mbits, q + 1) else (n, q)
  f.signBit neg +
    (if n < 2 ^ f.mbits then n else (q + f.mbits + f.bias).toNat * 2 ^ f.mbits + (n - 2 ^ f.mbits))

/-- The word past the largest finite magnitude: an infinity, or the NaN encoding of R35 with the sign in E4M3. -/
def FFmt.beyond (f : FFmt) (neg : Bool) : Nat :=
  if f.inf then f.signBit neg + (2 ^ f.ebits - 1) * 2 ^ f.mbits else f.signBit neg + f.nan

/-- The largest finite word with a sign. -/
def FFmt.largest (f : FFmt) (neg : Bool) : Nat := f.word neg f.maxN f.maxQ

/-- Round an exact value into a binary float format (R33, R35, R36, R22): word and flags. Log entry 30 (DEDUCED). -/
def FFmt.round (f : FFmt) (mode : RMode) (sat : Bool) (rnd : Nat) : Num → Nat × BitVec 6
  | .nan => (f.nan, 0)
  | .inf neg =>
    if f.inf then (f.beyond neg, 0)
    else if sat || !overflowsOut mode neg then (f.largest neg, fOF ||| fNX) else (f.beyond neg, fOF)
  | .fin neg m e sticky =>
    if m = 0 ∧ sticky = false then (f.signBit neg, 0)
    else
      let emin : Int := 1 - f.bias
      let ex := e + (bitLen m : Int) - 1
      let tiny := decide (ex < emin) || decide (m = 0)
      let q := max (if m = 0 then emin - f.mbits else ex - f.mbits) (emin - f.mbits)
      let (n, inexact) := roundQuantum mode neg m e sticky q rnd
      let (n', q') := if n = 2 ^ (f.mbits + 1) then (2 ^ f.mbits, q + 1) else (n, q)
      if q' > f.maxQ ∨ (q' = f.maxQ ∧ n' > f.maxN) then
        if sat || !overflowsOut mode neg then (f.largest neg, fOF ||| fNX)
        else (f.beyond neg, fOF)
      else
        (f.word neg n' q',
          (if inexact then fNX else 0) ||| (if tiny && inexact then fUF else 0))

def fp32  : FFmt := ⟨8, 23, 127, 2 ^ 24 - 1, 104, true, 0x7FC00000⟩
def bf16  : FFmt := ⟨8, 7, 127, 2 ^ 8 - 1, 120, true, 0x7FC0⟩
def fp16  : FFmt := ⟨5, 10, 15, 2 ^ 11 - 1, 5, true, 0x7E00⟩
def acc48 : FFmt := ⟨8, 39, 127, 2 ^ 40 - 1, 88, true, 0x7FC000000000⟩
def e4m3  : FFmt := ⟨4, 3, 7, 14, 5, false, 0x7F⟩
def e5m2  : FFmt := ⟨5, 2, 15, 7, 13, true, 0x7E⟩
/-- E2M1, the element of MXFP4: largest 6 (R26). -/
def e2m1  : FFmt := ⟨2, 1, 1, 3, 1, false, 0⟩

/-- Decode a word of a binary float format whose all-ones exponent is IEEE's (R21, R32, E5M2 of R23). -/
def FFmt.decodeIeee (f : FFmt) (w : Nat) : Num :=
  let neg := w / 2 ^ (f.ebits + f.mbits) % 2 == 1
  let ex := w / 2 ^ f.mbits % 2 ^ f.ebits
  let fr := w % 2 ^ f.mbits
  if ex = 2 ^ f.ebits - 1 then (if fr = 0 then .inf neg else .nan)
  else if ex = 0 then .fin neg fr (1 - (f.bias : Int) - f.mbits) false
  else .fin neg (fr + 2 ^ f.mbits) ((ex : Int) - f.bias - f.mbits) false

/-- Decode a word of a format whose all-ones exponent is an ordinary binade (E4M3, UE4M3, E2M1). -/
def FFmt.decodeFull (f : FFmt) (w : Nat) : Num :=
  let neg := w / 2 ^ (f.ebits + f.mbits) % 2 == 1
  let ex := w / 2 ^ f.mbits % 2 ^ f.ebits
  let fr := w % 2 ^ f.mbits
  if ex = 0 then .fin neg fr (1 - (f.bias : Int) - f.mbits) false
  else .fin neg (fr + 2 ^ f.mbits) ((ex : Int) - f.bias - f.mbits) false

/-- E4M3: S.1111.111 is NaN (R23). -/
def decodeE4m3 (w : Nat) : Num := if w % 128 = 127 then .nan else e4m3.decodeFull w

/-- UE4M3 as an unsigned scale (R24): the value and whether it is invalid (bit 7 set). -/
def decodeUe4m3 (w : Nat) : NumFlag :=
  if w / 128 % 2 = 1 then (.nan, fSINV)
  else if w % 128 = 127 then (.nan, 0) else (e4m3.decodeFull (w % 128), 0)

/-- E8M0 (R25): 2^(E − 127), 0xFF NaN. -/
def decodeE8m0 (w : Nat) : Num := if w % 256 = 255 then .nan else .fin false 1 ((w % 256 : Nat) - 127) false

/-- Length of the run of bits equal to `lead` from bit i − 1 downward (R28). -/
def regimeRun (m : Nat) (lead : Nat) : Nat → Nat
  | 0 => 0
  | i + 1 => if m / 2 ^ i % 2 = lead then regimeRun m lead i + 1 else 0

/-- A GF magnitude code m ≠ 0 of nb bits: mantissa and exponent (R28). -/
def gfMag (nb m : Nat) : Nat × Int :=
  let lead := m / 2 ^ (nb - 1) % 2
  let k := regimeRun m lead nb
  let rg : Int := if lead = 1 then (k : Int) - 1 else -(k : Int)
  let left := nb - k - 1
  let ex := if left ≥ 1 then m / 2 ^ (left - 1) % 2 else 0
  let n := left - 1
  (2 ^ n + m % 2 ^ n, 2 * rg + ex - n)

/-- Decode a GF8 (w = 8) or GF6 (w = 6) word (R28). -/
def gfDecode (w bits : Nat) : Num :=
  let nb := w - 1
  let s := bits / 2 ^ nb % 2 == 1
  let m := bits % 2 ^ nb
  if m = 0 then (if s then .nan else .zero)
  else let (n, e) := gfMag nb m; .fin s n e false

/-- The largest GF code up to `c` whose magnitude does not exceed m × 2^e; 0 if none does. -/
def gfFloor (nb m : Nat) (e : Int) : Nat → Nat
  | 0 => 0
  | c + 1 =>
    let (n, x) := gfMag nb (c + 1)
    if cmpMag n x m e != .gt then c + 1 else gfFloor nb m e c

/-- Round into GF8 or GF6 (R30): nearest, a tie to the even code, ends saturate; a finite result of an infinity is an
overflow and inexact (R35). -/
def gfRound (w : Nat) : Num → Nat × BitVec 6
  | .nan => (2 ^ (w - 1), 0)
  | .inf neg => ((if neg then 2 ^ (w - 1) else 0) + (2 ^ (w - 1) - 1), fOF ||| fNX)
  | .fin neg m e sticky =>
    let sg := if neg then 2 ^ (w - 1) else 0
    let top := 2 ^ (w - 1) - 1
    if m = 0 ∧ sticky = false then (0, 0)
    else
      let c := gfFloor (w - 1) m e top
      if c = 0 then (sg + 1, fUF ||| fNX)
      else
        let (n, x) := gfMag (w - 1) c
        if cmpMag n x m e = .eq ∧ sticky = false then (sg + c, 0)
        else if c = top then (sg + top, fOF ||| fNX)
        else
          let (n2, x2) := gfMag (w - 1) (c + 1)
          -- compare 2 × value with lo + hi
          let b := min x x2
          match cmpMag (2 * m) e (n * pow2 (x - b) + n2 * pow2 (x2 - b)) b with
          | .gt => (sg + c + 1, fNX)
          | .eq => if sticky then (sg + c + 1, fNX) else (sg + (if c % 2 = 0 then c else c + 1), fNX)
          | .lt => (sg + c, fNX)

/-- Round into UE4M3 (R36): as E4M3 but for negative values, NaN and −0. -/
def ue4m3Round (mode : RMode) (sat : Bool) (rnd : Nat) (x : Num) : Nat × BitVec 6 :=
  match x with
  | .nan => (0x7F, fNV)
  | .inf true => (0x7F, fNV)
  | x =>
    if x.isZero then (0, 0)
    else if x.isNeg then (0x7F, fNV)
    else e4m3.round mode sat rnd x

/-- Round into E8M0 (R36): x = m × 2^k with 1 ≤ m < 2, m rounded to 1 or 2; a tie to the even exponent.
Log entry 30 (DEDUCED). -/
def e8m0Round (mode : RMode) (sat : Bool) (rnd : Nat) (x : Num) : Nat × BitVec 6 :=
  match x with
  | .nan => (0xFF, fNV)
  | .inf neg =>
    if neg then (0xFF, fNV)
    else if sat || !overflowsOut mode false then (0xFE, fOF ||| fNX) else (0xFF, fOF)
  | .fin neg m e sticky =>
    if neg ∨ m = 0 then (0xFF, fNV)
    else
      let l := bitLen m - 1
      let k := e + l
      let rem := m - 2 ^ l
      let inexact := decide (rem ≠ 0) || sticky
      -- the parity of the kept "last digit" is that of the exponent k
      let up := roundsUp mode false (k % 2).toNat rem l sticky rnd
      let k' := if up then k + 1 else k
      if k < -127 then (0x00, fUF ||| fNX)
      else if k' > 127 then
        if sat || !overflowsOut mode false then (0xFE, fOF ||| fNX) else (0xFF, fOF)
      else ((k' + 127).toNat, if inexact then fNX else 0)

/-- Round to an integer of `bits` bits, saturating (R37): the two's-complement word and flags. -/
def intRound (bits : Nat) (mode : RMode) (rnd : Nat) (x : Num) : Nat × BitVec 6 :=
  let hi : Int := 2 ^ (bits - 1) - 1
  let lo : Int := -2 ^ (bits - 1)
  let enc (v : Int) : Nat := (v % 2 ^ bits).toNat
  match x with
  | .nan => (0, fNV)
  | .inf neg => (enc (if neg then lo else hi), fNV)
  | .fin neg m e sticky =>
    let (n, inexact) := roundQuantum mode neg m e sticky 0 rnd
    let v : Int := if neg then -(n : Int) else n
    if v > hi then (enc hi, fNV) else if v < lo then (enc lo, fNV)
    else (enc v, if inexact then fNX else 0)

/-- The value of a two's-complement word. -/
def intDecode (bits w : Nat) : Num :=
  Num.ofInt (if w % 2 ^ bits ≥ 2 ^ (bits - 1) then (w % 2 ^ bits : Nat) - 2 ^ bits else (w % 2 ^ bits : Nat))

/-- decode of R40 for an element format; MXFP4 elements decode without their block scale (R26). -/
def decodeFmt (fmt : Nat) (w : Nat) : NumFlag :=
  match fmt with
  | 0 => (fp32.decodeIeee w, 0)
  | 1 => (bf16.decodeIeee w, 0)
  | 2 => (fp16.decodeIeee w, 0)
  | 3 => (decodeE4m3 w, 0)
  | 4 => (e5m2.decodeIeee w, 0)
  | 5 => (gfDecode 8 w, 0)
  | 6 => (gfDecode 6 (w % 64), 0)
  | 7 | 8 => (e2m1.decodeFull w, 0)
  | 9 => (intDecode 8 w, 0)
  | 10 => (intDecode 32 w, 0)
  | 11 => (acc48.decodeIeee w, 0)
  | 12 => decodeUe4m3 w
  | _ => (decodeE8m0 w, 0)

/-- round_fmt of R40 for an element format and the scale formats; integers round by R37. Log entry 30 (DEDUCED). -/
def roundFmt (fmt : Nat) (x : Num) (mode : RMode) (sat : Bool) (rnd : Nat) : Nat × BitVec 6 :=
  match fmt with
  | 0 => fp32.round mode sat rnd x
  | 1 => bf16.round mode sat rnd x
  | 2 => fp16.round mode sat rnd x
  | 3 => e4m3.round mode sat rnd x
  | 4 => e5m2.round mode sat rnd x
  | 5 => gfRound 8 x
  | 6 => gfRound 6 x
  | 7 | 8 => e2m1.round mode true rnd x
  | 9 => intRound 8 mode rnd x
  | 10 => intRound 32 mode rnd x
  | 11 => acc48.round mode sat rnd x
  | 12 => ue4m3Round mode sat rnd x
  | _ => e8m0Round mode sat rnd x

/-- A rounding into the format takes a generator step under SR (R34). Log entry 31 (DESIGN CHOICE). -/
def takesStep (fmt : Nat) : Bool := fmt ≠ 5 && fmt ≠ 6

/-- acc_round of R40. -/
def accRound (x : Num) : Nat × BitVec 6 := acc48.round .rne false 0 x

/-- scale2 of R40: x × 2^k, rounded only where it leaves the ACC48 range, RUF if bits were lost. -/
def scale2 (x : Num) (k : Int) : Num × BitVec 6 :=
  let y := x.scale k
  let (w, f) := accRound y
  let z := acc48.decodeIeee w
  if f &&& fNX ≠ 0 ∨ f &&& fOF ≠ 0 then (z, fRUF ||| (f &&& fOF)) else (y, 0)

/-- Element width in bits in a register (R139). -/
def fmtWidth : Nat → Nat
  | 0 => 32 | 1 => 16 | 2 => 16 | 7 => 4 | 8 => 4 | 10 => 32 | 11 => 48 | _ => 8

/-- Binade of a format's largest finite value (R225). -/
def emax : Nat → Int
  | 1 => 127 | 2 => 15 | 3 => 8 | 4 => 15 | 5 => 12 | 6 => 8 | 9 => 6 | 7 => 2 | 8 => 11 | _ => 127

/-- |x| exceeds the format's largest finite value, or is infinite (R152). The largest is judged for the element, so
6 for E2M1. -/
def exceedsMax (fmt : Nat) (x : Num) : Bool :=
  match x with
  | .nan => false
  | .inf _ => true
  | .fin _ m e st =>
    let (n, q) : Nat × Int :=
      match fmt with
      | 0 => (fp32.maxN, fp32.maxQ) | 1 => (bf16.maxN, bf16.maxQ) | 2 => (fp16.maxN, fp16.maxQ)
      | 3 => (14, 5) | 4 => (7, 13) | 5 => (1, 12) | 6 => (1, 8) | 7 => (3, 1) | 8 => (3, 1) | 9 => (127, 0)
      | _ => (acc48.maxN, acc48.maxQ)
    match cmpMag m e n q with
    | .gt => true
    | .eq => st
    | .lt => false

/-- ⌊log2 |x|⌋ of a nonzero finite value. -/
def ilog2 : Num → Int
  | .fin _ m e _ => e + (bitLen m : Int) - 1
  | _ => 0

/-- pick of R142 on words: −0 below +0; the other operand of a NaN; the default NaN of two. -/
def pickMax (fmt : Nat) (isMax : Bool) (a b : Nat) (nanWord : Nat) : Nat :=
  let x := (decodeFmt fmt a).1
  let y := (decodeFmt fmt b).1
  match x, y with
  | .nan, .nan => nanWord
  | .nan, _ => b
  | _, .nan => a
  | x, y =>
    let key : Num → Int := fun v =>
      match v with
      | .nan => 0
      | .inf n => if n then -(2 : Int) ^ 700 else 2 ^ 700
      | .fin n m e _ =>
        -- an order-preserving integer: value × 2^300, with −0 below +0
        let t : Int := 2 * (m * 2 ^ (e + 300).toNat : Nat)
        if n then -t - 1 else t
    if (decide (key x ≥ key y)) == isMax then a else b

/-- x < y on the extended reals, −0 = +0; false when either is NaN (R147). -/
def Num.lt (x y : Num) : Bool :=
  match x, y with
  | .nan, _ => false
  | _, .nan => false
  | x, y =>
    match Num.add .rne x y.neg with
    | (.nan, _) => false
    | (d, _) => d.isNeg && !d.isZero

/-- x = y on the extended reals, −0 = +0; false when either is NaN (R147). -/
def Num.eq (x y : Num) : Bool :=
  match x, y with
  | .nan, _ => false
  | _, .nan => false
  | .inf a, .inf b => a == b
  | .inf _, _ => false
  | _, .inf _ => false
  | x, y => (Num.add .rne x y.neg).1.isZero

end Sys2Proof
end

