-- ==== Sys2Proof/Machine/SMap.lean ====
section
/-! DEFINITION. Sparse tables in canonical form, and four-element tables: the two containers every store of the
machine uses. -/

namespace Sys2Proof

/-- What key `k` holds; an unlisted key reads as `d`. -/
def SMap.get {α : Type} (d : α) : SMap α → Nat → α
  | [], _ => d
  | (j, v) :: m, k => if j = k then v else if k < j then d else SMap.get d m k

/-- Put `v` at key `k`. Writing the value an unlisted key reads as removes the entry. -/
def SMap.set {α : Type} [DecidableEq α] (d : α) : SMap α → Nat → α → SMap α
  | [], k, v => if v = d then [] else [(k, v)]
  | (j, u) :: m, k, v =>
    if k < j then (if v = d then (j, u) :: m else (k, v) :: (j, u) :: m)
    else if k = j then (if v = d then m else (k, v) :: m)
    else (j, u) :: SMap.set d m k v

/-- The canonical form: keys strictly rising, no entry equal to the default. -/
def SMap.wf {α : Type} [DecidableEq α] (d : α) : SMap α → Bool
  | [] => true
  | [(_, v)] => decide (v ≠ d)
  | (j, v) :: (k, w) :: m => decide (v ≠ d) && decide (j < k) && SMap.wf d ((k, w) :: m)

/-- Element i of four (R53: C, L, X, S; dies 0 to 3; engines in code order). -/
def Quad.get {α : Type} (q : Quad α) : Nat → α
  | 0 => q.q0
  | 1 => q.q1
  | 2 => q.q2
  | _ => q.q3

/-- Replace element i of four. -/
def Quad.set {α : Type} (q : Quad α) (i : Nat) (v : α) : Quad α :=
  match i with
  | 0 => { q with q0 := v }
  | 1 => { q with q1 := v }
  | 2 => { q with q2 := v }
  | _ => { q with q3 := v }

/-- The same value four times. -/
def Quad.all {α : Type} (v : α) : Quad α := ⟨v, v, v, v⟩

/-- The four elements in order. -/
def Quad.toList {α : Type} (q : Quad α) : List α := [q.q0, q.q1, q.q2, q.q3]

/-- Apply a function to each of the four. -/
def Quad.map {α β : Type} (f : α → β) (q : Quad α) : Quad β := ⟨f q.q0, f q.q1, f q.q2, f q.q3⟩

/-- The number of a strand: 0 C, 1 L, 2 X, 3 S (R93). -/
def Strand.num : Strand → Nat
  | .c => 0 | .l => 1 | .x => 2 | .s => 3

/-- The strand with a number. -/
def Strand.ofNum : Nat → Strand
  | 0 => .c | 1 => .l | 2 => .x | _ => .s

/-- The next neighbour on the ring C, L, X, S, C (R57). -/
def Strand.next : Strand → Strand
  | .c => .l | .l => .x | .x => .s | .s => .c

/-- The previous neighbour on the ring (R57). -/
def Strand.prev : Strand → Strand
  | .c => .s | .l => .c | .x => .l | .s => .x

/-- The code of an engine (R69). -/
def Engine.num : Engine → Nat
  | .mxe => 0 | .txe => 1 | .ude => 2 | .cpe => 3

/-- The engine with a code (R69). -/
def Engine.ofNum : Nat → Engine
  | 0 => .mxe | 1 => .txe | 2 => .ude | _ => .cpe

/-- The code of a slot cause (R340). -/
def Slot.code : Slot → Nat
  | .issue => 0 | .dep => 1 | .token => 2 | .qfull => 3 | .bankport => 4 | .ifetch => 5 | .dmem => 6
  | .fewait => 7 | .barrier => 8 | .stale => 9 | .grant => 10 | .wake => 11 | .scalever => 12 | .trap => 13
  | .switch => 14 | .idle => 15

/-- The place of a cause in the precedence of R341: the smaller is charged first. -/
def Slot.rank : Slot → Nat
  | .trap => 0 | .switch => 1 | .wake => 2 | .bankport => 3 | .ifetch => 4 | .dmem => 5 | .stale => 6
  | .fewait => 7 | .barrier => 8 | .grant => 9 | .scalever => 10 | .qfull => 11 | .token => 12 | .dep => 13
  | .idle => 14 | .issue => 15

/-- The code of an engine cause (R343). -/
def EngCause.code : EngCause → Nat
  | .busy => 0 | .input => 1 | .grant => 2 | .guard => 3 | .bank => 4 | .backpressure => 5 | .idle => 6

/-- The code of a trap cause (R212). -/
def Cause.code : Cause → Nat
  | .illegal => 0x01 | .priv => 0x02 | .misalign => 0x03 | .page => 0x04 | .prot => 0x05 | .eccUncorr => 0x06
  | .mxBank => 0x07 | .tensorOvf => 0x08 | .postmarkStale => 0x09 | .scaleInv => 0x0A | .proofMismatch => 0x0B
  | .sigMismatch => 0x0C | .xeOvf => 0x0D | .capacity => 0x0E | .qfullTimeout => 0x0F | .bbOverrun => 0x10
  | .staleTimeout => 0x11 | .swtrap => 0x14 | .watch => 0x16

end Sys2Proof
end

