-- ==== Sys2Proof/Machine/State.lean ====
section
/-! DEFINITION. The state of a Llynif K4 as plain data: the context and the plate in focus, every other context and
plate, the four dies and the device. Each field's docstring names the rule of spec/ that gives it; fields marked
MODEL are the model's own. -/

namespace Sys2Proof.Machine

/-! ### Parts of a context -/

/-- MODEL (R96): how many words of each strand a strand has synchronised with. Log entry 4 (DESIGN CHOICE). -/
structure Clock where
  c : Nat
  l : Nat
  x : Nat
  s : Nat
  /-- Completed engine commands of the context whose effects it has observed (R119). -/
  e : Nat
  deriving DecidableEq, Repr

/-- A landed push: the clock it carries, and whether an atomic's reply pushed it, so that its pop acquires (R137). -/
structure Token where
  clk : Clock
  acq : Bool
  deriving DecidableEq, Repr

/-- A shared register with the value before its last write, the strand that wrote it and that strand's word count:
what R96 needs to say which value another strand sees. Log entry 4 (DESIGN CHOICE). -/
structure Cell (α : Type) where
  val  : α
  old  : α
  wr   : Strand
  tick : Nat
  deriving DecidableEq, Repr

/-- Control state of one strand (R55, R60, R110, R194). -/
structure StrandSt where
  /-- Address of the strand's next word; in lock-step, of the next bundle (R53, R55). -/
  pc     : Word
  /-- Pending transfer: target and delay slots still to run (R110). -/
  xfer   : Option (Word × Nat)
  /-- The strand has executed a join word and waits (R55). -/
  joined : Bool
  /-- The word at pc has performed its issue step (R194). -/
  mark   : Bool
  /-- Cycle in which the word at pc began to wait, for its limit (R196, R201, R204, R291). -/
  since  : Option Nat
  /-- The context's latest ESN when the word at pc began to wait: what was queued before it (R190, R196). -/
  upto   : BitVec 32
  /-- MODEL: the word at pc has finished while another word of its bundle still waits (R194). -/
  past   : Bool
  /-- b0 to b3 (R60, R96). -/
  b      : Quad Word
  /-- MODEL: the strand's clock (R96). -/
  clk    : Clock
  deriving DecidableEq, Repr

/-- Hardware-loop state (05, "Hardware loops"). -/
structure LoopSt where
  lc     : Word
  ls     : Nat
  ldc    : Nat
  active : Bool
  deriving DecidableEq, Repr

/-- The context CSRs that are stored (R88); CTXID, PLATEID, CYCLE, OPCUR, CM, SPRES, SPCAP are read from their home. -/
structure Csrs where
  vtype   : Word
  rndm    : Word
  vvb     : Word
  mvb     : Word
  mvs     : Word
  versel  : Word
  fstat   : Word
  dmr     : Word
  phcnt   : Word
  tvec    : Word
  tcause  : Word
  tpc     : Word
  tword   : Word
  tesn    : Word
  taddr   : Word
  tstrand : Word
  rbpm    : Word
  accbase : Word
  accctl  : Word
  reqto   : Word
  staleto : Word
  sigctl  : Word
  sigstat : Word
  deriving DecidableEq, Repr

/-- An engine queue entry (R159). -/
structure QEntry where
  stencil : BitVec 256
  rega    : Word
  regb    : Word
  esn     : BitVec 32
  rmode   : BitVec 3
  spc     : Word
  sstr    : BitVec 2
  qp      : Bool
  qn      : Bool
  /-- Its guard has been read at the head and lets it run (R72). -/
  armed   : Bool
  /-- MODEL: the issuing strand's clock, carried by the completion push (R96, R162). -/
  clk     : Clock
  /-- MODEL: the context's views when it was stamped, and the count of free values then: a command reads under these views and
  the marks made before, or under those of its own acquire (R279). -/
  views   : SMap (BitVec 16)
  stamped : Nat
  deriving DecidableEq, Repr

/-- What a started command holds from its start: the record its handle named then, the views it reads under, and the count of
free values up to which a line's mark is one for it (R189, R279). -/
structure Bound where
  handle : Option (Nat × Option (Nat × List Word))
  view   : SMap (BitVec 16)
  upTo   : Nat
  deriving DecidableEq, Repr

/-- What the trap frame captures of a strand (R214 step 3). -/
structure FrameStrand where
  pc     : Word
  xfer   : Option (Word × Nat)
  joined : Bool
  mark   : Bool
  since  : Option Nat
  upto   : BitVec 32
  past   : Bool
  deriving DecidableEq, Repr

/-- The trap frame (R214). -/
structure Frame where
  strands  : Quad FrameStrand
  lockstep : Bool
  /-- MODEL: the trapping strand's pending transfer if its handler goes on past the trapping word or bundle (R110, R387).
  Log entry 57 (DESIGN CHOICE). -/
  after    : Option (Word × Nat)
  deriving DecidableEq, Repr

/-- A latched scale entry: version, format, exponent (R48, R222). -/
structure ScaleEnt where
  ver : BitVec 16
  fmt : BitVec 4
  e   : Int
  deriving DecidableEq, Repr

/-- Scale tag of an accumulator tile (R48, R178). -/
structure TileTag where
  e      : Int
  verA   : BitVec 16
  verW   : BitVec 16
  hndA   : BitVec 8
  hndW   : BitVec 8
  tagged : Bool
  deriving DecidableEq, Repr

/-- An accumulator tile: element (t, j) at key 128 t + j, 48 bits, and its tag (R15, R45). -/
structure Tile where
  elems : SMap (BitVec 48)
  tag   : TileTag
  deriving DecidableEq, Repr

/-- The loaded weight (R169, R173): element (kept row, column) at key 128 × row + column as its exact value's word. -/
structure Weight where
  k      : Nat
  n      : Nat
  fmt    : Nat
  sparse : Nat
  /-- The logical rows kept, ascending (R44, R171). -/
  kept   : List Nat
  /-- Latched entry and handle when scaled (R48). -/
  ent    : Option (ScaleEnt × BitVec 5)
  /-- Stored rows: the words of the elements, and for MXFP4 the block-scale words. -/
  elems  : SMap (BitVec 32)
  scales : SMap (BitVec 8)
  /-- Granules of the stored rows and the mask; empty for a weight from the staging buffer (R173). -/
  grans  : List Nat
  deriving DecidableEq, Repr

/-- The transpose staging buffer (R180, R319). -/
structure Staging where
  /-- Element size code of each of the 16 blocks: 0 one byte, 1 two. -/
  esz    : BitVec 16
  landed : BitVec 16
  elems  : SMap (BitVec 16)
  /-- The half a started MWL reads. -/
  full   : SMap (BitVec 16)
  deriving DecidableEq, Repr

/-- A signature slot (R352). -/
structure SigSlot where
  hash  : Word
  bytes : BitVec 32
  valid : Bool
  esn   : BitVec 32
  deriving DecidableEq, Repr

/-- A power booking: units booked and units its running commands hold (R209). -/
structure Booking where
  size : Nat
  used : Nat
  deriving DecidableEq, Repr

/-- A register a result lands in (R68, R205, R150). -/
inductive Dest where
  | x (n : Nat) | v (line : Nat) | p (n : Nat) | vp (n : Nat) | stencil (n : Nat) | versel
  deriving DecidableEq, Repr

/-- A result within its latency bound: words its strand must still issue before a read is defined (R68). -/
structure Pend where
  strand : Strand
  dest   : Dest
  left   : Nat
  /-- Cycle by which it has landed, for a word that waits for it (R70). -/
  land   : Nat
  /-- VERSEL before the write, which an early VDQ may still read (R150). -/
  old    : Word
  deriving DecidableEq, Repr

/-- Flags of a word that has not completed, with the issue cycles of its strand until it has and the count of its strand that a
token shows once it has (R38, R59, R141). -/
structure LateFlags where
  strand : Strand
  left   : Nat
  tick   : Nat
  flags  : BitVec 6
  deriving DecidableEq, Repr

/-- What a load or an atomic in flight brings (R124, R137). -/
inductive Arrival where
  | x (n : Nat) (v : Word) | v (line : Nat) (v : VReg) | none
  deriving DecidableEq, Repr

/-- A load that missed or an atomic whose reply is outstanding, with the pushes of its word (R59). -/
structure InFlight where
  strand : Strand
  atomic : Bool
  arr    : Arrival
  qp     : Bool
  qn     : Bool
  /-- Clock of the word, carried by its push. -/
  clk    : Clock
  /-- Words the strand may still issue before it must wait for the value (R68); atomics have none. -/
  left   : Nat
  /-- An atomic's reply is still on its way from another die (R137, R298); MODEL: the count that names its AT. -/
  wait   : Bool := false
  tag    : Nat := 0
  /-- The cycle in which it lands, of a PREF (R136); a load lands at a time of its own. -/
  due    : Option Nat := none
  deriving DecidableEq, Repr

/-- Life of a task (R327). -/
inductive Life where
  | none | placing | resident | saved | frozen | halted | ended
  deriving DecidableEq, Repr

/-- What a context that is PLACING still goes through (R327, R328). -/
structure Placing where
  /-- Its staged bytes, or its image, are in place. -/
  staged : Bool
  /-- Units it books before its first word. -/
  units  : Nat
  /-- The marker of its creation, 0, or of its resume, 2 (R345). -/
  mark   : Nat
  /-- The ACCEPT number of its task; none for a resume. -/
  seq    : Option Nat
  deriving DecidableEq, Repr

/-- An input declaration of a task record (R324). -/
inductive Input where
  | none
  | flag (addr : Word)
  | barrier (addr : Word)
  | stage (spad len : Nat) (src : Word)
  | stageCv (spad len : Nat) (src record : Word) (hnd : BitVec 5) (sfmt : BitVec 2)
  deriving DecidableEq, Repr

/-- A task record (R322). -/
structure TaskRec where
  code    : Word
  stb     : Word
  prio    : Nat
  queue   : Nat
  mode    : Nat
  waitcap : Bool
  spg     : Nat
  accmask : BitVec 4
  power   : Nat
  domain  : BitVec 10
  dv      : Bool
  cmask   : Word
  rings   : Word
  tdt     : Word
  /-- Initial x registers: x1 to x4, or the registers CMASK names (R337). -/
  xs      : List (Nat × Word)
  ins     : List Input
  deriving DecidableEq, Repr

/-- An address space and its privilege as the queue binding installs them (R254, R325). Log entry 7 (DESIGN CHOICE). -/
structure Space where
  asid : BitVec 12
  root : Word
  priv : Priv
  accbase : Word
  accctl  : Word
  deriving DecidableEq, Repr

/-- A held engine fault: the queue starts nothing until ERET (R164, R349, R350). Log entry 18 (DESIGN CHOICE). -/
structure HeldFault where
  cause : Cause
  addr  : Word
  /-- The command; its push lands at ERET unless the fault came after completion. -/
  ent   : QEntry
  after : Bool
  /-- Cycle in which it arose. -/
  at_   : Nat
  /-- Delivered to the handler in progress; an undelivered fault waits (R349). -/
  delivered : Bool
  deriving DecidableEq, Repr

/-- A run of slots of the account stream (R345). -/
structure Run where
  pc    : Word
  cause : Slot
  slots : Nat
  /-- Strand of its first slot. -/
  first : Nat
  deriving DecidableEq, Repr

/-- A run of an engine's account stream (R345). -/
structure EngRun where
  eng    : Engine
  spc    : Word
  esn    : BitVec 32
  cause  : EngCause
  cycles : Nat
  deriving DecidableEq, Repr

/-- A context: one task instance (R16, R60, R334). -/
structure Ctx where
  /-- CTXID (R336); 0 when no context exists. -/
  id      : BitVec 32
  life    : Life
  /-- Where its placement stands (R327, R328). -/
  placing : Option Placing
  task     : TaskRec
  space   : Space
  /-- Die, plate (PLATEID) and resident place 0 to 3 (R17). -/
  die     : Nat
  plate   : Nat
  place   : Nat
  /-- Granule base of the reservation (R241). -/
  base    : Nat
  strands : Quad StrandSt
  lockstep : Bool
  /-- The strand whose word is being issued: MODEL. -/
  cur     : Strand
  /-- x0 to x63 (R60). -/
  x       : SMap (Cell Word)
  /-- p1 to p15; p0 reads 1 (R95). -/
  p       : SMap (Cell Bool)
  /-- vp0 to vp7, one bit a lane. -/
  vp      : SMap (Cell Word)
  /-- 256-byte lines 4 to 127 of the register space (R60 to R62). -/
  lines   : SMap (Cell VReg)
  /-- The register space as the first 32 KiB of its context area hold it, by 256-byte line (R60, R333). -/
  backing : SMap VReg
  /-- Landed tokens of the counter from each strand to its next (R57). -/
  tokNext : Quad (List Token)
  /-- Landed tokens of the counter from each strand to its previous. -/
  tokPrev : Quad (List Token)
  /-- Pushes landed in this cycle, visible to pops from the next cycle on (R58). -/
  newNext : Quad (List Token)
  newPrev : Quad (List Token)
  /-- Outstanding pushes (R59). -/
  outNext : Quad Nat
  outPrev : Quad Nat
  loop    : LoopSt
  /-- g1 to g15: unresolved, 0 or 1 (R72). -/
  g       : SMap (Option Bool)
  /-- h0 to h31: the record's physical address (R189). -/
  h       : SMap (Option Nat)
  csr     : Csrs
  frame   : Option Frame
  stencil : SMap (BitVec 256)
  /-- MODEL (R96): a CSR or stencil slot before a strand's last write of it, with that strand and its count. -/
  csrOld  : SMap (Option (Cell Word))
  slotOld : SMap (Option (Cell (BitVec 256)))
  esn     : BitVec 32
  queues  : Quad (List QEntry)
  held    : Quad (Option HeldFault)
  weight  : Option Weight
  staging : Staging
  tiles   : Quad Tile
  /-- Scratchpad bytes by offset in the reservation (R117, R241). -/
  spad    : SMap Byte
  /-- Full/empty bit of word n (R128). -/
  fe      : SMap Bool
  /-- Row tag of logical row n, counted from the reservation's base (R166). -/
  tags    : SMap (Option (BitVec 16))
  /-- View table (R287). -/
  view    : SMap (BitVec 16)
  sig     : SMap SigSlot
  /-- Slot totals per cause (R342) and engine totals per engine and cause (R343). -/
  acct    : SMap Nat
  engAcct : SMap Nat
  runs    : List Run
  engRuns : List EngRun
  booking : Option Booking
  /-- Size recorded when a save returned a booking (R209). -/
  saved   : Nat
  /-- Event latch (R219). -/
  latch   : Bool
  /-- MODEL: engine commands of the context that have completed (R119). -/
  ecount  : Nat
  /-- MODEL: what the command being run holds from its start, seen while its body runs (R189, R279). -/
  latched : Option Bound
  /-- Flags of words that have not completed (R38, R141). -/
  lateFlags : List LateFlags
  pends   : List Pend
  flight  : List InFlight
  /-- Cycles for which the strands issue nothing, the current one included, and the cause they are charged. -/
  hold    : Nat
  holdFor : Slot
  /-- The bank serialisation of the group at pc has been waited out (R66). -/
  ported  : Bool
  /-- What each slot's last attempt was charged in this cycle (R340). -/
  slots   : Quad Slot
  /-- Address each slot's last attempt was made at (R345). -/
  slotPcs : Quad Word
  /-- TEND or WAITC has issued: no later word of another strand issues (R202, R208). -/
  ending  : Bool
  /-- Pre-emption has stopped it; its started commands run out before the save (R317, R333). -/
  saving  : Bool
  /-- Ready bits of the tile dispatch table seen as 1 (R314), and the streamed drains whose bit is set (R316). -/
  ready   : List Nat
  /-- Fires begun per index of the table (R314). -/
  fired   : SMap Nat
  streams : List (Nat × List Word × List Byte)
  /-- Domain whose boundary a registered join waits for (R197). -/
  joining : Option (BitVec 10)
  /-- A PWREQ that waits has asked the arbiter, and the answer (R209). -/
  asked   : Option Nat
  granted : Bool
  /-- ENGSTEP, issue cycles left of a stepped resume, engine-breakpoint pass (R351, R367). -/
  engstep : Bool
  steps   : Option Nat
  /-- The command a resumed engine breakpoint lets start, and the address a resumed instruction breakpoint lets issue. -/
  bpPass  : Option (BitVec 32)
  ibPass  : Option Word
  /-- Cycle of the last dispatch or resume, or of becoming SAVED (R330, R332). -/
  since   : Nat
  deriving DecidableEq, Repr

/-! ### Parts of a plate -/

/-- A line of the L1 (R123, R244, R245, R258). -/
structure L1Line where
  line   : Nat
  data   : Line
  dirty  : BitVec 128
  stamp  : BitVec 16
  marked : Bool
  /-- MODEL: the count of free values when it was marked (R279). -/
  markAt : Nat
  region : Nat
  asid   : BitVec 12
  vpage  : Nat
  /-- Size of that page. -/
  vsize  : Nat
  /-- Page type code and whether the line is carved out of L1 by its type (R250). -/
  typ    : BitVec 2
  /-- Way of its set: with the granule, the row it sits in (R261). -/
  way    : Nat
  poison : BitVec 2
  /-- Dirty bytes that stores through another region's page have written, by that region (R290). -/
  others : List (Nat × BitVec 128) := []
  /-- MODEL (R119): who made it dirty: CTXID, strand number or 4 for an engine, count at the first such store. -/
  tags   : List (Nat × Nat × Nat)
  deriving DecidableEq, Repr

/-- A line of a plate's register cache: its context, its line of the register space, and whether the backing area is older
(R15, R60, R269). -/
structure RegLine where
  ctx   : BitVec 32
  line  : Nat
  dirty : Bool
  deriving DecidableEq, Repr

/-- A leaf translation held by a TLB (R256, R257). -/
structure TlbEnt where
  asid  : BitVec 12
  /-- Virtual base and page size in bytes. -/
  va    : Nat
  size  : Nat
  pte   : Word
  deriving DecidableEq, Repr

/-- A store's histogram contribution on its way to the owner die (R226). -/
structure Contrib where
  ctx  : BitVec 32
  record  : Nat
  bins : SMap Nat
  zero : Nat
  nan  : Nat
  ovf  : Nat
  unf  : Nat
  /-- MODEL: the count of free values when it was sent: its place among what goes to the governor (R224, R226). -/
  sent : Nat
  deriving DecidableEq, Repr

/-- A started engine command (R161). -/
structure Running where
  ctx    : BitVec 32
  /-- The address space its translations belong to (R258). -/
  asid   : BitVec 12
  ent    : QEntry
  /-- It waits before its first read: for the staging buffer or a push (R180, R290). -/
  begun  : Bool
  /-- Cycle of its start (R291). -/
  since  : Nat
  /-- Cycles still charged INPUT before it is busy: a weight reload (R169). -/
  input  : Nat
  /-- Busy cycles left; 0 in the cycle it has completed (R167). -/
  left   : Nat
  /-- Units it holds, and whether from its context's booking (R163, R209). -/
  units  : Nat
  booked : Bool
  flags  : BitVec 6
  /-- Fault to deliver at completion (R164, R221). -/
  fault  : Option (Cause × Word)
  /-- Watchpoint its accesses met: slot, whether it traps, first byte (R366). -/
  watch  : Option (Nat × Bool × Word)
  /-- Scratchpad bytes that land at completion (R180). -/
  land   : List (Nat × Byte)
  /-- Staging block that lands at completion: element size code, block number, elements (R180). -/
  block  : Option (Nat × Nat × List Nat)
  /-- Histogram update made at completion (R161). -/
  contrib : Option Contrib
  /-- Byte-barrier arrival: physical address, region of its page, and bytes (R185). -/
  bbar   : Option (Nat × Nat × Nat)
  /-- Signature to record: slot and value (R352). -/
  sig    : Option (Nat × SigSlot)
  /-- Signature mismatch: tile and slot (R353, R354). -/
  mis    : Option (Nat × Nat)
  /-- Tile dispatch entry whose ready flag it sets (R176). -/
  tdi    : Option Nat
  /-- A streamed drain: the entry's doublewords and the row length, and the bytes it placed in flits (R316). -/
  strm   : Option (List Word × List Byte)
  /-- How many of those bytes have gone to the streaming port (R316). -/
  gone   : Nat := 0
  /-- What it holds from its start (R189, R279). -/
  latch  : Option Bound
  /-- The read that waits for a push, and since when (R291). -/
  stale  : Option (Word × Nat)
  /-- Virtual ranges it holds translations of: first byte and length (R258). -/
  spans  : List (Nat × Nat)
  deriving DecidableEq, Repr

/-- An instruction breakpoint, engine breakpoint or watchpoint (R364 to R366). -/
structure InstrBp where
  asid : BitVec 12
  ctx  : Option (BitVec 32)
  addr : Word
  deriving DecidableEq, Repr

structure EngBp where
  asid : BitVec 12
  ctx  : Option (BitVec 32)
  spc  : Word
  esn  : Option (BitVec 32)
  deriving DecidableEq, Repr

structure Watch where
  asid  : BitVec 12
  ctx   : Option (BitVec 32)
  base  : Word
  len   : Nat
  kinds : BitVec 5
  trap  : Bool
  deriving DecidableEq, Repr

/-- Trace ring setting of a plate (R368). -/
structure TraceCfg where
  base     : Word
  logsz    : Nat
  kinds    : BitVec 7
  interval : Nat
  widx     : Nat
  lost     : Nat
  deriving DecidableEq, Repr

/-- A plate (R11, R15). -/
structure Plate where
  id      : Nat
  /-- CTXIDs of the resident contexts by place (R17). -/
  places  : Quad (BitVec 32)
  active  : Option (BitVec 32)
  /-- Scratchpad boundary S in granules (R241). -/
  s       : Nat
  /-- L1 lines, most recently used first (R244). -/
  l1      : List L1Line
  tlb     : List TlbEnt
  /-- Instruction words the instruction cache holds, by physical address (R218). -/
  icache  : SMap (Option (BitVec 32))
  /-- Records the metadata cache holds, most recently used first (R230). -/
  mcache  : List Nat
  /-- Commands in progress; the transpose engine may hold several (R162, R180). -/
  running : Quad (List Running)
  /-- Place whose command each engine served last (R17). -/
  served  : Quad Nat
  /-- Heads that asked for a grant in the last cycle, and grants held: engine, CTXID, units (R160). -/
  asks    : List (Nat × BitVec 32 × Nat)
  /-- Context whose command each engine discarded in this cycle (R343). -/
  dropped : Quad (Option (BitVec 32))
  grants  : List (Nat × BitVec 32 × Nat)
  /-- Context whose weight the array holds (R169). -/
  arrayOf : BitVec 32
  /-- Stochastic generator (R34). -/
  lfsr    : BitVec 32
  acct    : SMap Nat
  engAcct : SMap Nat
  /-- MODEL: this cycle's slots have been charged to a context that left. -/
  charged : Bool
  /-- Lines the register cache holds, most recently used first (R15, R60). -/
  rcache  : List RegLine
  /-- Results that wait in each register-cache bank's write queue (R66). -/
  wq      : SMap Nat
  /-- Bank-conflict counters (R346). -/
  matrix  : SMap Nat
  /-- Row map: highest failing point of main rows 0 to 511 and spares at 512 + n; 15 passes (R262, R268). -/
  rows    : SMap Nat
  regRows : SMap Nat
  /-- Physical plate the local index is bound to (R11). -/
  bound   : Option Nat
  ibps    : SMap (Option InstrBp)
  ebps    : SMap (Option EngBp)
  watches : SMap (Option Watch)
  trace   : Option TraceCfg
  deriving DecidableEq, Repr

/-! ### Parts of a die -/

/-- A line of a die's L2 (R247); the data are those of an SWM copy (R245, R294), and the dirty mask tells which bytes have no
other copy in a part, though the model's home memory holds those of a COH line (R357). -/
structure L2Line where
  line  : Nat
  way   : Nat
  rrpv  : Nat
  swm   : Bool
  data  : Line
  dirty : BitVec 128
  /-- Region of the page it was accessed through, for its write home. -/
  region : Nat
  /-- MODEL (R119): as in L1Line. -/
  tags  : List (Nat × Nat × Nat)
  deriving DecidableEq, Repr

/-- A retention register with its status block (R134, R237, R249). -/
structure Retn where
  v      : Bool
  ways   : Nat
  lo     : Nat
  hi     : Nat
  asid   : BitVec 12
  vbase  : Word
  /-- Logical ways it holds, highest first (R134). -/
  held   : List Nat
  hits   : Word
  misses : Word
  fills  : Word
  evicts : Word
  deriving DecidableEq, Repr

/-- State of a queued task (R327). -/
inductive TaskSt where
  | queued | ready
  deriving DecidableEq, Repr

/-- A task in a queue (R325, R326). -/
structure Task where
  task   : TaskRec
  addr  : Word
  seq   : Nat
  st    : TaskSt
  /-- Conditions still to be met: 0 flag or 1 barrier, and the physical address. -/
  wait  : List (Nat × Nat)
  since : Nat
  /-- Plate that spawned it (R329). -/
  near  : Option Nat
  deriving DecidableEq, Repr

/-- An accept-journal entry (R339). -/
structure JEntry where
  seq    : Nat
  kind   : Nat
  source : Nat
  die    : Nat
  status : BitVec 32
  object : Word
  plate  : Nat
  detail : List Word
  deriving DecidableEq, Repr

/-- An event record (R356). -/
structure EvRec where
  cycle  : Nat
  code   : Nat
  plate  : Nat
  lost   : Nat
  esn    : BitVec 32
  object : Word
  detail : Word
  deriving DecidableEq, Repr

/-- An operating-point step in progress (R264, R272, R274). Log entry 42 (DEDUCED). -/
structure OpStep where
  target : Nat
  source : Nat
  /-- Mailbox whose OP_SET started it. -/
  mail   : Option Mail
  /-- The strands are stopped and the maps being moved. -/
  moving : Bool
  /-- The voltage of a downward step is settling, its maps moved (R264, R272). -/
  settling : Bool
  /-- Cycles still to pass: the voltage settles, or rows are copied (R264, R272, R274). -/
  wait   : Nat
  deriving DecidableEq, Repr

/-- Whose atomic an AT is: CTXID and the count that names it (MODEL). -/
abbrev AtomOf := BitVec 32 × Nat

/-- A die-to-die message (R298, R299). Log entry 21 (DESIGN CHOICE). -/
inductive Msg where
  /-- A read of a line, with the reuse hint and the region of the page it is for, as its DATA brings it into the die's L2. -/
  | rd (line hint region : Nat)
  /-- Bytes, mask and poison of a write by a plate, 512 for a fabric engine. MODEL: `done` when a later access of its die to the
  line, or a release, which it precedes, has already had it performed. -/
  | wr (line : Nat) (bytes : Line) (mask : BitVec 128) (poison : BitVec 2) (plate region : Nat) (done : Bool)
  /-- An atomic; MODEL: `old` once it has been performed so. -/
  | atom (addr op : Nat) (operand expected : Word) (region : Nat) (who : AtomOf) (old : Option Nat)
  | inv (line : Nat)
  | data (line hint region : Nat)
  /-- The reply to an INV or a WR, and to an AT with what the memory held. -/
  | ack (line : Nat) (old : Option (AtomOf × Nat))
  | conflict (line : Nat)
  | retry (line hint region : Nat)
  /-- A dump's marker on a channel (R371). -/
  | marker (chan : Nat)
  deriving DecidableEq, Repr

/-- A message between two dies on a link (R10, R300). -/
structure Packet where
  src : Nat
  dst : Nat
  msg : Msg
  deriving DecidableEq, Repr

/-- One direction of a UCIe edge (R10): what waits at the sender, what the receiver's skid buffers hold, in order of sending, and
the channels for which the receiver has sent STOP (R301). -/
structure Link where
  out  : List Packet
  skid : List Packet
  told : BitVec 4
  deriving DecidableEq, Repr

/-- Directory state of a COH line at its home (R298, R299). -/
structure DirLine where
  line    : Nat
  sharers : BitVec 4
  /-- Replies owed once the INVs of their transaction are answered: the die, and its ACK (R299). -/
  owed    : List (Nat × Msg)
  deriving DecidableEq, Repr

/-- Whose accesses the fabric engine makes: a context's, or those of a task that has no context yet, in its queue's address space
(R308). -/
inductive Owner where
  | ctx (id : BitVec 32)
  | task (die : Nat) (space : Space)
  deriving DecidableEq, Repr

/-- A ring table: the task's sequence number in the journal, whose it is, and its address (R308). -/
structure RingTab where
  seq   : Nat
  owner : Owner
  table : Word
  deriving DecidableEq, Repr

/-- A flit of a streamed drain in the streaming port: its command's entry, its offset in the message, its bytes (R316). -/
structure StreamFlit where
  ctx   : BitVec 32
  index : Nat
  dws   : List Word
  off   : Nat
  bytes : List Byte
  last  : Bool
  deriving DecidableEq, Repr

/-- The control doubleword of a supervisor mailbox (R377). -/
structure SupMail where
  go   : Bool
  done : Bool
  ovr  : Bool
  deriving DecidableEq, Repr

/-- A die (R10). -/
structure Die where
  id      : Nat
  /-- Control doubleword of its supervisor mailbox (R377). -/
  mail    : SupMail
  /-- Operating point, the step in progress and steps waiting (R266, R272). -/
  point   : Nat
  step    : Option OpStep
  pending : List OpStep
  /-- Budget and the arbiter's books (R275, R278). -/
  budget  : Nat
  units   : Nat
  /-- (cycle, units granted, units returned) of the last 64 cycles. -/
  window  : List (Nat × Nat × Nat)
  deferred : Nat
  lastPlate : Option Nat
  carve   : Nat
  retn    : SMap Retn
  /-- Grant entries of R249: enabled ASID. -/
  grants  : SMap (Option (BitVec 12))
  l2      : List L2Line
  dir     : List DirLine
  /-- Requests for busy lines in the slices' queues, in order of arrival, with the die each is from (R299). -/
  waitq   : List (Nat × Msg)
  tlb     : List TlbEnt
  l2Rows  : SMap Nat
  queues  : SMap (List Task)
  bind    : SMap (Option Space)
  /-- CTXIDs of SAVED tasks (R325). -/
  saved   : List (BitVec 32)
  lastQueue : Nat
  areas   : Nat
  /-- Next SEQ part of a CTXID (R336). -/
  nextId  : Nat
  mirror  : SMap (BitVec 16)
  journal : List JEntry
  widx    : Nat
  events  : List EvRec
  /-- Event records written since reset: the place of the next one in the ring (R355). -/
  posted  : Nat
  lost    : Nat
  /-- Ring tables the fabric engine serves (R308). -/
  rings   : List RingTab
  /-- Flits in the streaming port, oldest first (R316). -/
  port    : List StreamFlit
  /-- Fires waiting for residency or a translation (R315): (CTXID, index). -/
  fires   : List (BitVec 32 × Nat)
  /-- Junction temperature the sensors show (R385). -/
  junction : Nat
  /-- Cycle in which thermal protection last lowered the budget, and last stepped the die down (R385). -/
  lowered : Option Nat
  stepped : Option Nat
  /-- Corrected errors per array since its last event, and the cycle of that event (R359). -/
  corrected : SMap (Nat × Nat)
  deriving DecidableEq, Repr

/-! ### Parts of the device -/

/-- A region: its entry and its round (R286, R287); the lines written since its last push (R290). -/
structure Region where
  entry  : Word
  round  : BitVec 16
  pushes : List Nat
  deriving DecidableEq, Repr

/-- A domain (R305, R306). -/
structure Domain where
  asid    : BitVec 12
  rootDie : Nat
  rootDev : BitVec 12
  parent  : Option (BitVec 10)
  k       : Nat
  level   : Nat
  count   : Word
  members : List (BitVec 32)
  arrived : List (BitVec 32)
  /-- Members in force since the last completed boundary, which give the ranks: device, PLATEID, CTXID (R307). -/
  force   : List (BitVec 12 × BitVec 9 × BitVec 32)
  /-- Members and arrivals of other devices: device, PLATEID, CTXID (R305). -/
  far     : List (BitVec 12 × BitVec 9 × BitVec 32)
  farIn   : List (BitVec 12 × BitVec 9 × BitVec 32)
  farJoin : List (BitVec 12 × BitVec 9 × BitVec 32)
  /-- Child domains whose arrival is counted. -/
  kids    : List (BitVec 10)
  /-- Child domains rooted on other devices that hold members (R306). -/
  farKids : List (BitVec 10)
  joins   : List (BitVec 32)
  /-- A completion is due (the count is met, or the last member left). -/
  due     : Bool
  /-- Phase count whose completion has reached each die (R196, R305). -/
  reached : Quad Word
  /-- The phase count whose completion is on its way to the dies, and the cycle in which it was sent (R196, R305). -/
  goal    : Word
  told    : Nat
  /-- Boundaries a joint child still waits for its parent (R306). -/
  joint   : Bool
  deriving DecidableEq, Repr

/-- A fabric address entry (R303, R304). -/
structure Fat where
  cur     : Bool
  arm     : Bool
  fwd     : Bool
  flipdom : BitVec 10
  map0    : Word
  len0    : Word
  map1    : Word
  len1    : Word
  /-- Devices and channels whose marker the new target holds (R304). -/
  marks   : List (BitVec 12 × BitVec 2)
  deriving DecidableEq, Repr


/-- An Amibuley port (R301, R302). -/
structure Port where
  down    : Bool
  txSeq   : BitVec 8
  rxSeq   : BitVec 8
  stopped : BitVec 4
  /-- Channels for which the receiver has sent STOP (R301). -/
  told    : BitVec 4
  /-- Flits in the receiver's skid buffer per channel: held for a marker, and those behind them (R301, R304). -/
  skid    : Quad (List Flit)
  /-- The sender's last 64 flits, newest last. -/
  replay  : List Flit
  fails   : Nat
  /-- The sequence number from which the receiver has asked for replay (R302). -/
  wants   : Option (BitVec 8)
  /-- Flits that STOP holds at the sender, per channel (R301). -/
  wait    : Quad (List Flit)
  /-- Flits sent and not yet taken by the link. -/
  out     : List Flit
  /-- Source devices frozen at this port (R360). -/
  frozen  : List (BitVec 12)
  deriving DecidableEq, Repr

/-- A member of a domain as ranks order it: device, PLATEID, CTXID (R307). -/
abbrev Rank := BitVec 12 × BitVec 9 × BitVec 32

/-- A collective request entry (R310). -/
structure CollReq where
  op    : Nat
  rop   : Bool
  fmt   : Nat
  sag   : Bool
  group : BitVec 10
  root  : Nat
  count : Nat
  seq   : BitVec 32
  src   : Word
  dst   : Word
  record   : Word
  stat  : Word
  tag   : Word
  deriving DecidableEq, Repr

/-- A participant's share of a collective: its request and its source elements once read (R311). -/
structure Share where
  ctx  : BitVec 32
  rank : Nat
  req  : CollReq
  /-- Descriptor of its ring, whose ERR a fault at STAT sets (R312). -/
  ring : Word
  src  : Option (List Nat)
  /-- Status its own accesses left it with (R312). -/
  fault : Option Nat
  /-- The record it names, and the agreed version (R235). -/
  pa    : Option Nat := none
  ver   : BitVec 16 := 0
  deriving DecidableEq, Repr

/-- A collective in progress (R311). -/
structure Collective where
  group : BitVec 10
  seq   : BitVec 32
  /-- The membership in force when its first entry was taken, in rank order (R307, R311). -/
  ranks : List Rank
  /-- Participants on this device, and on others. -/
  parts : List (BitVec 32)
  far   : List Rank
  shares : List Share
  /-- Some participant withdrew. -/
  withdrawn : Bool
  /-- This device's proposals have gone out; the agreed entry; its data have gone out (R235). -/
  asked : Bool
  agreed : Option (Nat × Int)
  told  : Bool
  /-- Records latched for the agreement (R235). -/
  held  : List Nat
  /-- Moved its data; STAT is to be written with this code. -/
  code  : Option Nat
  /-- Completed: a later entry of a context outside the set gets status 7 (R311). -/
  past  : Bool
  deriving DecidableEq, Repr

/-- What a member on another device proposes in an agreement: its record's format and e (R235). `key` is SEQ, or for a fire
2^32 plus its index plus 4,096 times its number (R314). -/
structure Proposal where
  group : BitVec 10
  key   : Nat
  who   : Rank
  fmt   : Nat
  e     : Int
  deriving DecidableEq, Repr

/-- The elements a member on another device contributes (R311). -/
structure FarShare where
  group : BitVec 10
  key   : Nat
  who   : Rank
  els   : List Nat
  deriving DecidableEq, Repr

/-- A tile dispatch entry captured by a fire (R313, R314). -/
structure Fire where
  ctx    : BitVec 32
  index  : Nat
  dws    : List Word
  /-- Its number among the fires of its index by its context (R314). -/
  number : Nat := 0
  /-- Its proposal has gone out, and the entry agreed (R235). -/
  asked  : Bool := false
  agreed : Option (Nat × Int) := none
  /-- The record latched for its agreement (R235). -/
  held   : Option Nat := none
  /-- The membership in force when its collective began, in rank order (R307, R311, R314). -/
  ranks  : List Rank := []
  /-- A streamed drain still feeds it: its ready flag is not set (R316). -/
  fed    : Bool := false
  /-- Its data have gone out; the devices that have still to acknowledge their last flit, the status so far and the participants
  (R312, R316). -/
  sent   : Bool := false
  await  : List (BitVec 12) := []
  code   : Nat := 0
  npart  : Nat := 1
  deriving DecidableEq, Repr

/-- A registered continuation (R202, R337). -/
structure Contin where
  task   : TaskRec
  die   : Nat
  /-- 0 doubleword non-zero, 1 barrier DONE; the physical address. -/
  kind  : Nat
  addr  : Nat
  deriving DecidableEq, Repr

/-- A mailbox response (R376). -/
structure Resp where
  status : Nat
  tag    : BitVec 32
  data   : List Word
  deriving DecidableEq, Repr

/-- The control page (R375). -/
structure Control where
  stage  : Nat
  dieok  : BitVec 4
  fcode  : BitVec 8
  slot   : Bool
  go     : Bool
  done   : Bool
  ovr    : Bool
  hqTail : BitVec 32
  hqHead : BitVec 32
  en     : Bool
  frozen : Bool
  qovf   : Bool
  deriving DecidableEq, Repr

/-- A host queue entry as the host wrote it (R379): its eight doublewords. -/
abbrev HqEntry := List Word

/-- Firmware, fuses and measurements (R381 to R383). -/
structure Identity where
  slotA  : Option FwImage
  slotB  : Option FwImage
  fuses  : Nat
  m      : Quad (BitVec 384)
  deriving DecidableEq, Repr

/-- What a dump's channel log holds (R371). -/
inductive Logged where
  | msg (m : Msg) | flit (f : Flit)
  deriving DecidableEq, Repr

/-- A consistent-cut dump in progress or held (R370 to R373). -/
structure DumpSt where
  group    : List (BitVec 12)
  keep     : Bool
  /-- The mailbox whose DUMP completes when recording completes (R377). -/
  mail     : Option Mail
  /-- Every log has closed: KEEP has resumed the masters, or has left them HALTED (R373). -/
  past     : Bool
  ranges   : List (Word × Word)
  /-- Dies that have recorded, each with its own state, its resident contexts and its part of the ranges (R371). -/
  recorded : List (Nat × Die)
  images   : List (Nat × Ctx)
  copies   : SMap Byte
  /-- Channels whose marker has arrived, by die. -/
  closed   : List (Nat × Chan)
  /-- Messages logged per channel, in arrival order. -/
  logs     : List (Nat × Chan × Logged)
  deriving DecidableEq, Repr

/-- An MSI-X vector (R374): cycle of its last firing, and whether an event waits. -/
structure Msix where
  last    : Option Nat
  waiting : Bool
  fired   : Nat
  deriving DecidableEq, Repr

/-! ### How a word ended, and what moves next (MODEL) -/

/-- What a word that leaves the context's stream does once its cycle's words have landed. -/
inductive Leave where
  | tend (status : BitVec 32)
  | waitc (kind pa : Nat) (mask next : Word)
  /-- Stop resident; what the HALT entry's DETAIL says (R220, R339, R365). -/
  | halt (detail : List Word)
  | eret
  deriving DecidableEq, Repr

/-- How the last word or event ended. -/
inductive Event where
  | none
  | issued (k : Strand)
  /-- A control transfer issued: its target and delay slots (R110). -/
  | jumped (k : Strand) (target : Word) (slots : Nat)
  | stalled (k : Strand) (c : Slot)
  /-- A precise trap; `after` when the word took its effect first (R387). -/
  | trapped (k : Strand) (c : Cause) (addr : Word) (word : BitVec 32) (after : Bool)
  /-- The word ended or left the context's stream: TEND, WAITC, HALT, ERET. -/
  | left (k : Strand) (what : Leave)
  /-- The word has issued and waits, charged `c`; `hold` when the other words of its bundle wait with it (R194). -/
  | waiting (k : Strand) (c : Slot) (hold : Bool)
  deriving DecidableEq, Repr

/-- What the next step does within a cycle: a turn of a plate, a turn of the device, or the end of the cycle. -/
inductive Phase where
  | plate (p turn : Nat)
  | manage (turn : Nat)
  | charge
  deriving DecidableEq, Repr

/-- The device. -/
structure State where
  /-- The context in focus, and the plate it is on. -/
  ctx     : Ctx
  plate   : Plate
  /-- Every other context by CTXID, and every other plate by PLATEID. -/
  ctxs    : SMap (Option Ctx)
  plates  : SMap (Option Plate)
  dies    : Quad Die
  /-- Physical memory (R251): the coherent point of every byte. -/
  mem     : SMap Byte
  /-- Poisoned 64-byte units by address / 64 (R358). -/
  poison  : SMap Bool
  /-- Uncorrectable errors planted in arrays and not yet overwritten (R357). -/
  bad     : List SramArray
  /-- Correctable errors not yet found (R357, R359). -/
  soft    : List SramArray
  /-- MODEL: byte barriers that BBPOST or an arrival has acted on, by address (R199). -/
  barriers : List Nat
  /-- Same-round write records: plate of the write that holds a byte, plus 1 (R292). -/
  writers : SMap Nat
  regions : SMap Region
  policy  : SMap (BitVec 256)
  domains : SMap (Option Domain)
  fat     : SMap Fat
  devid   : Option (BitVec 12)
  /-- Next accept-journal sequence number (R338). -/
  jseq    : Nat
  control : Control
  resp    : SMap (Option Resp)
  /-- Mailboxes whose command in progress gets an undefined response (R376). -/
  spoilt  : List Nat
  hq      : SMap HqEntry
  ident   : Identity
  /-- The links between neighbouring dies, by 4 × sender + receiver (R10, R300). -/
  net     : SMap Link
  ports   : SMap Port
  colls   : List Collective
  /-- What members on other devices have proposed and contributed (R235, R311). -/
  props   : List Proposal
  farShares : List FarShare
  fires   : List Fire
  contribs : List Contrib
  /-- Records whose close is due (R232). -/
  closing : List Nat
  /-- Plain stores to records on their way to the governor, in arrival order: physical address, size, value, and their place
  among the contributions as `Contrib.sent` counts it (R224). -/
  recStores : List (Nat × Nat × Word × Nat)
  /-- Pushes on their way to plates: (region, round, lines) (R290). -/
  pushes  : List (Nat × BitVec 16 × List Nat)
  contins : List Contin
  dump    : Option DumpSt
  msix    : Quad Msix
  /-- CYCLE (R336). -/
  cycle   : Nat
  /-- MODEL: counter of free values. -/
  fresh   : Nat
  /-- MODEL: inputs and commands that have arrived and are not yet taken. -/
  inbox   : List Instr
  /-- MODEL: what the next step does. -/
  phase   : Phase
  /-- MODEL: strand S has had its turn in this cycle. -/
  sDone   : Bool
  /-- MODEL: apart strands whose word traps or leaves and goes last in this cycle (R208, R387). -/
  late    : List Strand
  /-- MODEL: the bank waits of this cycle's issue group are settled (R66, R67). -/
  grouped : Bool
  /-- MODEL: the predicates as they stood when the bundle being issued began (R115). -/
  window  : SMap (Cell Bool)
  /-- MODEL: a bundle is being issued: its words leave the pc and their faults to BUNDLE_ISSUE (R53, R387). -/
  bundle  : Bool
  /-- MODEL: how the last word ended. -/
  event   : Event
  deriving DecidableEq, Repr

/-- A machine stop. There is none: every fault of the manual is a next state. -/
inductive Fault where
  deriving DecidableEq, Repr

/-- A step without a meaning. -/
inductive Refusal where
  /-- Raised by an arm of `exec` whose instruction has no meaning yet. Safe: nothing is claimed of it. -/
  | notModelled (mnemonic : String)
  deriving DecidableEq, Repr

/-! ### The state after power-on reset -/

/-- No clock count seen. -/
def Clock.zero : Clock := ⟨0, 0, 0, 0, 0⟩

/-- A strand of a new context at `code` (R335). -/
def StrandSt.init (code : Word) : StrandSt :=
  { pc := code, xfer := none, joined := false, mark := false, since := none, upto := 0, past := false, b := Quad.all 0,
    clk := Clock.zero }

/-- CSR values of a new context (R335); VVB and MVB take their Reset values (R64, R65). -/
def Csrs.init : Csrs :=
  { vtype := 0, rndm := 0, vvb := 0x400, mvb := 0x400, mvs := 0, versel := 0, fstat := 0, dmr := 0, phcnt := 0,
    tvec := 0, tcause := 0, tpc := 0, tword := 0, tesn := 0, taddr := 0, tstrand := 0, rbpm := 0, accbase := 0,
    accctl := 0, reqto := 0, staleto := 0, sigctl := 0, sigstat := 0 }

/-- An empty task record. -/
def TaskRec.blank : TaskRec :=
  { code := 0, stb := 0, prio := 0, queue := 0, mode := 0, waitcap := false, spg := 0, accmask := 0, power := 0,
    domain := 0, dv := false, cmask := 0, rings := 0, tdt := 0, xs := [], ins := [] }

/-- The binding no queue has yet; the blank context carries it. -/
def Space.blank : Space := { asid := 0, root := 0, priv := .u, accbase := 0, accctl := 0 }

/-- An untagged tile of zeros (R335). -/
def Tile.blank : Tile :=
  { elems := [], tag := { e := 0, verA := 0, verW := 0, hndA := 0, hndW := 0, tagged := false } }

/-- An empty staging buffer (R335). -/
def Staging.blank : Staging := { esz := 0, landed := 0, elems := [], full := [] }

/-- A signature slot of zeros (R335). -/
def SigSlot.blank : SigSlot := { hash := 0, bytes := 0, valid := false, esn := 0 }

/-- What an unlisted x register, predicate, vector predicate or line reads as: 0, written before any strand ran (R335). -/
def Cell.init {α : Type} (v : α) : Cell α := { val := v, old := v, wr := .c, tick := 0 }

/-- The focus record when no context exists: the creation values of R335 with CTXID 0. Log entry 5 (DESIGN CHOICE).
Log entry 6 (DESIGN CHOICE). -/
def Ctx.blank : Ctx :=
  { id := 0, life := .none, placing := none, task := TaskRec.blank, space := Space.blank, die := 0, plate := 0, place := 0, base := 0,
    strands := Quad.all (StrandSt.init 0), lockstep := true, cur := .c, x := [], p := [], vp := [], lines := [], backing := [],
    tokNext := Quad.all [], tokPrev := Quad.all [], newNext := Quad.all [], newPrev := Quad.all [],
    outNext := Quad.all 0, outPrev := Quad.all 0, loop := { lc := 0, ls := 1, ldc := 0, active := false },
    g := [], h := [], csr := Csrs.init, frame := none, stencil := [], csrOld := [], slotOld := [], esn := 0, queues := Quad.all [],
    held := Quad.all none, weight := none, staging := Staging.blank, tiles := Quad.all Tile.blank, spad := [], fe := [],
    tags := [], view := [], sig := [], acct := [], engAcct := [], runs := [], engRuns := [], booking := none, saved := 0,
    latch := false, ecount := 0, latched := none, lateFlags := [], pends := [], flight := [], hold := 0, holdFor := .idle, ported := false, slots := Quad.all .idle, slotPcs := Quad.all 0,
    ending := false, saving := false, ready := [], fired := [], streams := [], joining := none, asked := none, granted := false, engstep := false, steps := none, bpPass := none, ibPass := none,
    since := 0 }

/-- A plate with nothing on it (R11, R15). Log entry 8 (DESIGN CHOICE). -/
def Plate.init (id : Nat) : Plate :=
  { id := id, places := Quad.all 0, active := none, s := 0, l1 := [], tlb := [], icache := [], mcache := [],
    running := Quad.all [], served := Quad.all 3, asks := [], dropped := Quad.all none, grants := [], arrayOf := 0, lfsr := 0, acct := [], engAcct := [], charged := false, rcache := [], wq := [], matrix := [],
    rows := [], regRows := [], bound := none, ibps := [], ebps := [], watches := [], trace := none }

/-- A die right after reset: OP6, 1,100 units (R266, R14); the last dispatch counts as queue 15 (R330).
Log entry 8 (DESIGN CHOICE). -/
def Die.init (id : Nat) : Die :=
  { id := id, mail := { go := false, done := false, ovr := false }, point := 6, step := none, pending := [], budget := 1100, units := 0, window := [], deferred := 0,
    lastPlate := none, carve := 0, retn := [], grants := [], l2 := [], dir := [], waitq := [], tlb := [], l2Rows := [], queues := [],
    bind := [], saved := [], lastQueue := 15, areas := 0, nextId := 1, mirror := [], journal := [], widx := 0,
    events := [], posted := 0, lost := 0, rings := [], port := [], fires := [], junction := 0, lowered := none, stepped := none, corrected := [] }

/-- A port at reset: up, nothing sent (R301, R302). Log entry 8 (DESIGN CHOICE). -/
def Port.init : Port :=
  { down := false, txSeq := 0, rxSeq := 0, stopped := 0, told := 0, skid := Quad.all [], replay := [], fails := 0, wants := none, wait := Quad.all [], out := [], frozen := [] }

/-- The control page at reset: STAGE 0 and every other field 0 (R375). -/
def Control.init : Control :=
  { stage := 0, dieok := 0, fcode := 0, slot := false, go := false, done := false, ovr := false, hqTail := 0,
    hqHead := 0, en := false, frozen := false, qovf := false }

/-- The device right after power-on reset (R7, R380). Log entry 1 (DESIGN CHOICE). Log entry 3 (DESIGN CHOICE).
Log entry 5 (DESIGN CHOICE). Log entry 8 (DESIGN CHOICE). Log entry 51 (DESIGN CHOICE). -/
def State.reset : State :=
  { ctx := Ctx.blank, plate := Plate.init 0, ctxs := [], plates := [],
    dies := ⟨Die.init 0, Die.init 1, Die.init 2, Die.init 3⟩,
    mem := [], poison := [], bad := [], soft := [], barriers := [], writers := [], regions := [], policy := [], domains := [], fat := [], devid := none,
    jseq := 0, control := Control.init, resp := [], spoilt := [], hq := [],
    ident := { slotA := none, slotB := none, fuses := 0, m := Quad.all 0 },
    net := [], ports := [], colls := [], props := [], farShares := [], fires := [], contribs := [], closing := [], recStores := [], pushes := [],
    contins := [], dump := none, msix := Quad.all { last := none, waiting := false, fired := 0 },
    cycle := 0, fresh := 0, inbox := [], phase := .manage 0, sDone := false, late := [], grouped := false, window := [],
    bundle := false, event := .none }

end Sys2Proof.Machine
end

