-- ==== Sys2Proof/Machine/Base.lean ====
section
/-! DEFINITION. Access to the parts of the state: contexts and plates in and out of focus, dies, free values, the
registers of the context in focus under the visibility rule of R96 and the latency rule of R68, the token counters, and
the two append-only records (accept journal, event ring). -/

namespace Sys2Proof

/-- PP, PN, QP and QN of a control field (R49). -/
def Ctl.pp (k : Ctl) : Bool := k.tk.getLsbD 3
def Ctl.pn (k : Ctl) : Bool := k.tk.getLsbD 2
def Ctl.qp (k : Ctl) : Bool := k.tk.getLsbD 1
def Ctl.qn (k : Ctl) : Bool := k.tk.getLsbD 0

/-- SWTRAP and WATCH name the next word; every other fault of a word names the word (R214). -/
def Cause.namesNext : Cause → Bool
  | .swtrap => true
  | .watch => true
  | _ => false

end Sys2Proof

namespace Sys2Proof.Machine

/-! ### Bits of words -/

/-- Bits [hi:lo] of a word as a number. -/
def bitsOf (w : Word) (hi lo : Nat) : Nat := w.toNat / 2 ^ lo % 2 ^ (hi + 1 - lo)

/-- Bit i of a word. -/
def bitOf (w : Word) (i : Nat) : Bool := w.toNat / 2 ^ i % 2 == 1

/-- The word with bits [hi:lo] replaced. -/
def setBits (w : Word) (hi lo : Nat) (v : Nat) : Word :=
  BitVec.ofNat 64 (w.toNat / 2 ^ (hi + 1) * 2 ^ (hi + 1) + v % 2 ^ (hi + 1 - lo) * 2 ^ lo + w.toNat % 2 ^ lo)

/-- A Bool as a word. -/
def wordOfBool (b : Bool) : Word := if b then 1 else 0

/-! ### Parts of the state -/

/-- Change the context in focus. -/
def State.mctx (s : State) (f : Ctx → Ctx) : State := { s with ctx := f s.ctx }

/-- Change the CSRs of the context in focus. -/
def State.mcsr (s : State) (f : Csrs → Csrs) : State := { s with ctx := { s.ctx with csr := f s.ctx.csr } }

/-- Change the plate in focus. -/
def State.mplate (s : State) (f : Plate → Plate) : State := { s with plate := f s.plate }

/-- Die d. -/
def State.die (s : State) (d : Nat) : Die := s.dies.get d

/-- Change die d. -/
def State.mdie (s : State) (d : Nat) (f : Die → Die) : State := { s with dies := s.dies.set d (f (s.dies.get d)) }

/-- A strand of the context in focus. -/
def State.strand (s : State) (k : Strand) : StrandSt := s.ctx.strands.get k.num

/-- Change a strand of a context. -/
def Ctx.mstrand (c : Ctx) (k : Strand) (f : StrandSt → StrandSt) : Ctx :=
  { c with strands := c.strands.set k.num (f (c.strands.get k.num)) }

/-- Change a strand of the context in focus. -/
def State.mstrand (s : State) (k : Strand) (f : StrandSt → StrandSt) : State := s.mctx (fun c => c.mstrand k f)

/-- The plate with an identifier. -/
def State.plateOf (s : State) (p : Nat) : Plate :=
  if s.plate.id = p then s.plate else (SMap.get none s.plates p).getD (Plate.init p)

/-- Store a plate under its identifier. -/
def State.putPlate (s : State) (pl : Plate) : State :=
  if s.plate.id = pl.id then { s with plate := pl } else { s with plates := SMap.set none s.plates pl.id (some pl) }

/-- The context with a CTXID that exists. -/
def State.ctxOf (s : State) (id : BitVec 32) : Option Ctx :=
  if id = 0 then none
  else if s.ctx.id = id then (if s.ctx.life = .ended then none else some s.ctx)
  else SMap.get none s.ctxs id.toNat

/-- Store a context under its CTXID. -/
def State.putCtx (s : State) (c : Ctx) : State :=
  if s.ctx.id = c.id then { s with ctx := c } else { s with ctxs := SMap.set none s.ctxs c.id.toNat (some c) }

/-- Bring a plate into focus. -/
def State.focusPlate (s : State) (p : Nat) : State :=
  if s.plate.id = p then s
  else { s with plate := s.plateOf p,
                plates := SMap.set none (SMap.set none s.plates s.plate.id (some s.plate)) p none }

/-- The contexts out of focus once the one in focus is parked; one that has ended is dropped. -/
def State.parked (s : State) : SMap (Option Ctx) :=
  if s.ctx.life = .ended ∨ s.ctx.id = 0 then s.ctxs else SMap.set none s.ctxs s.ctx.id.toNat (some s.ctx)

/-- A new context comes into focus, with its plate. -/
def State.enter (s : State) (c : Ctx) : State := ({ s with ctx := c, ctxs := s.parked }).focusPlate c.plate

/-- Bring a context that exists, and its plate, into focus; the one that leaves is parked, unless it has ended. -/
def State.focus (s : State) (id : BitVec 32) : State :=
  if s.ctx.id = id then s.focusPlate s.ctx.plate
  else match SMap.get none s.ctxs id.toNat with
    | none => s
    | some c => ({ s with ctx := c, ctxs := SMap.set none s.parked id.toNat none }).focusPlate c.plate

/-- Every context that exists, the one in focus first. -/
def State.allCtxs (s : State) : List Ctx :=
  (if s.ctx.id = 0 ∨ s.ctx.life = .ended then [] else [s.ctx]) ++
    s.ctxs.filterMap (fun p => p.2.bind (fun c => if c.id = 0 then none else some c))

/-- Change every context that exists. -/
def State.mapCtxs (s : State) (f : Ctx → Ctx) : State :=
  { s with ctx := if s.ctx.id = 0 then s.ctx else f s.ctx,
           ctxs := s.ctxs.map (fun p => (p.1, p.2.map (fun c => if c.id = 0 then c else f c))) }

/-- Every plate that has been touched. -/
def State.allPlates (s : State) : List Plate := s.plate :: s.plates.filterMap (fun p => p.2)

/-- Change every plate that has been touched. -/
def State.mapPlates (s : State) (f : Plate → Plate) : State :=
  { s with plate := f s.plate, plates := s.plates.map (fun p => (p.1, p.2.map f)) }

/-- The die of a plate: identifier / 128 (R11). -/
def dieOfPlate (p : Nat) : Nat := p / 128

/-! ### Free values -/

/-- Take a fresh count for the free values of the next word or event (R5). Log entry 3 (DESIGN CHOICE). -/
def State.bump (s : State) : State := { s with fresh := s.fresh + 1 }

/-! ### Clocks and cells (R96) -/

/-- The count of strand k. -/
def Clock.of (c : Clock) : Strand → Nat
  | .c => c.c | .l => c.l | .x => c.x | .s => c.s

/-- Replace the count of strand k. -/
def Clock.put (c : Clock) (k : Strand) (n : Nat) : Clock :=
  match k with
  | .c => { c with c := n } | .l => { c with l := n } | .x => { c with x := n } | .s => { c with s := n }

/-- The later of two clocks in every component. -/
def Clock.join (a b : Clock) : Clock := ⟨max a.c b.c, max a.l b.l, max a.x b.x, max a.s b.s, max a.e b.e⟩

/-- What strand k sees in a shared register: its value, or, with no token since the write of another strand, the old
or the new value (R96). Log entry 4 (DESIGN CHOICE). -/
def Cell.read {α : Type} (c : Cell α) (k : Strand) (clk : Clock) (pick : Bool) : α :=
  if c.wr = k ∨ c.tick ≤ clk.of c.wr then c.val else if pick then c.old else c.val

/-- The cell after a write by strand k that lands at count t. Log entry 4 (DESIGN CHOICE). -/
def Cell.write {α : Type} (c : Cell α) (k : Strand) (t : Nat) (v : α) : Cell α :=
  { val := v, old := c.val, wr := k, tick := t }

/-- The count of the strand that is issuing. -/
def State.now (s : State) : Nat := (s.strand s.ctx.cur).clk.of s.ctx.cur

/-- A destination of the issuing strand is still within its bound (R68). Log entry 12 (DEDUCED). -/
def State.early (s : State) (d : Dest) : Bool :=
  s.ctx.pends.any (fun p => p.strand == s.ctx.cur && p.dest == d && decide (0 < p.left))

/-- An arrival lands in a register. -/
def Arrival.lands (a : Arrival) (d : Dest) : Bool :=
  match a, d with
  | .x n _, .x m => n == m
  | .v n _, .v m => n == m
  | _, _ => false

/-- Some strand's result may not have landed in a register yet (R68, R70). Log entry 12 (DEDUCED). -/
def State.landing (s : State) (d : Dest) : Bool :=
  s.ctx.pends.any (fun p => p.dest == d && decide (s.cycle < p.land)) || s.ctx.flight.any (fun f => f.arr.lands d)

/-- As `landing`, for the results of the issuing strand alone (R205). -/
def State.landingOwn (s : State) (d : Dest) : Bool :=
  s.ctx.pends.any (fun p => p.strand == s.ctx.cur && p.dest == d && decide (s.cycle < p.land))

/-- Note a result of the issuing strand with bound n; a bound of 1 holds at once. What an earlier load or atomic of the strand
still brings there is overtaken: results of one strand land in program order (R68). Log entry 12 (DEDUCED). -/
def State.notePend (s : State) (d : Dest) (n : Nat) (old : Word) : State :=
  let rest := s.ctx.pends.filter (fun p => !(p.strand == s.ctx.cur && p.dest == d))
  let now := s.cycle
  s.mctx (fun c => { c with
    pends := if n ≤ 1 then rest else rest ++ [{ strand := c.cur, dest := d, left := n, land := now + n, old := old }],
    flight := c.flight.map (fun f => if f.strand = c.cur ∧ f.arr.lands d = true then { f with arr := .none } else f) })

/-! ### Registers of the context in focus -/

/-- Free-place keys: x registers at 0, predicates at 64, vector predicates at 80, lines at 128. -/
def keyP : Nat := 64
def keyVp : Nat := 80
def keyLine : Nat := 128

/-- x[r] as the issuing strand reads it: x0 is 0, an early read is undefined, a read without a token free (R50, R68, R96).
Log entry 4 (DESIGN CHOICE). -/
def State.x (s : State) (r : Reg) : Word :=
  if r = 0 then 0
  else if s.early (.x r.toNat) then Config.freeWord s.fresh r.toNat
  else (SMap.get (Cell.init 0) s.ctx.x r.toNat).read s.ctx.cur (s.strand s.ctx.cur).clk (Config.freeBit s.fresh r.toNat)

/-- x[d] ← v, readable within `bound` issue cycles; x0 discards (R50, R68). -/
def State.setX (s : State) (d : Reg) (v : Word) (bound : Nat) : State :=
  if d = 0 then s
  else (s.mctx (fun c => { c with
      x := SMap.set (Cell.init 0) c.x d.toNat
        ((SMap.get (Cell.init 0) c.x d.toNat).write c.cur (s.now + (bound - 1)) v) })).notePend (.x d.toNat) bound 0

/-- p[n] as the issuing strand reads it; p0 is 1 (R95). The other slots of a bundle read the window as it stood before the
bundle's loop word, or what another slot writes (R96, R115). Log entry 4 (DESIGN CHOICE). -/
def State.p (s : State) (n : Nat) : Bool :=
  if n = 0 then true
  else if s.early (.p n) then Config.freeBit s.fresh (keyP + n)
  else if s.bundle && !(s.ctx.cur == .c) && decide (8 ≤ n) then
    let now := SMap.get (Cell.init false) s.ctx.p n
    let was := (SMap.get (Cell.init false) s.window n).read s.ctx.cur (s.strand s.ctx.cur).clk
      (Config.freeBit s.fresh (keyP + n))
    if now = SMap.get (Cell.init false) s.window n ∨ now.tick = 0 ∨ Config.freeBit s.fresh (keyP + 16 + n) = true then was
    else now.val
  else (SMap.get (Cell.init false) s.ctx.p n).read s.ctx.cur (s.strand s.ctx.cur).clk (Config.freeBit s.fresh (keyP + n))

/-- p[n] ← v; p0 ignores (R95). -/
def State.setP (s : State) (n : Nat) (v : Bool) (bound : Nat) : State :=
  if n = 0 then s
  else (s.mctx (fun c => { c with
      p := SMap.set (Cell.init false) c.p n
        ((SMap.get (Cell.init false) c.p n).write c.cur (s.now + (bound - 1)) v) })).notePend (.p n) bound 0

/-- A window predicate written by a loop word in lock-step: every slot sees it from the next bundle on (R115). -/
def Ctx.setWindow (c : Ctx) (n : Nat) (v : Bool) : Ctx :=
  { c with p := SMap.set (Cell.init false) c.p n { val := v, old := v, wr := .c, tick := 0 } }

/-- vp[n], one bit a lane (R60). Log entry 4 (DESIGN CHOICE). -/
def State.vp (s : State) (n : Nat) : Word :=
  if s.early (.vp n) then Config.freeWord s.fresh (keyVp + n)
  else (SMap.get (Cell.init 0) s.ctx.vp n).read s.ctx.cur (s.strand s.ctx.cur).clk (Config.freeBit s.fresh (keyVp + n))

/-- vp[n] ← v. -/
def State.setVp (s : State) (n : Nat) (v : Word) (bound : Nat) : State :=
  (s.mctx (fun c => { c with
      vp := SMap.set (Cell.init 0) c.vp n
        ((SMap.get (Cell.init 0) c.vp n).write c.cur (s.now + (bound - 1)) v) })).notePend (.vp n) bound 0

/-- CSR n, whose value is now v, as the issuing strand sees it: with no token since another strand's write, as it was before
that write or as it is (R96, R140, R211). Log entry 4 (DESIGN CHOICE). -/
def State.csrAs (s : State) (n : Nat) (v : Word) : Word :=
  match SMap.get none s.ctx.csrOld n with
  | none => v
  | some e => ({ e with val := v }).read s.ctx.cur (s.strand s.ctx.cur).clk (Config.freeBit s.fresh (900 + n))

/-- The issuing strand writes CSR n, which held v; others see the write through a token (R96, R211). -/
def State.noteCsr (s : State) (n : Nat) (v : Word) (bound : Nat) : State :=
  s.mctx (fun c => { c with
    csrOld := SMap.set none c.csrOld n (some { val := v, old := v, wr := c.cur, tick := s.now + (bound - 1) }) })

/-- The 256-byte line of the register space that vn names: VVB + 256 n (R61, R64). -/
def State.vline (s : State) (n : Reg) : Nat := bitsOf (s.csrAs 0x00A s.ctx.csr.vvb) 14 8 + n.toNat

/-- vn lies within the register space (R61). -/
def State.vok (s : State) (n : Reg) : Bool := decide (s.vline n ≤ 127)

/-- The bytes of a line of the register space as the issuing strand reads them. -/
def State.lineVal (s : State) (k : Nat) : VReg :=
  if s.early (.v k) then Config.freeVReg s.fresh (keyLine + k)
  else (SMap.get (Cell.init 0) s.ctx.lines k).read s.ctx.cur (s.strand s.ctx.cur).clk
    (Config.freeBit s.fresh (keyLine + k))

/-- v[n] (R61). Log entry 4 (DESIGN CHOICE). -/
def State.v (s : State) (n : Reg) : VReg := s.lineVal (s.vline n)

/-- Write a line of the register space. -/
def State.setLine (s : State) (k : Nat) (w : VReg) (bound : Nat) : State :=
  (s.mctx (fun c => { c with
      lines := SMap.set (Cell.init 0) c.lines k
        ((SMap.get (Cell.init 0) c.lines k).write c.cur (s.now + (bound - 1)) w) })).notePend (.v k) bound 0

/-- v[n] ← w. -/
def State.setV (s : State) (n : Reg) (w : VReg) (bound : Nat) : State := s.setLine (s.vline n) w bound

/-- b[n] of the issuing strand (R60, R107). -/
def State.b (s : State) (n : BitVec 2) : Word := (s.strand s.ctx.cur).b.get n.toNat

/-- b[n] of the issuing strand ← v. -/
def State.setB (s : State) (n : BitVec 2) (v : Word) : State :=
  s.mstrand s.ctx.cur (fun t => { t with b := t.b.set n.toNat v })

/-- What a stencil slot holds (R69). -/
def State.slotNow (s : State) (n : Nat) : BitVec 256 := SMap.get 0 s.ctx.stencil n

/-- A stencil slot as the issuing strand sees it (R96, R205). Log entry 4 (DESIGN CHOICE). -/
def State.slot (s : State) (n : Nat) : BitVec 256 :=
  match SMap.get none s.ctx.slotOld n with
  | none => s.slotNow n
  | some e => ({ e with val := s.slotNow n }).read s.ctx.cur (s.strand s.ctx.cur).clk (Config.freeBit s.fresh (1100 + n))

/-- A write of v over a slot that another strand has written with no token between: each field holds one writer's value (R205).
Log entry 4 (DESIGN CHOICE). -/
def State.mixSlot (s : State) (n : Nat) (v : BitVec 256) : BitVec 256 :=
  let keep (i : Nat) : Bool := match SMap.get none s.ctx.slotOld n with
    | some e => !(e.wr == s.ctx.cur) && decide ((s.strand s.ctx.cur).clk.of e.wr < e.tick) && Config.freeBit s.fresh (1200 + 16 * n + i)
    | none => false
  BitVec.ofNat 256 ((List.range 16).foldl (fun a i =>
    a + (if keep i then s.slotNow n else v).toNat / 2 ^ (16 * i) % 65536 * 2 ^ (16 * i)) 0)

/-- Write a stencil slot, with the bound of its word (R205). -/
def State.setSlot (s : State) (n : Nat) (v : BitVec 256) (bound : Nat) : State :=
  (s.mctx (fun c => { c with
    stencil := SMap.set 0 c.stencil n (s.mixSlot n v),
    slotOld := SMap.set none c.slotOld n (some { val := v, old := s.slotNow n, wr := c.cur, tick := s.now + (bound - 1) }) })).notePend
      (.stencil n) bound 0

/-! ### Tokens (R57 to R59) -/

/-- The counters that strand k pops are non-zero where asked: PN from its next neighbour, PP from its previous (R57, R58). -/
def Ctx.canPop (c : Ctx) (k : Strand) (pp pn : Bool) : Bool :=
  (!pn || !(c.tokPrev.get k.next.num).isEmpty) && (!pp || !(c.tokNext.get k.prev.num).isEmpty)

/-- Each counter to be pushed, with its outstanding pushes, is at most 14 (R59). -/
def Ctx.canPush (c : Ctx) (k : Strand) (qp qn : Bool) : Bool :=
  let full (l : Nat) : Bool := decide (l ≤ 14)
  (!qn || full ((c.tokNext.get k.num).length + (c.newNext.get k.num).length + c.outNext.get k.num)) &&
  (!qp || full ((c.tokPrev.get k.num).length + (c.newPrev.get k.num).length + c.outPrev.get k.num))

/-- Take the token of one counter: the strand joins its clock; answers whether the pop acquires (R58, R96, R137). -/
def Ctx.popNext (c : Ctx) (k : Strand) : Ctx × Bool :=
  match c.tokPrev.get k.next.num with
  | [] => (c, false)
  | t :: ts =>
    (Ctx.mstrand { c with tokPrev := c.tokPrev.set k.next.num ts } k (fun u => { u with clk := u.clk.join t.clk }), t.acq)

/-- As `popNext`, for the counter from the previous neighbour. -/
def Ctx.popPrev (c : Ctx) (k : Strand) : Ctx × Bool :=
  match c.tokNext.get k.prev.num with
  | [] => (c, false)
  | t :: ts =>
    (Ctx.mstrand { c with tokNext := c.tokNext.set k.prev.num ts } k (fun u => { u with clk := u.clk.join t.clk }), t.acq)

/-- The pops of a word: PP, then PN (R73). -/
def Ctx.pop (c : Ctx) (k : Strand) (pp pn : Bool) : Ctx × Bool :=
  let r := if pp then c.popPrev k else (c, false)
  let q := if pn then r.1.popNext k else (r.1, false)
  (q.1, r.2 || q.2)

/-- Make pushes outstanding (R59). -/
def Ctx.owe (c : Ctx) (k : Strand) (qp qn : Bool) : Ctx :=
  { c with outNext := if qn then c.outNext.set k.num (c.outNext.get k.num + 1) else c.outNext,
           outPrev := if qp then c.outPrev.set k.num (c.outPrev.get k.num + 1) else c.outPrev }

/-- Land outstanding pushes of strand k with the clock they carry; one towards C sets the event latch (R59, R219). -/
def Ctx.land (c : Ctx) (k : Strand) (qp qn : Bool) (clk : Token) : Ctx :=
  { c with
    newNext := if qn then c.newNext.set k.num (c.newNext.get k.num ++ [clk]) else c.newNext,
    newPrev := if qp then c.newPrev.set k.num (c.newPrev.get k.num ++ [clk]) else c.newPrev,
    outNext := if qn then c.outNext.set k.num (c.outNext.get k.num - 1) else c.outNext,
    outPrev := if qp then c.outPrev.set k.num (c.outPrev.get k.num - 1) else c.outPrev,
    latch := c.latch || (qn && k.next == .c) || (qp && k.prev == .c) }

/-- At the end of a cycle the landed pushes become visible (R58). -/
def Ctx.showTokens (c : Ctx) : Ctx :=
  let add (a b : Quad (List Token)) : Quad (List Token) :=
    ⟨a.q0 ++ b.q0, a.q1 ++ b.q1, a.q2 ++ b.q2, a.q3 ++ b.q3⟩
  { c with tokNext := add c.tokNext c.newNext, tokPrev := add c.tokPrev c.newPrev,
           newNext := Quad.all [], newPrev := Quad.all [] }

/-- Clock of an operating point in MHz (01, "Operating points"). -/
def clockMhz (point : Nat) : Nat :=
  match point with
  | 0 => 900 | 1 => 1100 | 2 => 1350 | 3 => 1600 | 4 => 1850 | 5 => 2050 | 6 => 2250 | _ => 2500

/-! ### Accept journal and events -/

/-- Keep the newest n of a list whose newest element is last. -/
def keepLast {α : Type} (n : Nat) (l : List α) : List α := l.drop (l.length - n)

/-- An event of an MSI-X vector waits to be signalled (R374). -/
def State.signal (s : State) (v : Nat) : State := { s with msix := s.msix.set v { (s.msix.get v) with waiting := true } }

/-- Append an entry to die d's accept journal with the device's next sequence number (R338, R339); vector 2 signals it. -/
def State.journal (s : State) (d kind source : Nat) (status : BitVec 32) (object : Word) (plate : Nat)
    (detail : List Word) : State :=
  { (s.mdie d (fun t => { t with
      journal := keepLast 65536 (t.journal ++ [JEntry.mk s.jseq kind source d status object plate detail]),
      widx := t.widx + 1 })).signal 2 with jseq := s.jseq + 1 }

/-- Post an event on die d: the ring keeps 4,096 records and counts what it overwrites (R355, R356).
Log entry 25 (DESIGN CHOICE). -/
def State.post (s : State) (d code plate : Nat) (esn : BitVec 32) (object detail : Word) : State :=
  s.mdie d (fun t =>
    { t with
      events := keepLast 4096 (t.events ++ [EvRec.mk s.cycle code plate t.lost esn object detail]),
      posted := t.posted + 1,
      lost := if 4096 ≤ t.events.length then 1 else 0 })

end Sys2Proof.Machine
end

