-- ==== Sys2Proof/Machine/Bank.lean ====
section
/-! DEFINITION. What the bank ALUs compute: atomics (R137) and the check of a byte barrier (R199). -/

namespace Sys2Proof.Machine

/-! ### Atomics (R137) -/

/-- What the bank ALU writes from the old value and the width in bytes. -/
abbrev BankOp := Nat → Nat → Nat

/-- A 64-bit bank operation on words. -/
def bank64 (f : Word → Word → Word) : Word → Word → BankOp :=
  fun operand _ old _ => (f (BitVec.ofNat 64 old) operand).toNat

/-- The FP32 sum of two words under RNE, without flags (R137). -/
def fp32Sum (a b : Nat) : Nat :=
  (fp32.round .rne false 0 (Num.add .rne (fp32.decodeIeee (a % 2 ^ 32)) (fp32.decodeIeee (b % 2 ^ 32))).1).1

/-- Compare and swap on n bytes: the operand if the old value is the expected one, else the old value (R137). -/
def casOp : Word → Word → BankOp := fun operand expected old n =>
  if old = expected.toNat % 256 ^ n then operand.toNat % 256 ^ n else old

/-- Width in bytes and operation of an atomic, by its place in R137's table, from operand and expected value. -/
def atomicOp (op : Nat) : Nat × (Word → Word → BankOp) :=
  match op with
  | 0 => (8, bank64 (fun o x => o + x))
  | 1 => (8, bank64 (fun o x => if o.toInt ≤ x.toInt then x else o))
  | 2 => (8, bank64 (fun o x => if o.toInt ≤ x.toInt then o else x))
  | 3 => (8, bank64 (fun o x => o &&& x))
  | 4 => (8, bank64 (fun o x => o ||| x))
  | 5 => (8, bank64 (fun o x => o ^^^ x))
  | 6 => (8, bank64 (fun _ x => x))
  | 7 => (4, fun operand _ old _ => fp32Sum old operand.toNat)
  | 8 => (8, casOp)
  | _ => (4, casOp)

/-! ### Byte barriers (R199) -/

/-- The check of a byte barrier after an update (R199). -/
def barrierCheck (v : Nat) : Nat :=
  let arrived := v % 2 ^ 64
  let posted := v / 2 ^ 64 % 2 ^ 48
  let pv := v / 2 ^ 112 % 2 == 1
  let err := v / 2 ^ 114 % 2 == 1
  v % 2 ^ 113 + (if pv && decide (posted ≤ arrived) then 2 ^ 113 else 0) +
    (if err || (pv && decide (posted < arrived)) then 2 ^ 114 else 0)

/-- n more bytes have arrived (R199). -/
def barrierArrive (n v : Nat) : Nat := barrierCheck (v / 2 ^ 64 * 2 ^ 64 + (v % 2 ^ 64 + n) % 2 ^ 64)

end Sys2Proof.Machine
end

