-- ==== Sys2Proof/Machine/Memory.lean ====
section
/-! DEFINITION. Memory: the physical map, translation, the coherent point of each byte, the L2 and L1 with their
replacement, bounded loads, write-backs, releases and acquires (06, 12, 13, 14, 17). -/

namespace Sys2Proof.Machine

/-! ### Bytes, little-endian (R3) -/

/-- A number as n bytes, the least significant first. -/
def toBytes (n v : Nat) : List Byte := (List.range n).map (fun i => BitVec.ofNat 8 (v / 256 ^ i))

/-- Bytes, the least significant first, as a number. -/
def ofBytes : List Byte → Nat
  | [] => 0
  | b :: bs => b.toNat + 256 * ofBytes bs

/-- The doublewords of a number. -/
def dwsOf (n v : Nat) : List Word := (List.range n).map (fun i => BitVec.ofNat 64 (v / 2 ^ (64 * i)))

/-- n bytes of the coherent memory at a physical address as a number (R281). Log entry 1 (DESIGN CHOICE). -/
def State.memNat (s : State) (pa n : Nat) : Nat :=
  ofBytes ((List.range n).map (fun i => SMap.get 0 s.mem (pa + i)))

/-- An aligned doubleword of the coherent memory. -/
def State.memDw (s : State) (pa : Nat) : Word := BitVec.ofNat 64 (s.memNat pa 8)

/-- Bytes written into a byte table in ascending address. -/
def writeBytes (m : SMap Byte) (pa : Nat) : List Byte → SMap Byte
  | [] => m
  | b :: bs => writeBytes (SMap.set 0 m pa b) (pa + 1) bs

/-- n bytes of a line at an offset as a number. -/
def lineNat (l : Line) (off n : Nat) : Nat := l.toNat / 256 ^ off % 256 ^ n

/-- A line with n bytes at an offset replaced. -/
def lineSet (l : Line) (off n v : Nat) : Line :=
  BitVec.ofNat 1024 (l.toNat / 256 ^ (off + n) * 256 ^ (off + n) + v % 256 ^ n * 256 ^ off + l.toNat % 256 ^ off)

/-- The mask of n bytes at an offset of a line. -/
def maskOf (off n : Nat) : BitVec 128 := BitVec.ofNat 128 ((2 ^ n - 1) * 2 ^ off)

/-- Byte i of a line. -/
def lineByte (l : Line) (i : Nat) : Byte := BitVec.ofNat 8 (l.toNat / 256 ^ i)

/-- The line with the masked bytes of another. -/
def lineMerge (l new : Line) (mask : BitVec 128) : Line :=
  BitVec.ofNat 1024 (ofBytes ((List.range 128).map (fun i => if mask.getLsbD i then lineByte new i else lineByte l i)))

/-! ### The physical map (R251) -/

/-- Where a physical address leads. -/
inductive Place where
  | hbm (die : Nat)
  | cxl (port : Nat)
  | carved (die off : Nat)
  | retn (die off : Nat)
  | reserved
  deriving DecidableEq, Repr

/-- The physical map of R251. Log entry 23 (DESIGN CHOICE). -/
def placeOf (pa : Nat) : Place :=
  if pa < 0x24000000000 then .hbm (pa / 0x9000000000)
  else if 0x200000000000 ≤ pa ∧ pa < 0x400000000000 then .cxl ((pa - 0x200000000000) / 0x40000000000)
  else if 0x400000000000 ≤ pa ∧ pa < 0x400008000000 then
    .carved ((pa - 0x400000000000) / 0x2000000) ((pa - 0x400000000000) % 0x2000000)
  else if 0x400010000000 ≤ pa ∧ pa < 0x400010004000 then
    .retn ((pa - 0x400010000000) / 0x1000) ((pa - 0x400010000000) % 0x1000)
  else .reserved

/-- The home die of a physical address (R250). -/
def homeDie (pa : Nat) : Nat :=
  match placeOf pa with
  | .hbm d => d | .cxl p => p / 2 | .carved d _ => d | .retn d _ => d | .reserved => 0

/-- An address of the carved windows. -/
def isCarved (pa : Nat) : Bool := match placeOf pa with | .carved _ _ => true | _ => false

/-- A unit of 64 bytes is poisoned (R358). -/
def State.poisoned (s : State) (pa : Nat) : Bool := SMap.get false s.poison (pa / 64)

/-- Poison a unit; each newly poisoned unit posts one event (R358). -/
def State.poisonUnit (s : State) (u : Nat) : State :=
  if SMap.get false s.poison u then s
  else ({ s with poison := SMap.set false s.poison u true }).post (homeDie (u * 64)) 5 0x1FF 0
    (BitVec.ofNat 64 (u * 64)) (BitVec.ofNat 64 (u * 64))

/-! ### Regions and rounds (R286, R287) -/

/-- A region's entry; region 0 is fixed at EN = 1, MODE = 0, HOME = 0 (R286). -/
def State.region (s : State) (r : Nat) : Region :=
  if r = 0 then { (SMap.get { entry := 1, round := 0, pushes := [] } s.regions 0) with entry := 1 }
  else SMap.get { entry := 0, round := 0, pushes := [] } s.regions r

/-- Store a region. -/
def State.putRegion (s : State) (r : Nat) (g : Region) : State :=
  { s with regions := SMap.set { entry := if r = 0 then 1 else 0, round := 0, pushes := [] } s.regions r g }

/-- A disabled region is treated as region 0 (R286). -/
def State.effRegion (s : State) (r : Nat) : Nat := if bitOf (s.region r).entry 0 then r else 0

/-- STALL mode (R286). -/
def State.stallMode (s : State) (r : Nat) : Bool := bitOf (s.region (s.effRegion r)).entry 1

/-- A die's round mirror (R287). -/
def State.mirror (s : State) (d r : Nat) : BitVec 16 := SMap.get 0 (s.die d).mirror r

/-- newer(a, b) (R287). -/
def newer (a b : BitVec 16) : BitVec 16 := if (a - b).toNat < 0x8000 then a else b

/-- The context's view of a region (R287). -/
def Ctx.viewOf (c : Ctx) (r : Nat) : BitVec 16 := SMap.get 0 c.view r

/-! ### Writes at the coherent point (R281, R290, R292) -/

/-- A written line joins the push set of its region when that is in STALL mode (R290). -/
def State.notePush (s : State) (r line : Nat) : State :=
  let r := s.effRegion r
  if s.stallMode r then
    let g := s.region r
    s.putRegion r { g with pushes := if g.pushes.contains line then g.pushes else g.pushes ++ [line] }
  else s

/-- One byte of a plain write at the coherent point: a write of a lower plate in the same round of its region leaves it (R292). -/
def State.homeByte (s : State) (plate r pa : Nat) (b : Byte) : State :=
  let held := SMap.get 0 s.writers pa
  if held ≠ 0 ∧ held / 1024 = s.effRegion r ∧ plate + 1 < held % 1024 then s
  else { s with mem := SMap.set 0 s.mem pa b,
                writers := SMap.set 0 s.writers pa (s.effRegion r * 1024 + plate + 1) }

/-- Plain bytes at the coherent point under R292. -/
def State.homeBytes (s : State) (plate r pa : Nat) : List Byte → State
  | [] => s
  | b :: bs => (s.homeByte plate r pa b).homeBytes plate r (pa + 1) bs

/-- Masked bytes of a line at the coherent point under R292, from byte i on. -/
def State.homeMask (s : State) (plate r line : Nat) (data : Line) (mask : BitVec 128) : List Nat → State
  | [] => s
  | i :: is =>
    (if mask.getLsbD i then s.homeByte plate r (line * 128 + i) (lineByte data i) else s).homeMask plate r line data mask is

/-- A write that covers a whole 64-byte unit clears its poison (R358). -/
def State.cure (s : State) (pa n : Nat) : State :=
  let us := (List.range (n / 64 + 1)).map (fun i => pa / 64 + i)
  let clear (m : SMap Bool) (u : Nat) : SMap Bool :=
    if pa ≤ u * 64 ∧ u * 64 + 64 ≤ pa + n then SMap.set false m u false else m
  { s with poison := us.foldl clear s.poison }

/-- Bytes written in arrival order, with no same-round rule: UNC, SWM at home, MD (R292, R294). -/
def State.rawBytes (s : State) (pa : Nat) (bs : List Byte) : State :=
  ({ s with mem := writeBytes s.mem pa bs }).cure pa bs.length

/-- Drop the records of same-round writes of n bytes: an atomic clears them (R292). -/
def State.clearWriters (s : State) (pa n : Nat) : State :=
  { s with writers := (List.range n).foldl (fun m i => SMap.set 0 m (pa + i) 0) s.writers }

/-- The lines a range of physical bytes covers: line, offset in it, length, offset in the range. -/
def linesOf (pa n : Nat) : List (Nat × Nat × Nat × Nat) :=
  (List.range (n / 128 + 2)).filterMap (fun i =>
    let line := pa / 128 + i
    let lo := max pa (line * 128)
    let hi := min (pa + n) (line * 128 + 128)
    if lo < hi then some (line, lo - line * 128, hi - lo, lo - pa) else none)

/-! ### Links between the dies (R10, R300, R301) -/

/-- The channel a message travels on: 0 request, 1 snoop, 2 reply (R300). -/
def Msg.chan : Msg → Nat
  | .rd _ _ _ => 0
  | .wr _ _ _ _ _ _ _ => 0
  | .atom _ _ _ _ _ _ _ => 0
  | .inv _ => 1
  | .data _ _ _ => 2
  | .ack _ _ => 2
  | .conflict _ => 2
  | .retry _ _ _ => 2
  | .marker c => c

/-- The line a message names. -/
def Msg.line : Msg → Nat
  | .rd l _ _ => l
  | .wr l _ _ _ _ _ _ => l
  | .atom a _ _ _ _ _ _ => a / 128
  | .inv l => l
  | .data l _ _ => l
  | .ack l _ => l
  | .conflict l => l
  | .retry l _ _ => l
  | .marker _ => 0

/-- Two dies without an edge between them (R10). -/
def diagonal (a b : Nat) : Bool := a + b == 3

/-- The other die of a row (R10). -/
def rowMate (d : Nat) : Nat := d / 2 * 2 + (1 - d % 2)

/-- Where a message goes first: a diagonal route turns at the die in the sender's row (R10). -/
def hopOf (src dst : Nat) : Nat := if diagonal src dst then rowMate src else dst

/-- The die from which a message reaches its destination. -/
def lastHop (src dst : Nat) : Nat := if diagonal src dst then rowMate src else src

/-- The dies joined to a die by an edge (R10). -/
def neighbours (d : Nat) : List Nat := (List.range 4).filter (fun e => !(e == d) && !(diagonal d e))

/-- The link from one die to its neighbour. -/
def chanKey (src dst : Nat) : Nat := 4 * src + dst

/-- A link with nothing on it. -/
def Link.init : Link := { out := [], skid := [], told := 0 }

/-- The link from a die to its neighbour. -/
def State.linkOf (s : State) (a b : Nat) : Link := SMap.get Link.init s.net (chanKey a b)

/-- Change a link. -/
def State.mlink (s : State) (a b : Nat) (f : Link → Link) : State :=
  { s with net := SMap.set Link.init s.net (chanKey a b) (f (s.linkOf a b)) }

/-- STOP for a channel whose skid buffer holds 4 or more, GO at 2 or fewer (R301). -/
def Link.tell (l : Link) (ch : Nat) : Link :=
  let n := (l.skid.filter (fun p => p.msg.chan == ch)).length
  let bit := BitVec.ofNat 4 (2 ^ ch)
  if 4 ≤ n then { l with told := l.told ||| bit } else if n ≤ 2 then { l with told := l.told &&& ~~~bit } else l

/-- Send over a link: the message waits at the sender behind others of its channel, or while STOP holds (R300, R301). -/
def Link.push (l : Link) (p : Packet) : Link :=
  if l.told.getLsbD p.msg.chan ∨ l.out.any (fun q => q.msg.chan == p.msg.chan) then { l with out := l.out ++ [p] }
  else ({ l with skid := l.skid ++ [p] } : Link).tell p.msg.chan

/-- What waits at the sender goes as far as it may. -/
def Link.pump (l : Link) : Link := l.out.foldl Link.push { l with out := [] }

/-- Take a message off a link. -/
def Link.take (l : Link) (p : Packet) : Link :=
  if l.skid.contains p then (({ l with skid := l.skid.erase p } : Link).tell p.msg.chan).pump
  else { l with out := l.out.erase p }

/-- Send a die-to-die message (R298, R300). -/
def State.send (s : State) (src dst : Nat) (m : Msg) : State :=
  s.mlink src (hopOf src dst) (fun l => l.push { src := src, dst := dst, msg := m })

/-- The messages between two dies, oldest first: those on the last link of their route before those on its first. -/
def State.msgs (s : State) (src dst : Nat) : List Msg :=
  let pick (l : Link) : List Msg := (l.skid ++ l.out).filterMap (fun p => if p.src = src ∧ p.dst = dst then some p.msg else none)
  pick (s.linkOf (lastHop src dst) dst) ++ (if diagonal src dst then pick (s.linkOf src (rowMate src)) else [])

/-- The message that has reached a die from another and comes first on its channel (R300). -/
def State.oldest (s : State) (src dst ch : Nat) : Option Msg :=
  ((s.linkOf (lastHop src dst) dst).skid.find? (fun p => p.msg.chan == ch)).bind (fun p =>
    if p.src = src ∧ p.dst = dst then some p.msg else none)

/-- A die has its own RD of a line outstanding (R299). -/
def State.rdOut (s : State) (die line : Nat) : Bool :=
  let h := homeDie (line * 128)
  let rd (m : Msg) : Bool := match m with | .rd l _ _ => l == line | _ => false
  let back (m : Msg) : Bool := match m with | .data l _ _ => l == line | .retry l _ _ => l == line | _ => false
  (s.msgs die h).any rd || (s.die h).waitq.any (fun e => e.1 == die && rd e.2) || (s.msgs h die).any back

/-! ### The directory (R298) -/

/-- The sharer vector of a line at its home (R298). -/
def State.sharers (s : State) (line : Nat) : BitVec 4 :=
  match (s.die (homeDie (line * 128))).dir.find? (fun e => e.line == line) with
  | some e => e.sharers
  | none => 0

/-- Set the sharer vector of a line. -/
def State.setSharers (s : State) (line : Nat) (v : BitVec 4) : State :=
  s.mdie (homeDie (line * 128)) (fun t =>
    let rest := t.dir.filter (fun e => !(e.line == line))
    let owed := ((t.dir.find? (fun e => e.line == line)).map (fun e => e.owed)).getD []
    { t with dir := if v = 0 ∧ owed = [] then rest else { line := line, sharers := v, owed := owed } :: rest })

/-- The home recalls every other die's copy of a COH line: INV to each sharer, and the vector clears (R298). -/
def State.invSharers (s : State) (line : Nat) : State :=
  let h := homeDie (line * 128)
  let v := s.sharers line
  if v = 0 then s
  else ((List.range 4).foldl (fun t d => if v.getLsbD d && !(d == h) then t.send h d (.inv line) else t) s).setSharers line 0

/-! ### Retention registers and the L2 (R134, R236 to R240, R247) -/

/-- An empty retention register (R240). -/
def Retn.blank : Retn :=
  { v := false, ways := 0, lo := 0, hi := 0, asid := 0, vbase := 0, held := [], hits := 0, misses := 0, fills := 0,
    evicts := 0 }

/-- Retention register n of a die. -/
def Die.retnOf (t : Die) (n : Nat) : Retn := SMap.get Retn.blank t.retn n

/-- The register whose range holds a line. -/
def Die.retnFor (t : Die) (line : Nat) : Option Nat :=
  (List.range 8).find? (fun n => let r := t.retnOf n; r.v && decide (r.lo ≤ line * 128) && decide (line * 128 < r.hi))

/-- The ways held by the registers. -/
def Die.heldWays (t : Die) : List Nat := (List.range 8).flatMap (fun n => (t.retnOf n).held)

/-- A unit with this map value is doomed at a point: 15 passes everywhere (R262, R268). -/
def doomedAt (point v : Nat) : Bool := decide (point ≤ v) && !(v == 15)

/-- The slice of a line: the manual leaves the mapping of bits [22:7] open (R236). Log entry 23 (DESIGN CHOICE). -/
def sliceOf (line : Nat) : Nat := line % 256

/-- Logical ways a slice has lost at a point: 17 physical ways serve 16 (R269). -/
def Die.lostWays (t : Die) (point slice : Nat) : Nat :=
  (t.l2Rows.filter (fun e => e.1 / 17 == slice && doomedAt point e.2)).length - 1

/-- The physical ways of a slice that work at a point, ascending: they are bound in turn to the carved ways, the retained and the
ordinary ones (R269). -/
def Die.workingWays (t : Die) (point slice : Nat) : List Nat :=
  (List.range 17).filter (fun w => !(doomedAt point (SMap.get 15 t.l2Rows (17 * slice + w))))

/-- A carved or retained way of a slice is bound to another physical way at another point: it is copied (R273). -/
def Die.sliceMoves (t : Die) (m n slice : Nat) : Bool :=
  let k := t.carve + t.heldWays.length
  !((t.workingWays m slice).take k == (t.workingWays n slice).take k)

/-- The most ways that some slice has lost. -/
def Die.worstLost (t : Die) (point : Nat) : Nat := t.l2Rows.foldl (fun m e => max m (t.lostWays point (e.1 / 17))) 0

/-- The ordinary ways of a slice at a point: the highest of them are lost first (R247, R269). -/
def Die.ordinaryWays (t : Die) (point slice : Nat) : List Nat :=
  let l := (List.range 16).filter (fun w => decide (t.carve ≤ w) && !(t.heldWays.contains w))
  l.take (l.length - t.lostWays point slice)

/-- The ways a line may allocate into, lowest first (R134, R247). -/
def Die.waysFor (t : Die) (line : Nat) : List Nat :=
  match t.retnFor line with
  | some n => (List.range 16).filter (fun w => (t.retnOf n).held.contains w)
  | none => t.ordinaryWays t.point (sliceOf line)

/-- Change retention register n. -/
def Die.mretn (t : Die) (n : Nat) (f : Retn → Retn) : Die :=
  { t with retn := SMap.set Retn.blank t.retn n (f (t.retnOf n)) }

/-- Lines of the set of a line: the (slice, set) pair is bits [22:7] of the address (R236). -/
def Die.l2Set (t : Die) (line : Nat) : List L2Line := t.l2.filter (fun e => e.line % 65536 == line % 65536)

/-- The insertion RRPV of a reuse hint (R122). -/
def rrpvOf (rh : Nat) : Nat := if rh = 1 then 3 else if rh = 2 then 0 else 2

/-- Make room for a line: the way it takes, the line evicted, and the aged set (R247). Log entry 23 (DESIGN CHOICE). -/
def Die.l2Victim (t : Die) (line : Nat) : Option (Nat × Option L2Line × Die) :=
  let ways := t.waysFor line
  let here := (t.l2Set line).filter (fun e => ways.contains e.way)
  match ways.find? (fun w => !(here.any (fun e => e.way == w))) with
  | some w => some (w, none, t)
  | none =>
    let top := here.foldl (fun m e => max m e.rrpv) 0
    let aged := t.l2.map (fun e =>
      if e.line % 65536 == line % 65536 && ways.contains e.way then { e with rrpv := e.rrpv + (3 - top) } else e)
    let cand := (aged.filter (fun e => e.line % 65536 == line % 65536 && ways.contains e.way && e.rrpv == 3))
    match (List.range 16).findSome? (fun w => cand.find? (fun e => e.way == w)) with
    | some v => some (v.way, some v, { t with l2 := aged.filter (fun e => !(e.line == v.line)) })
    | none => none

/-- The bytes of a line at its home (R281). -/
def State.memLine (s : State) (line : Nat) : Line := BitVec.ofNat 1024 (s.memNat (line * 128) 128)

/-- Masked bytes written home in arrival order: a SWM line's dirty bytes (R245, R294). -/
def State.rawMask (s : State) (line : Nat) (data : Line) (mask : BitVec 128) : State :=
  { s with mem := (List.range 128).foldl (fun m i =>
      if mask.getLsbD i then SMap.set 0 m (line * 128 + i) (lineByte data i) else m) s.mem }

/-- What leaves an L2 goes home when it is a dirty SWM line; a COH line at its home recalls its sharers (R245, R298). -/
def State.l2Out (s : State) (d : Nat) (e : L2Line) : State :=
  if e.swm then s.rawMask e.line e.data e.dirty
  else if homeDie (e.line * 128) = d then s.invSharers e.line
  else s

/-- Place a line in die d's L2, with its FILL and EVICT counts; none when no way may take it (R238, R247). -/
def State.l2Insert (s : State) (d : Nat) (e : L2Line) : Option State :=
  match (s.die d).l2Victim e.line with
  | none => none
  | some (w, out, t) =>
    let t := match t.retnFor e.line with
      | some n => t.mretn n (fun q => { q with fills := q.fills + 1, evicts := q.evicts + (if out.isSome then 1 else 0) })
      | none => t
    let s := s.mdie d (fun _ => { t with l2 := { e with way := w } :: t.l2 })
    some (match out with
      | some v => s.l2Out d v
      | none => s)

/-- A line as an access brings it into an L2: the data kept is that of an SWM copy (R245, R294). -/
def State.l2Fresh (s : State) (line rh : Nat) (swm : Bool) (r : Nat) : L2Line :=
  { line := line, way := 0, rrpv := rrpvOf rh, swm := swm, data := if swm then s.memLine line else 0, dirty := 0, region := r,
    tags := [] }

/-- A request reaches die d's L2 for a line: hit and miss counts, RRPV, insertion and eviction (R122, R238, R247). A miss of a
COH line of another die sends RD, unless one is outstanding; its DATA brings the line (R298). -/
def State.l2Touch (s : State) (d line rh : Nat) (swm : Bool) (r : Nat) : State :=
  let t := s.die d
  let range := t.retnFor line
  let count (f : Retn → Retn) (t : Die) : Die := match range with | some n => t.mretn n f | none => t
  match t.l2.find? (fun e => e.line == line) with
  | some e =>
    let e' := if rh = 0 ∨ rh = 2 then { e with rrpv := 0 } else e
    s.mdie d (fun _ => count (fun q => { q with hits := q.hits + 1 })
      { t with l2 := t.l2.map (fun u => if u.line == line then e' else u) })
  | none =>
    let s := s.mdie d (fun _ => count (fun q => { q with misses := q.misses + 1 }) t)
    if homeDie (line * 128) = d ∨ swm then (if rh = 3 then s else (s.l2Insert d (s.l2Fresh line rh swm r)).getD s)
    else if s.rdOut d line then s
    else s.send d (homeDie (line * 128)) (.rd line rh r)

/-! ### Requests at the home (R292, R298, R299) -/

/-- A write by mask clears the poison of the units it covers whole, and carries its own (R358). -/
def State.markPoison (s : State) (line : Nat) (mask : BitVec 128) (poison : BitVec 2) : State :=
  { s with poison := (List.range 2).foldl (fun m i =>
      let m := if mask.toNat / 2 ^ (64 * i) % 2 ^ 64 = 2 ^ 64 - 1 then SMap.set false m (line * 2 + i) false else m
      if poison.getLsbD i then SMap.set false m (line * 2 + i) true else m) s.poison }

/-- The home die's L2 copy of a COH line is dirty in some bytes from now on; what they hold is the home memory's (R357). -/
def State.noteDirty (s : State) (line : Nat) (mask : BitVec 128) : State :=
  s.mdie (homeDie (line * 128)) (fun t => { t with l2 := t.l2.map (fun e =>
    if e.line == line && !e.swm then { e with dirty := e.dirty ||| mask } else e) })

/-- The home merges bytes of a line: a plate's under R292, a fabric engine's in arrival order; it notes them for a push and
recalls every sharer (R290, R292, R298, R303). -/
def State.mergeWr (s : State) (line : Nat) (data : Line) (mask : BitVec 128) (poison : BitVec 2) (plate region : Nat) : State :=
  let s := if plate < 512 then s.homeMask plate region line data mask (List.range 128)
    else (List.range 128).foldl (fun t i => if mask.getLsbD i then t.clearWriters (line * 128 + i) 1 else t) (s.rawMask line data mask)
  (((s.markPoison line mask poison).notePush region line).noteDirty line mask).invSharers line

/-- The indivisible step of an atomic at its bank ALU: other dies' copies are recalled, the word is replaced and its same-round
records clear; it answers what the memory held (R137, R138, R292). The request has the normal hint at the home die's L2; carved
memory, which no L2 holds, is reached at its slice (R248). Log entry 58 (DESIGN CHOICE). -/
def State.bankStep (s : State) (pa n region : Nat) (f : Nat → Nat) : State × Nat :=
  let line := pa / 128
  let s := if isCarved pa then s else (s.l2Touch (homeDie pa) line 0 false region).invSharers line
  let old := s.memNat pa n
  ((((s.rawBytes pa (toBytes n (f old))).clearWriters pa n).notePush region line).noteDirty line (maskOf (pa % 128) n), old)

/-- After an AADD on bytes 0 to 7 of a byte barrier its bank ALU makes the barrier's check in the same step (R199).
Log entry 38 (DESIGN CHOICE). -/
def State.barrierAdd (s : State) (pa : Nat) : State :=
  if pa % 16 = 0 ∧ s.barriers.contains pa then s.rawBytes pa (toBytes 16 (barrierCheck (s.memNat pa 16))) else s

/-- An atomic at its bank ALU, with the check after an AADD (R137, R199). A unit poisoned since it was sent leaves the memory as
it is (R358). -/
def State.atomStep (s : State) (pa op region : Nat) (operand expected : Word) : State × Nat :=
  let f := atomicOp op
  let r := s.bankStep pa f.1 region (fun old => if s.poisoned pa then old else f.2 operand expected old f.1)
  (if op = 0 then r.1.barrierAdd pa else r.1, r.2)

/-- The home performs a WR or an AT, unless it has been performed: the message as it stands then. -/
def State.perform (s : State) (m : Msg) : State × Msg :=
  match m with
  | .wr line data mask poison plate region false =>
    (s.mergeWr line data mask poison plate region, .wr line data mask poison plate region true)
  | .atom addr op operand expected region who none =>
    let r := s.atomStep addr op region operand expected
    (r.1, .atom addr op operand expected region who (some r.2))
  | m => (s, m)

/-- Put another message in the place of one between two dies, on its links and in the home's queue. -/
def State.restate (s : State) (src dst : Nat) (m m' : Msg) : State :=
  let one (p : Packet) : Packet := if p.src = src ∧ p.dst = dst ∧ p.msg = m then { p with msg := m' } else p
  let link (l : Link) : Link := { l with out := l.out.map one, skid := l.skid.map one }
  ((s.mlink (lastHop src dst) dst link).mlink src (hopOf src dst) link).mdie dst (fun t =>
    { t with waitq := t.waitq.map (fun e => if e.1 = src ∧ e.2 = m then (src, m') else e) })

/-- A message that changes memory when it is performed, and has not been. -/
def Msg.pending : Msg → Bool
  | .wr _ _ _ _ _ _ d => !d
  | .atom _ _ _ _ _ _ old => old.isNone
  | _ => false

/-- The WRs and ATs of die d to a home that are still to be performed, in their order. -/
def State.unperformed (s : State) (d h : Nat) : List Msg :=
  ((((s.die h).waitq.filter (fun e => e.1 == d)).map (fun e => e.2)) ++ s.msgs d h).filter Msg.pending

/-- The WRs and ATs of die d to some lines are performed: an access of the die that travels behind them on their channel, or a word
that waits for them, comes after them (R119, R281, R300). Log entry 21 (DESIGN CHOICE). -/
def State.settle (s : State) (d : Nat) (pick : Nat → Bool) : State :=
  ((List.range 4).filter (fun h => !(h == d))).foldl (fun (t : State) (h : Nat) =>
    ((t.unperformed d h).filter (fun m => pick m.line)).foldl (fun (u : State) (m : Msg) =>
      let r := u.perform m
      r.1.restate d h m r.2) t) s

/-- The lines of n bytes. -/
def spanLine (pa n line : Nat) : Bool := decide (pa / 128 ≤ line) && decide (line * 128 < pa + n)

/-- A request of a plate reaches die d's L2; a COH line is asked for behind the die's own writes of it (R300). -/
def State.l2Access (s : State) (d line rh : Nat) (swm : Bool) (r : Nat) : State :=
  (if swm then s else s.settle d (fun l => l == line)).l2Touch d line rh swm r

/-- Bytes of one line reach its coherent point from a plate, 512 for a fabric engine: at once at the die's own home, else as WR
(R281, R292, R298). -/
def State.homeLine (s : State) (d plate r line : Nat) (data : Line) (mask : BitVec 128) (poison : BitVec 2) : State :=
  if d = homeDie (line * 128) then s.mergeWr line data mask poison plate r
  else s.send d (homeDie (line * 128)) (.wr line data mask poison plate r false)

/-- A plain write of n bytes at their coherent point by a plate, through a page of region r (R281, R292, R298). -/
def State.homeWrite (s : State) (plate r pa n v : Nat) : State :=
  (linesOf pa n).foldl (fun (t : State) (l : Nat × Nat × Nat × Nat) =>
    t.homeLine (dieOfPlate plate) plate r l.1 (lineSet 0 l.2.1 l.2.2.1 (v / 256 ^ l.2.2.2)) (maskOf l.2.1 l.2.2.1) 0) s

/-- What die d's L2 gives for a line: its own copy of a SWM line, else the coherent point (R294, R297). -/
def State.l2Line (s : State) (d line : Nat) (swm : Bool) : Line :=
  if swm then
    match (s.die d).l2.find? (fun e => e.line == line && e.swm) with
    | some e => e.data
    | none => s.memLine line
  else s.memLine line

/-- Dirty bytes merged into die d's L2 copy of a SWM line; a line it does not hold is placed first, and only where no way may
take it do the bytes go home at once, as an eviction would send them (R245, R294). -/
def State.l2Merge (s : State) (d line r : Nat) (data : Line) (mask : BitVec 128) (tags : List (Nat × Nat × Nat)) : State :=
  let held (s : State) : Bool := (s.die d).l2.any (fun e => e.line == line && e.swm)
  let s := if held s then s else (s.l2Insert d (s.l2Fresh line 0 true r)).getD s
  if held s then
    s.mdie d (fun t => { t with l2 := t.l2.map (fun u =>
      if u.line == line && u.swm then
        { u with data := lineMerge u.data data mask, dirty := u.dirty ||| mask, tags := u.tags ++ tags }
      else u) })
  else s.rawMask line data mask

/-! ### The L1 (R122, R123, R243 to R245, R261) -/

/-- Logical rows lost at a point: doomed rows beyond the good spares (R262). A map value of 15 passes. -/
def Plate.lostRows (p : Plate) (point : Nat) : List Nat :=
  let bad := doomedAt point
  let doomed := (p.rows.filter (fun e => decide (e.1 < 512) && bad e.2)).map (fun e => e.1)
  let badSpares := (p.rows.filter (fun e => decide (512 ≤ e.1) && bad e.2)).length
  doomed.drop (16 - badSpares)

/-- SPCAP of a plate at a point (R263). -/
def Plate.spcap (p : Plate) (point : Nat) : Nat :=
  ((p.lostRows point).map (fun r => r / 16)).foldl (fun m g => if g < 24 then min m g else m) 24

/-- Granule and set of a line under boundary S (R244). -/
def l1Place (sb line : Nat) : Nat × Nat :=
  let h := line / 32 % 32
  (if sb ≤ h then h else 24 + h % 8, line % 32)

/-- Lines that share the set of a line. -/
def Plate.l1Set (p : Plate) (line : Nat) : List L1Line := p.l1.filter (fun e => l1Place p.s e.line == l1Place p.s line)

/-- The ways a set may use: 16, without rows lost at the point and without way 15 of granule 31 (R241, R261). -/
def Plate.l1Ways (p : Plate) (point line : Nat) : List Nat :=
  let g := (l1Place p.s line).1
  let lost := p.lostRows point
  (List.range 16).filter (fun w => !(lost.contains (16 * g + w)) && !(g == 31 && w == 15))

/-- The copy of a line in a plate's L1. -/
def Plate.l1Find (p : Plate) (line : Nat) : Option L1Line := p.l1.find? (fun e => e.line == line)

/-- The dirty bytes of a line by the region of the page they were stored through (R290). -/
def L1Line.parts (l : L1Line) : List (Nat × BitVec 128) :=
  let others := (l.others.map (fun e => (e.1, e.2 &&& l.dirty))).filter (fun e => !(e.2 == 0))
  let own := others.foldl (fun m e => m &&& ~~~e.2) l.dirty
  if own = 0 then others else (l.region, own) :: others

/-- Bytes of a line stored through a page of region r. -/
def L1Line.stored (l : L1Line) (r : Nat) (mask : BitVec 128) : List (Nat × BitVec 128) :=
  let rest := l.others.map (fun e => (e.1, e.2 &&& ~~~mask))
  if r = l.region then rest
  else if rest.any (fun e => e.1 == r) then rest.map (fun e => if e.1 = r then (e.1, e.2 ||| mask) else e)
  else rest ++ [(r, mask)]

/-- Write a line's dirty bytes back by mask, as its plate: COH to the coherent point, SWM to the die's L2 (R245, R292).
Poisoned units carry their poison, which was posted when they were poisoned (R358). -/
def State.writeBack (s : State) (plate : Nat) (l : L1Line) : State :=
  if l.dirty = 0 then s
  else
    if l.typ = 1 then (s.l2Merge (dieOfPlate plate) l.line l.region l.data l.dirty l.tags).markPoison l.line 0 l.poison
    else l.parts.foldl (fun t e => t.homeLine (dieOfPlate plate) plate e.1 l.line l.data e.2 l.poison) s

/-- Change the copy of a line in the L1 of the plate in focus. -/
def State.l1Update (s : State) (line : Nat) (f : L1Line → L1Line) : State :=
  s.mplate (fun p => { p with l1 := p.l1.map (fun e => if e.line == line then f e else e) })

/-- Make a line the most recent. -/
def State.l1Front (s : State) (line : Nat) : State :=
  s.mplate (fun p => { p with
    l1 := p.l1.filter (fun e => e.line == line) ++ p.l1.filter (fun e => !(e.line == line)) })

/-- Drop a line from the L1 of the plate in focus. -/
def State.l1Drop (s : State) (line : Nat) : State :=
  s.mplate (fun p => { p with l1 := p.l1.filter (fun e => !(e.line == line)) })

/-- The issuing plate's copy of a line is written back by mask and dropped (R137). -/
def State.dropCopy (s : State) (line : Nat) : State :=
  match s.plate.l1Find line with
  | some l => (s.writeBack s.plate.id l).l1Drop line
  | none => s

/-- Put a line into its set: the lowest free way, else the least recently used way, whose line is written back; `first`
puts it at the least-recently-used end (R122, R244, R261). A set with no way left takes nothing. -/
def State.l1Insert (s : State) (l : L1Line) (first : Bool) : State :=
  let p := s.plate
  let ways := p.l1Ways (s.die (dieOfPlate p.id)).point l.line
  let here := p.l1Set l.line
  let put (s : State) (w : Nat) : State :=
    s.mplate (fun p => { p with l1 := if first then p.l1 ++ [{ l with way := w }] else { l with way := w } :: p.l1 })
  match ways.find? (fun w => !(here.any (fun e => e.way == w))) with
  | some w => put s w
  | none =>
    match (here.filter (fun e => ways.contains e.way)).getLast? with
    | none => s
    | some v => put ((s.l1Drop v.line).writeBack p.id v) v.way

/-! ### Translation (R254 to R257) -/

/-- What an access does with a page. -/
inductive Acc where
  | load | store | atomic | fetch
  deriving DecidableEq, Repr

/-- The target of a translated access. -/
structure Xlat where
  pa     : Nat
  typ    : BitVec 2
  region : Nat
  asid   : BitVec 12
  vpage  : Nat
  size   : Nat
  pte    : Word
  deriving DecidableEq, Repr

/-- The walk from a table through the remaining levels, named by the shift of their index (R255, R256). -/
def State.walk (s : State) (va : Nat) : List Nat → Nat → Except Cause (Word × Nat)
  | [], _ => .error .page
  | sh :: rest, table =>
    let ea := table + 8 * (va / 2 ^ sh % (if sh = 16 then 32 else 512))
    let e := s.memDw ea
    if s.poisoned ea then .error .eccUncorr
    else if bitOf e 0 = false ∨ bitsOf e 55 47 ≠ 0 ∨ bitsOf e 11 8 ≠ 0 then .error .page
    else if bitOf e 1 then
      (if 30 < sh ∨ bitsOf e (sh - 1) 12 ≠ 0 then .error .page else .ok (e, 2 ^ sh))
    else if sh = 16 then .error .page
    else s.walk va rest (bitsOf e 46 12 * 4096)

/-- The table reads of a walk are device-scope reads at the die's L2, with the normal hint (R122, R255).
Log entry 58 (DESIGN CHOICE). -/
def State.walkTouch (s : State) (va : Nat) : List Nat → Nat → State
  | [], _ => s
  | sh :: rest, table =>
    let ea := table + 8 * (va / 2 ^ sh % (if sh = 16 then 32 else 512))
    let e := s.memDw ea
    let s := if isCarved ea then s else s.l2Access (dieOfPlate s.plate.id) (ea / 128) 0 false 0
    if bitOf e 0 = false ∨ bitOf e 1 = true then s else s.walkTouch va rest (bitsOf e 46 12 * 4096)

/-- The set of the die TLB that holds a page: its page number modulo 2,048 (R257). Log entry 27 (DESIGN CHOICE). -/
def TlbEnt.set (e : TlbEnt) : Nat := e.va / e.size % 2048

/-- Put a page into the die TLB: 2,048 sets of 8 ways, the oldest of a full set leaves (R257). Log entry 27 (DESIGN CHOICE). -/
def tlbInsert (l : List TlbEnt) (e : TlbEnt) : List TlbEnt :=
  let kept := (l.filter (fun u => u.set == e.set)).take 7
  e :: l.filter (fun u => !(u.set == e.set) || kept.contains u)

/-- A held translation of an address. Log entry 27 (DESIGN CHOICE). -/
def tlbFind (l : List TlbEnt) (asid : BitVec 12) (va : Nat) : Option TlbEnt :=
  l.find? (fun e => e.asid == asid && decide (e.va ≤ va) && decide (va < e.va + e.size))

/-- Where an entry sends an address; PAGE when it points into a reserved range (R251, R256). -/
def TlbEnt.target (e : TlbEnt) (va : Nat) : Except Cause Xlat :=
  let pa := bitsOf e.pte 46 12 * 4096 + (va - e.va)
  if placeOf pa = .reserved then .error .page
  else .ok { pa := pa, typ := BitVec.ofNat 2 (bitsOf e.pte 7 6), region := bitsOf e.pte 63 56, asid := e.asid,
             vpage := e.va, size := e.size, pte := e.pte }

/-- Translate an address for a plate: its TLB, the die's, else a walk that fills both (R254, R257).
Log entry 27 (DESIGN CHOICE). -/
def State.xlate (s : State) (asid : BitVec 12) (root : Word) (va : Nat) : Except Cause (State × Xlat) :=
  let d := dieOfPlate s.plate.id
  if 2 ^ 57 ≤ va then .error .page
  else match tlbFind s.plate.tlb asid va with
    | some e => (e.target va).map (fun x => (s, x))
    | none =>
      let fill (s : State) (e : TlbEnt) : State := s.mplate (fun p => { p with tlb := (e :: p.tlb).take 64 })
      match tlbFind (s.die d).tlb asid va with
      | some e => (e.target va).map (fun x => (fill s e, x))
      | none =>
        match s.walk va [48, 39, 30, 21, 16] (bitsOf root 46 12 * 4096) with
        | .error c => .error c
        | .ok (pte, size) =>
          let s := s.walkTouch va [48, 39, 30, 21, 16] (bitsOf root 46 12 * 4096)
          let e : TlbEnt := { asid := asid, va := va / size * size, size := size, pte := pte }
          (e.target va).map (fun x => (fill (s.mdie d (fun t => { t with tlb := tlbInsert t.tlb e })) e, x))

/-- The permission check of an access (R256): true when it raises PROT. -/
def Xlat.forbids (x : Xlat) (u : Bool) (a : Acc) : Bool :=
  let r := bitOf x.pte 2
  let w := bitOf x.pte 3
  (match a with | .load => !r | .store => !w | .atomic => !(r && w) | .fetch => !(bitOf x.pte 4)) ||
    (u && !(bitOf x.pte 5))

/-- The scratchpad window (R117). -/
def winBase : Nat := 0x00FFFFFFFFE00000
def inWindow (va : Nat) : Bool := decide (winBase ≤ va) && decide (va < 0x0100000000000000)

/-- Reserved granules of the context (SPRES, R271). -/
def Ctx.spres (c : Ctx) : Nat := c.task.spg

/-- A part of an access within one 64 KiB block: window bytes of the reservation, or memory. -/
inductive Target where
  | win (off : Nat)
  | mem (x : Xlat)
  deriving DecidableEq, Repr

structure Piece where
  va  : Nat
  len : Nat
  tgt : Target
  deriving DecidableEq, Repr

/-- A fault of an access: its cause and the first failing byte (R118). -/
abbrev Flt := Cause × Word

/-- Split [va, va + n) at 64 KiB boundaries: every page size is a multiple of 64 KiB. -/
def splitRange (va n : Nat) : List (Nat × Nat) :=
  let first := 65536 - va % 65536
  if n ≤ first then [(va, n)] else [(va, first), (va + first, n - first)]

/-- Resolve one part (PAGE). -/
def State.resolvePart (s : State) (va n : Nat) : Except Flt (State × Piece) :=
  if inWindow va then
    (if va - winBase < s.ctx.spres * 65536 then .ok (s, { va := va, len := n, tgt := .win (va - winBase) })
     else .error (.page, BitVec.ofNat 64 va))
  else match s.xlate s.ctx.space.asid s.ctx.space.root va with
    | .error c => .error (c, BitVec.ofNat 64 va)
    | .ok (s, x) => .ok (s, { va := va, len := n, tgt := .mem x })

/-- Resolve the parts in ascending address. -/
def State.resolveParts (s : State) : List (Nat × Nat) → Except Flt (State × List Piece)
  | [] => .ok (s, [])
  | (va, n) :: rest =>
    match s.resolvePart va n with
    | .error f => .error f
    | .ok (s, p) =>
      match s.resolveParts rest with
      | .error f => .error f
      | .ok (s, ps) => .ok (s, p :: ps)

/-- The first byte of n physical bytes at or beyond what a carved or second-tier window holds, counted from pa (R248, R253). -/
def State.beyond (s : State) (pa n : Nat) : Option Nat :=
  let past (lim off : Nat) : Option Nat := if lim < off + n then some (lim - off) else none
  match placeOf pa with
  | .carved d off => past ((s.die d).carve * 0x800000) off
  | .cxl port => past (Config.cxlCapacity port) ((pa - 0x200000000000) % 0x40000000000)
  | _ => none

/-- The 64-byte unit of a physical address is poisoned, at home or in the copy of the plate in focus (R358). -/
def State.unitPoisoned (s : State) (u : Nat) : Bool :=
  s.poisoned (u * 64) || (match s.plate.l1Find (u / 2) with
    | some l => l.poison.getLsbD (u % 2)
    | none => false)

/-- The smallest of some numbers. -/
def leastOf (l : List Nat) : Option Nat := l.foldl (fun b n => match b with | none => some n | some m => some (min m n)) none

/-- The first byte of a part, by its place in it, that cannot be accessed, or that holds an error and is read: beyond what a
window holds, in a scratchpad word with an error, or in a poisoned unit, where the part's first byte stands for the read
(R118, R248, R253, R357, R358); `w` for a write. Log entry 33 (DESIGN CHOICE). -/
def State.eccAt (s : State) (p : Piece) (w : Bool) : Option Nat :=
  match p.tgt with
  | .win off =>
    if w then none
    else leastOf (s.bad.filterMap (fun b => match b with
      | .scratchpad id o =>
        if id == s.ctx.id && decide (off / 4 ≤ o / 4) && decide (o / 4 ≤ (off + p.len - 1) / 4) then some (o / 4 * 4 - off) else none
      | _ => none))
  | .mem x =>
    let units := (List.range (p.len / 64 + 2)).any (fun i =>
      decide ((x.pa / 64 + i) * 64 < x.pa + p.len) && s.unitPoisoned (x.pa / 64 + i))
    if !w && units then some 0 else s.beyond x.pa p.len

/-- An access beyond what a window holds, or of data with an error, raises ECC_UNCORR (R248, R253, R357, R358). -/
def State.eccFault (s : State) (p : Piece) (w : Bool) : Bool := (s.eccAt p w).isSome

/-- The retention status window takes no store (R237). -/
def Piece.readOnly (p : Piece) : Bool :=
  match p.tgt with
  | .mem x => (match placeOf x.pa with | .retn _ _ => true | _ => false)
  | .win _ => false

/-- Resolve an access in the order of R118: translation and admission (PAGE), protection (PROT), data (ECC_UNCORR).
`admits` says which targets the word may use at all. -/
def State.resolve (s : State) (va n : Nat) (a : Acc) (admits : Target → Bool) : Except Flt (State × List Piece) :=
  match s.resolveParts (splitRange va n) with
  | .error f => .error f
  | .ok (s, ps) =>
    match ps.find? (fun p => !(admits p.tgt)) with
    | some p => .error (.page, BitVec.ofNat 64 p.va)
    | none =>
      let write := a == .store || a == .atomic
      match ps.find? (fun p => (match p.tgt with | .mem x => x.forbids (s.ctx.space.priv == .u) a | .win _ => false) ||
          (write && p.readOnly)) with
      | some p => .error (.prot, BitVec.ofNat 64 p.va)
      | none =>
        match ps.findSome? (fun p => (s.eccAt p (a == .store)).map (fun i => p.va + i)) with
        | some va => .error (.eccUncorr, BitVec.ofNat 64 va)
        | none => .ok (s, ps)

/-! ### Reads and writes of resolved parts -/

/-- A refill of a line from the die's L2: it keeps its dirty bytes and takes every other byte, its stamp is the die's
mirror (R123, R282, R287). -/
def State.l1Refill (s : State) (x : Xlat) (line rh : Nat) : State :=
  let d := dieOfPlate s.plate.id
  let swm := x.typ == 1
  let s := s.l2Access d line rh swm x.region
  let data := s.l2Line d line swm
  s.l1Update line (fun l => { l with data := lineMerge data l.data l.dirty, stamp := s.mirror d (s.effRegion l.region),
                                     marked := false, markAt := 0 })

/-- Bring an absent line into the L1 (R244). -/
def State.l1Fill (s : State) (x : Xlat) (line rh : Nat) : State :=
  let d := dieOfPlate s.plate.id
  let swm := x.typ == 1
  let s := s.l2Access d line rh swm x.region
  s.l1Insert { line := line, data := s.l2Line d line swm, dirty := 0, stamp := s.mirror d (s.effRegion x.region),
               marked := false, markAt := 0, region := x.region, asid := x.asid, vpage := x.vpage, vsize := x.size, typ := x.typ, way := 0,
               poison := 0, tags := [] } (rh == 1)

/-- A line's mark makes a read refill it; one made after a command's stamp makes that command's reads do nothing (R119, R279). -/
def State.markedFor (s : State) (l : L1Line) : Bool :=
  l.marked && (match s.ctx.latched with | some b => decide (l.markAt ≤ b.upTo) | none => true)

/-- A line may serve a load of bound sb (R123). SWM lines serve any load (R294). -/
def State.serves (s : State) (l : L1Line) (sb : Nat) : Bool :=
  let diff := (s.ctx.viewOf (s.effRegion l.region) - l.stamp).toNat
  l.typ == 1 || sb == 15 || (!(s.markedFor l) && decide ((if 0x8000 ≤ diff then 0 else diff) ≤ sb))

/-- How a read ended: the state, the value, whether every line was found; or the address of a copy that waits for a
push (R290). -/
inductive Got where
  | val (s : State) (v : Nat) (hit : Bool)
  | wait (line : Nat)

/-- Read part of one cached line under a bound and a hint (R122 to R124). -/
def State.readLine (s : State) (x : Xlat) (line off n sb rh : Nat) : Got :=
  match s.plate.l1Find line with
  | some l =>
    let touch (s : State) : State := if rh = 0 ∨ rh = 2 then s.l1Front line else s
    if s.serves l sb then .val (touch s) (lineNat l.data off n) true
    else if s.stallMode l.region then .wait line
    else
      let s := s.l1Refill x line rh
      let v := match s.plate.l1Find line with | some l => lineNat l.data off n | none => 0
      .val (touch s) v false
  | none =>
    let d := dieOfPlate s.plate.id
    let swm := x.typ == 1
    if rh = 3 then
      let s := s.l2Access d line rh swm x.region
      .val s (lineNat (s.l2Line d line swm) off n) false
    else
      let s := s.l1Fill x line rh
      .val s (lineNat (s.l2Line d line swm) off n) false

/-- A doubleword of the retention status window (R237). -/
def Die.statusDw (t : Die) (off : Nat) : Word :=
  let r := t.retnOf (off / 64)
  if 0x200 ≤ off then 0
  else match off / 8 % 8 with
    | 0 => BitVec.ofNat 64 (if r.v then 1 + r.ways * 16 else 0)
    | 1 => BitVec.ofNat 64 (if r.v then (r.hi - r.lo) / 128 else 0)
    | 2 => r.hits
    | 3 => r.misses
    | 4 => r.fills
    | 5 => r.evicts
    | _ => 0

/-- n bytes of the status windows from a physical address on, which may pass from one die's to the next (R237, R251). -/
def State.statusNat (s : State) (pa n : Nat) : Nat :=
  ofBytes ((List.range n).map (fun i => match placeOf (pa + i) with
    | .retn d off => BitVec.ofNat 8 (((s.die d).statusDw off).toNat / 256 ^ (off % 8))
    | _ => 0))

/-- n bytes at a physical address as an agent beyond the plates reads them: a status window gives its counts (R237). -/
def State.physNat (s : State) (pa n : Nat) : Nat :=
  match placeOf pa with
  | .retn _ _ => s.statusNat pa n
  | _ => s.memNat pa n

/-- The memory a read of a record meets: the stores on their way to the governor performed in arrival order (R224, R282). -/
def State.afterRecords (s : State) : State :=
  s.recStores.foldl (fun t e => t.rawBytes e.1 (toBytes e.2.1 e.2.2.1.toNat)) s

/-- Read the cached lines of a range in ascending order. -/
def State.readLines (s : State) (x : Xlat) (sb rh : Nat) : List (Nat × Nat × Nat × Nat) → Got
  | [] => .val s 0 true
  | (line, off, n, at_) :: rest =>
    match s.readLine x line off n sb rh with
    | .wait l => .wait l
    | .val s v hit =>
      match s.readLines x sb rh rest with
      | .wait l => .wait l
      | .val s w h => .val s (v * 256 ^ at_ + w) (hit && h)

/-- Bytes of a table by offset as a number. -/
def spadNat (m : SMap Byte) (off n : Nat) : Nat := ofBytes ((List.range n).map (fun i => SMap.get 0 m (off + i)))

/-- Read a resolved part (R117, R250, R294). -/
def State.readPiece (s : State) (p : Piece) (sb rh : Nat) : Got :=
  match p.tgt with
  | .win off => .val s (spadNat s.ctx.spad off p.len) true
  | .mem x =>
    match placeOf x.pa with
    | .carved _ _ =>
      let s := s.settle (dieOfPlate s.plate.id) (spanLine x.pa p.len)
      .val s (s.memNat x.pa p.len) false
    | .retn _ _ => .val s (s.statusNat x.pa p.len) false
    | _ =>
      if x.typ = 2 then .val s (s.memNat x.pa p.len) false
      else if x.typ = 3 then .val s (s.afterRecords.memNat x.pa p.len) false
      else s.readLines x sb rh (linesOf x.pa p.len)

/-- Read resolved parts as one number. -/
def State.readPieces (s : State) (sb rh : Nat) : List Piece → Got
  | [] => .val s 0 true
  | p :: ps =>
    match s.readPiece p sb rh with
    | .wait l => .wait l
    | .val s v hit =>
      match s.readPieces sb rh ps with
      | .wait l => .wait l
      | .val s w h => .val s (v + w * 256 ^ p.len) (hit && h)

/-- Who makes a line dirty: the context, the issuing strand or an engine, and its count (R119).
Log entry 4 (DESIGN CHOICE). -/
def State.writerTag (s : State) (engine : Bool) : Nat × Nat × Nat :=
  if engine then (s.ctx.id.toNat, 4, s.ctx.ecount + 1) else (s.ctx.id.toNat, s.ctx.cur.num, s.now)

/-- Add a writer to a line's list unless it already stands there. -/
def addTag (l : List (Nat × Nat × Nat)) (t : Nat × Nat × Nat) : List (Nat × Nat × Nat) :=
  if l.any (fun e => e.1 == t.1 && e.2.1 == t.2.1) then l else l ++ [t]

/-- Write part of one cached line under a hint: into the L1, allocating unless the hint forbids, else to the L2 (R122, R245). -/
def State.writeLine (s : State) (x : Xlat) (line off n v rh : Nat) (engine : Bool) : State :=
  let d := dieOfPlate s.plate.id
  let swm := x.typ == 1
  let tag := s.writerTag engine
  let store (s : State) : State := s.l1Update line (fun l =>
    { l with data := lineSet l.data off n v, dirty := l.dirty ||| maskOf off n, tags := addTag l.tags tag,
             others := l.stored x.region (maskOf off n) })
  match s.plate.l1Find line with
  | some _ => store (if rh = 0 ∨ rh = 2 then s.l1Front line else s)
  | none =>
    let direct (s : State) : State :=
      if swm then s.l2Merge d line x.region (lineSet 0 off n v) (maskOf off n) [tag]
      else s.homeWrite s.plate.id x.region (line * 128 + off) n v
    if rh = 3 then direct (s.l2Access d line rh swm x.region)
    else
      let s := s.l1Fill x line rh
      if (s.plate.l1Find line).isSome then store s else direct s

/-- Write the cached lines of a range. -/
def State.writeLines (s : State) (x : Xlat) (v rh : Nat) (engine : Bool) : List (Nat × Nat × Nat × Nat) → State
  | [] => s
  | (line, off, n, at_) :: rest =>
    (s.writeLine x line off n (v / 256 ^ at_ % 256 ^ n) rh engine).writeLines x v rh engine rest

/-- Write a resolved part (R117, R245, R250, R294); a store to the scratchpad leaves its rows without a tag (R166). A store to a record goes to its governor (R224). -/
def State.writePiece (s : State) (p : Piece) (v rh : Nat) (engine : Bool) : State :=
  match p.tgt with
  | .win off =>
    let s := s.mctx (fun c => { c with
      spad := writeBytes c.spad off (toBytes p.len v),
      tags := (List.range ((off % 4096 + p.len + 4095) / 4096)).foldl (fun m i => SMap.set none m (off / 4096 + i) none) c.tags })
    { s with bad := s.bad.filter (fun b => match b with
      | .scratchpad id o => !(id == s.ctx.id && decide (off ≤ o / 4 * 4) && decide (o / 4 * 4 + 4 ≤ off + p.len))
      | _ => true) }
  | .mem x =>
    if isCarved x.pa then s.homeWrite s.plate.id x.region x.pa p.len v
    else if x.typ = 2 then (s.rawBytes x.pa (toBytes p.len v)).notePush x.region (x.pa / 128)
    else if x.typ = 3 then
      { s with recStores := s.recStores ++ (List.range ((p.len + 7) / 8)).map (fun i =>
          (x.pa + 8 * i, min 8 (p.len - 8 * i), BitVec.ofNat 64 (v / 256 ^ (8 * i)), s.fresh)) }
    else s.writeLines x v rh engine (linesOf x.pa p.len)

/-- Write resolved parts. -/
def State.writePieces (s : State) (v rh : Nat) (engine : Bool) : List Piece → State
  | [] => s
  | p :: ps => (s.writePiece p (v % 256 ^ p.len) rh engine).writePieces (v / 256 ^ p.len) rh engine ps

/-- mem_read (R73): resolve, then read under a bound and a hint. A copy that must wait for a push answers `wait` (R290). -/
def State.memRead (s : State) (va n sb rh : Nat) (admits : Target → Bool) : Except Flt Got :=
  match s.resolve va n .load admits with
  | .error f => .error f
  | .ok (s, ps) => .ok (s.readPieces sb rh ps)

/-- mem_write (R73). -/
def State.memWrite (s : State) (va n v rh : Nat) (engine : Bool) (admits : Target → Bool) : Except Flt State :=
  match s.resolve va n .store admits with
  | .error f => .error f
  | .ok (s, ps) => .ok (s.writePieces v rh engine ps)

/-- Any target is admitted. -/
def anyTarget (_ : Target) : Bool := true

/-! ### Release and acquire (R119, R245) -/

/-- A writer's stores belong to the release set of a strand that has seen clock `clk` (R119). -/
def inRelease (id : BitVec 32) (k : Strand) (now : Nat) (clk : Clock) (t : Nat × Nat × Nat) : Bool :=
  t.1 == id.toNat &&
    (if t.2.1 = 4 then decide (t.2.2 ≤ clk.e) else if t.2.1 = k.num then decide (t.2.2 ≤ now)
     else decide (t.2.2 ≤ clk.of (Strand.ofNum t.2.1)))

/-- A set of writers as a release knows it. -/
abbrev RelSet := Nat × Nat × Nat → Bool

/-- The release set of the issuing strand's word. -/
def State.relSet (s : State) : RelSet :=
  inRelease s.ctx.id s.ctx.cur s.now (s.strand s.ctx.cur).clk

/-- Write back every dirty line of the plate that holds a byte of the set; the lines stay valid and clean (R245). -/
def State.wbLines (s : State) (set : RelSet) : List L1Line → State
  | [] => s
  | l :: ls =>
    (if l.dirty ≠ 0 ∧ l.tags.any set = true then
      (s.writeBack s.plate.id l).l1Update l.line (fun e => { e with dirty := 0, tags := [], poison := 0, others := [] })
     else s).wbLines set ls

/-- SWM bytes of the set leave the die's L2 for home memory (R245, R294). -/
def State.swmHome (s : State) (d : Nat) (set : RelSet) : List L2Line → State
  | [] => s
  | e :: es =>
    (if e.swm ∧ e.dirty ≠ 0 ∧ e.tags.any set = true then
      (s.rawMask e.line e.data e.dirty).mdie d (fun t => { t with
        l2 := t.l2.map (fun u => if u.line == e.line && u.swm then { u with dirty := 0, tags := [] } else u) })
     else s).swmHome d set es

/-- release(scope) of a set of writers: nothing to do at plate scope, where stores are already performed (R119).
Log entry 16 (DESIGN CHOICE). -/
def State.releaseSet (s : State) (scope : Nat) (set : RelSet) : State :=
  if scope = 0 then s
  else
    let d := dieOfPlate s.plate.id
    let s := (s.wbLines set s.plate.l1).settle d (fun _ => true)
    if scope = 1 then s else s.swmHome d set (s.die d).l2

/-- release(scope) of the issuing word (R119). -/
def State.release (s : State) (scope : Nat) : State := s.releaseSet scope s.relSet

/-- acquire(scope) (R119): the views take the newer of view and mirror, and COH lines whose stamp equals the refreshed
view are marked. Log entry 36 (DEDUCED). -/
def State.acquire (s : State) (scope : Nat) : State :=
  if scope = 0 then s
  else
    let d := dieOfPlate s.plate.id
    let keys := ((s.die d).mirror.map (fun e => e.1)) ++ (s.ctx.view.map (fun e => e.1))
    let view := keys.foldl (fun m r => SMap.set 0 m r (newer (SMap.get 0 m r) (s.mirror d r))) s.ctx.view
    let s := s.mctx (fun c => { c with view := view })
    s.mplate (fun p => { p with l1 := p.l1.map (fun l =>
      if l.typ == 0 && !l.marked && l.stamp == s.ctx.viewOf (s.effRegion l.region) then { l with marked := true, markAt := s.fresh }
      else l) })

/-! ### Rounds (R287) -/

/-- Write back and drop the lines of a plate that a test picks. -/
def State.flushPlate (s : State) (p : Plate) (pick : L1Line → Bool) : State :=
  let s := ((p.l1.filter pick).foldl (fun t l => t.writeBack p.id l) s).settle (dieOfPlate p.id) (fun _ => true)
  s.putPlate { (s.plateOf p.id) with l1 := (s.plateOf p.id).l1.filter (fun l => !(pick l)) }

/-- Write back and drop lines on every plate. -/
def State.flushAll (s : State) (pick : Nat → L1Line → Bool) : State :=
  s.allPlates.foldl (fun t p => t.flushPlate (t.plateOf p.id) (pick p.id)) s

/-- The home adds 1 to a region's round: every mirror takes it, the same-round records of the region clear, a STALL
region sends its push, and stale lines are dropped (R287, R290, R292). -/
def State.advanceRound (s : State) (r : Nat) : State :=
  let g := s.region r
  let n := g.round + 1
  let s := s.putRegion r { g with round := n, pushes := [] }
  let s := { s with dies := s.dies.map (fun (t : Die) => { t with mirror := SMap.set 0 t.mirror r n }),
                    writers := s.writers.filter (fun e => !(e.2 / 1024 == r)),
                    pushes := if s.stallMode r then s.pushes ++ [(r, n, g.pushes)] else s.pushes }
  s.flushAll (fun _ l => l.typ == 0 && s.effRegion l.region == r && decide (0x4000 ≤ (n - l.stamp).toNat) &&
    decide ((n - l.stamp).toNat < 0x8000))

end Sys2Proof.Machine
end

