-- ==== Sys2Proof/Machine/Domain.lean ====
section
/-! DEFINITION. Domains and their barrier-tree nodes: arrivals, withdrawals, joins and completed boundaries (R195 to
R198, R305 to R307). -/

namespace Sys2Proof.Machine

/-- A domain that exists. -/
def State.domain (s : State) (d : BitVec 10) : Option Domain := SMap.get none s.domains d.toNat

/-- Store a domain. -/
def State.putDomain (s : State) (d : BitVec 10) (v : Domain) : State :=
  { s with domains := SMap.set none s.domains d.toNat (some v) }

/-! ### The barrier tree over the links (R301, R302, R305) -/

/-- This device's identifier. -/
def State.devId (s : State) : BitVec 12 := s.devid.getD 0

/-- An Amibuley port. -/
def State.portOf (s : State) (p : Nat) : Port := SMap.get Port.init s.ports p

/-- Change a port. -/
def State.mport (s : State) (p : Nat) (f : Port → Port) : State :=
  { s with ports := SMap.set Port.init s.ports p (f (s.portOf p)) }

/-- Header bits [95:0] of a flit (R302). -/
def headerOf (f : Flit) : Nat :=
  f.vc.toNat + f.kind.toNat * 2 ^ 2 + f.gen.toNat * 2 ^ 5 + f.last.toNat * 2 ^ 6 + f.rop.toNat * 2 ^ 7 + f.len.toNat * 2 ^ 8 +
    f.srcdev.toNat * 2 ^ 16 + f.dstdev.toNat * 2 ^ 28 + f.seq.toNat * 2 ^ 40 + f.fmt.toNat * 2 ^ 48 + f.fae.toNat * 2 ^ 52 +
    f.off.toNat * 2 ^ 64

/-- One bit into a CRC-32 of polynomial 0x04C1_1DB7 (R302). -/
def linkCrcBit (c : BitVec 32) (b : Bool) : BitVec 32 := if c.msb == b then c <<< 1 else (c <<< 1) ^^^ 0x04C11DB7

/-- One byte into it, its most significant bit first. -/
def linkCrcByte (c : BitVec 32) (b : Byte) : BitVec 32 := [7, 6, 5, 4, 3, 2, 1, 0].foldl (fun c i => linkCrcBit c (b.getLsbD i)) c

/-- The CRC of a flit over its header bits [95:0] and 240 payload bytes (R302). Log entry 62 (DESIGN CHOICE). -/
def crcOf (f : Flit) : BitVec 32 :=
  ((toBytes 12 (headerOf f) ++ f.payload ++ List.replicate (240 - f.payload.length) 0).foldl linkCrcByte Config.crcStart) ^^^ Config.crcFinal

/-- A flit as it leaves a port: the next sequence number, its CRC; the port keeps its last 64 (R302). -/
def Port.emit (p : Port) (f : Flit) : Port :=
  let g := { f with seq := p.txSeq }
  let g := { g with crc := crcOf g }
  { p with txSeq := p.txSeq + 1, out := p.out ++ [g], replay := keepLast 64 (p.replay ++ [g]) }

/-- A port takes a flit; one of a channel that STOP holds waits, in order (R301). -/
def Port.give (p : Port) (f : Flit) : Port :=
  let v := f.vc.toNat
  if p.down then p
  else if p.stopped.getLsbD v ∨ (p.wait.get v).isEmpty = false then { p with wait := p.wait.set v (p.wait.get v ++ [f]) }
  else p.emit f

/-- Send a flit to another device; a port that is down takes none (R301, R302). Log entry 47 (DESIGN CHOICE). -/
def State.sendFlit (s : State) (f : Flit) : State := s.mport (Config.portOf f.dstdev).toNat (fun p => p.give f)

/-- A control flit (R302, R305). -/
def State.treeFlit (s : State) (dev : BitVec 12) (m : TreeMsg) : Flit :=
  let bs := Config.treeBytes m
  { crc := 0, off := 0, fae := 0, fmt := 0, seq := 0, dstdev := dev, srcdev := s.devId, len := BitVec.ofNat 8 bs.length,
    rop := false, last := true, gen := false, kind := 5, vc := 0, payload := bs }

/-- Tell a domain's root, when it stands on another device (R305). -/
def State.tellRoot (s : State) (v : Domain) (m : TreeMsg) : State :=
  if v.rootDev = s.devId then s else s.sendFlit (s.treeFlit v.rootDev m)

/-- Tell every other device that holds a member (R305). -/
def State.tellMembers (s : State) (v : Domain) (m : TreeMsg) : State :=
  ((v.far.map (fun e => e.1)).eraseDups).foldl (fun t dev => t.sendFlit (t.treeFlit dev m)) s

/-- The PLATEID of a context that exists. -/
def State.plateNo (s : State) (id : BitVec 32) : BitVec 9 :=
  match s.ctxOf id with
  | some c => BitVec.ofNat 9 c.plate
  | none => 0

/-- DMR fields (R195). -/
def Csrs.dmrV (c : Csrs) : Bool := bitOf c.dmr 15
def Csrs.dmrArr (c : Csrs) : Bool := bitOf c.dmr 14
def Csrs.dmrDom (c : Csrs) : BitVec 10 := BitVec.ofNat 10 (bitsOf c.dmr 9 0)

/-- DMR of a member that has not arrived (R197). -/
def dmrOf (level : Nat) (d : BitVec 10) : Word := BitVec.ofNat 64 (2 ^ 15 + level * 2 ^ 10 + d.toNat)

/-- The same context of the same device, which a move to another plate leaves it (R307). -/
def sameWho (a b : Rank) : Bool := a.1 == b.1 && a.2.2 == b.2.2

/-- A domain holds members. -/
def Domain.holds (v : Domain) : Bool := !v.members.isEmpty || !v.far.isEmpty

/-- Child domains of a domain that hold members: those rooted on this device, and those it has been told of (R306). -/
def State.liveKids (s : State) (d : BitVec 10) : List (BitVec 10) :=
  s.domains.filterMap (fun e => match e.2 with
    | some k => if k.parent = some d ∧ k.rootDev = s.devId ∧ k.holds = true then some (BitVec.ofNat 10 e.1) else none
    | none => none) ++
  (match s.domain d with
    | some v => v.farKids
    | none => [])

/-- The domain's arrivals equal its expected count, or its last member left with the boundary in progress (R196, R198). -/
def State.boundaryDue (s : State) (d : BitVec 10) : Bool :=
  match s.domain d with
  | none => false
  | some v =>
    v.rootDev == s.devId && (v.due || ((!v.members.isEmpty || !v.far.isEmpty || !(s.liveKids d).isEmpty) &&
      v.members.all (fun m => v.arrived.contains m) && v.far.all (fun m => v.farIn.any (sameWho m)) &&
      (s.liveKids d).all (fun k => v.kids.contains k)))

/-- Count an arrival (R196). -/
def State.arrive (s : State) (d : BitVec 10) (id : BitVec 32) : State :=
  match s.domain d with
  | none => s
  | some v => (s.putDomain d { v with arrived := v.arrived ++ [id] }).tellRoot v (.arrive d s.devId (s.plateNo id) id)

/-- A MEMBER entry of a join (1) or a withdrawal (0) (R339). Log entry 25 (DESIGN CHOICE). -/
def State.memberEntry (s : State) (die : Nat) (id : BitVec 32) (d : BitVec 10) (joined : Bool) : State :=
  s.journal die 6 2 0 (BitVec.ofNat 64 id.toNat) 0 [BitVec.ofNat 64 d.toNat, wordOfBool joined, 0, 0]

/-- A participant that leaves a group before it has contributed to a collective is removed from it (R311). -/
def Collective.leave (c : Collective) (d : BitVec 10) (id : BitVec 32) : Collective :=
  if c.group = d ∧ c.parts.contains id = true ∧ c.shares.any (fun h => h.ctx == id && h.src.isSome) = false then
    { c with parts := c.parts.filter (fun x => !(x == id)), shares := c.shares.filter (fun h => !(h.ctx == id)), withdrawn := true }
  else c

/-- A participant on another device that is no longer a member leaves a collective of the domain; a contribution already made
stands (R311). -/
def Collective.keepFar (c : Collective) (d : BitVec 10) (far : List Rank) (had : Rank → Bool) : Collective :=
  let kept := c.far.filter (fun e => had e || far.any (sameWho e))
  if c.group = d ∧ c.past = false ∧ kept ≠ c.far then { c with far := kept, withdrawn := true } else c

/-- Participants on other devices leave the collectives of a domain with their membership (R311). -/
def State.keepFars (s : State) (d : BitVec 10) (far : List Rank) : State :=
  { s with colls := s.colls.map (fun (c : Collective) =>
      c.keepFar d far (fun u => s.farShares.any (fun h => h.group == c.group && h.key == c.seq.toNat && h.who == u))) }

/-- The members of a domain on every device, as this device knows them (R305, R307). -/
def State.roster (s : State) (v : Domain) : List (BitVec 12 × BitVec 9 × BitVec 32) :=
  v.members.map (fun id => (s.devId, s.plateNo id, id)) ++ v.far

/-- The root tells every other device with a member who the members are (R305, R307). -/
def State.tellRoster (s : State) (d : BitVec 10) (force : Bool) : State :=
  match s.domain d with
  | some v => if v.rootDev = s.devId then s.tellMembers v (.roster d force (s.roster v)) else s
  | none => s

/-- The boundary in progress of a domain left without members and live children completes (R198). -/
def State.dueIfEmpty (s : State) (d : BitVec 10) : State :=
  match s.domain d with
  | some v => s.putDomain d { v with due := v.due || (!v.holds && (s.liveKids d).isEmpty) }
  | none => s

/-- A child that has begun or ceased to hold members joins its parent's expected count, or withdraws from its parent as a context
does (R198, R306). -/
def State.kidChange (s : State) (d : BitVec 10) (was : Bool) : State :=
  match s.domain d with
  | none => s
  | some v =>
    match v.parent with
    | none => s
    | some p =>
      if v.rootDev ≠ s.devId ∨ v.holds = was then s
      else match s.domain p with
        | none => s
        | some w =>
          if w.rootDev ≠ s.devId then s.sendFlit (s.treeFlit w.rootDev (.kid p d (if v.holds then 1 else 0)))
          else if v.holds then s else s.dueIfEmpty p

/-- The domain of the context in focus: the one of DMR, or the one it waits to join (R195, R197). -/
def Ctx.inDomain (c : Ctx) : Option (BitVec 10) := if c.csr.dmrV then some c.csr.dmrDom else c.joining

/-- Withdraw the context in focus from its domain: an arrival it has counted stands; a domain left without members and without
live children completes its boundary (R198). DMR and PHCNT become 0. A join still pending is dropped; one that its node has
counted is a membership (R197, R363). -/
def State.withdraw (s : State) : State :=
  match s.ctx.inDomain with
  | none => s
  | some d =>
    let id := s.ctx.id
    let out := s.mctx (fun c => { c with joining := none, csr := { c.csr with dmr := 0, phcnt := 0 } })
    match s.domain d with
    | none => out
    | some v =>
      let tell (t : State) : State := t.tellRoot v (.withdraw d s.devId (s.plateNo id) id)
      if v.members.contains id then
        let t := out.putDomain d { v with members := v.members.filter (fun m => !(m == id)) }
        let t := ((tell (if v.rootDev = s.devId then t.dueIfEmpty d else t)).kidChange d v.holds).tellRoster d false
        ({ t with colls := t.colls.map (fun (c : Collective) => c.leave d id) }).memberEntry s.ctx.die id d false
      else tell (out.putDomain d { v with joins := v.joins.filter (fun x => !(x == id)) })

/-- A fabric address entry (R303). -/
def State.fatOf (s : State) (e : Nat) : Fat :=
  SMap.get { cur := false, arm := false, fwd := false, flipdom := 0, map0 := 0, len0 := 0, map1 := 0, len1 := 0,
             marks := [] } s.fat e

/-- Store a fabric address entry. -/
def State.putFat (s : State) (e : Nat) (v : Fat) : State :=
  { s with fat := SMap.set { cur := false, arm := false, fwd := false, flipdom := 0, map0 := 0, len0 := 0, map1 := 0,
                             len1 := 0, marks := [] } s.fat e v }

/-- The map of a generation of an entry, and its window's length in bytes; 0 stands for 4 GiB (R303). -/
def Fat.map (f : Fat) (gen : Bool) : Word := if gen then f.map1 else f.map0
def Fat.len (f : Fat) (gen : Bool) : Nat :=
  let n := bitsOf (if gen then f.len1 else f.len0) 19 0
  if n = 0 then 2 ^ 32 else n * 4096

/-- The target device of a generation. -/
def Fat.dev (f : Fat) (gen : Bool) : BitVec 12 := BitVec.ofNat 12 (bitsOf (f.map gen) 12 1)

/-- Devices of a domain other than this one. -/
def State.domainDevs (s : State) (d : BitVec 10) : List (BitVec 12) :=
  match s.domain d with
  | some v => (v.far.map (fun e => e.1)).eraseDups
  | none => []

/-- The devices that hold members of a domain, this one among them (R304, R305). -/
def State.allDevs (s : State) (d : BitVec 10) : List (BitVec 12) :=
  match s.domain d with
  | some v => (if v.members.isEmpty then [] else [s.devId]) ++ s.domainDevs d
  | none => []

/-- The generation that a remapped entry is coming to (R304). -/
def Fat.nextGen (f : Fat) : Bool := if f.fwd then f.cur else !f.cur

/-- A sender's marker for an entry has reached its new target on a channel (R304). -/
def Fat.mark (f : Fat) (dev : BitVec 12) (vc : BitVec 2) : Fat :=
  { f with marks := if f.marks.contains (dev, vc) then f.marks else f.marks ++ [(dev, vc)] }

/-- Writes of a sender's new generation wait at the new target: an entry is being remapped to this device, and the sender's marker
on the channel has not come (R304). -/
def State.unmarked (s : State) (k : Nat) (dev : BitVec 12) (vc : BitVec 2) : Bool :=
  let f := s.fatOf k
  (f.arm || f.fwd) && f.dev f.nextGen == s.devId && (s.allDevs f.flipdom).contains dev && !(f.marks.contains (dev, vc))

/-- The new target holds the marker of every device of FLIPDOM on every channel: FWD and ARM clear throughout (R304). -/
def State.settleFat (s : State) (k : Nat) : State :=
  let f := s.fatOf k
  let devs := s.allDevs f.flipdom
  if f.fwd && f.dev f.cur == s.devId && devs.all (fun d => [0, 1, 2, 3].all (fun v => f.marks.contains (d, v))) then
    (s.domainDevs f.flipdom).foldl (fun t d => t.sendFlit (t.treeFlit d (.settle (BitVec.ofNat 12 k))))
      (s.putFat k { f with arm := false, fwd := false, marks := [] })
  else s

/-- A flip marker for an entry on a channel (R304). -/
def State.markerFlit (s : State) (k : Nat) (dev : BitVec 12) (vc : BitVec 2) (cur : Bool) : Flit :=
  { crc := 0, off := 0, fae := BitVec.ofNat 12 k, fmt := 0, seq := 0, dstdev := dev, srcdev := s.devId, len := 0,
    rop := false, last := true, gen := cur, kind := 6, vc := vc, payload := [] }

/-- This device's marker for an entry it has flipped, on one channel: to the old target, which passes it on; where this device is
the old target itself, to the new one; where it is both, it has come (R304). -/
def State.sendMark (s : State) (k : Nat) (old : BitVec 12) (vc : BitVec 2) : State :=
  let f := s.fatOf k
  let new := f.dev f.cur
  if old ≠ s.devId then s.sendFlit (s.markerFlit k old vc f.cur)
  else if new ≠ s.devId then s.sendFlit (s.markerFlit k new vc f.cur)
  else s.putFat k (f.mark s.devId vc)

/-- Entries armed for a domain flip at its boundary, and the device's markers go out on every channel (R304). -/
def State.flipFats (s : State) (d : BitVec 10) : State :=
  (s.fat.map (fun e => e.1)).foldl (fun t k =>
    let f := t.fatOf k
    if f.arm && !f.fwd && f.flipdom == d then
      ([0, 1, 2, 3].foldl (fun (u : State) (v : BitVec 2) => u.sendMark k (f.dev f.cur) v)
        (t.putFat k { f with cur := !f.cur, fwd := true })).settleFat k
    else t) s

/-- The completion of a boundary is sent to every die, which it reaches in a later cycle (R196, R305); a joint child boundary waits
for its parent's (R306). -/
def State.reachDies (s : State) (d : BitVec 10) : State :=
  match s.domain d with
  | none => s
  | some v => s.putDomain d { v with goal := v.count, told := s.cycle, joint := false }

/-- A completion on its way reaches a die: when, is open, but within 2 µs of `told` (R196, R305). Log entry 60 (DESIGN CHOICE). -/
def Domain.arriveAt (v : Domain) (now limit key : Nat) : Domain :=
  let one (d : Nat) (r : Word) : Word :=
    if r = v.goal then r else if Config.freeBit now (key + d) = true ∨ limit ≤ now - v.told then v.goal else r
  { v with reached := ⟨one 0 v.reached.q0, one 1 v.reached.q1, one 2 v.reached.q2, one 3 v.reached.q3⟩ }

/-- Release a joint child: its completion is sent (R306). -/
def State.releaseKid (s : State) (k : BitVec 10) : State :=
  match s.domain k with
  | some w => if w.joint ∧ w.rootDev = s.devId then (s.reachDies k).tellMembers w (.release k) else s
  | none => s

/-- A completed boundary takes effect on this device: the count becomes n, region 0 advances, joins take effect, the members in
force take their ranks, entries flip, and joint children are released with it (R196, R287, R304 to R307). -/
def State.takeBoundary (s : State) (d : BitVec 10) (v : Domain) (n : Word) (joint : Bool) : State :=
  let kidsOf := s.domains.filterMap (fun e => match e.2 with
    | some k => if k.parent = some d then some (BitVec.ofNat 10 e.1) else none
    | none => none)
  let next : Domain := { v with
    count := n, arrived := [], farIn := [], kids := [], due := false, joins := [], farJoin := [],
    members := v.members ++ v.joins, far := v.far ++ v.farJoin, joint := joint }
  let s := s.putDomain d { next with force := s.roster next }
  let s := v.joins.foldl (fun t id => t.memberEntry v.rootDie id d true) s
  let s := (s.advanceRound 0).flipFats d
  kidsOf.foldl State.releaseKid s

/-- Devices that root a child domain with members: they too are told of a parent's completion (R306). -/
def State.kidDevs (s : State) (v : Domain) : List (BitVec 12) :=
  (v.farKids.filterMap (fun k => (s.domain k).map (fun w => w.rootDev))).filter (fun dev => !(v.far.any (fun e => e.1 == dev)))

/-- Complete a domain's boundary at its root: its effects, its arrival at the parent when the count is a multiple of K, and
the completion to every other device with a member (R196, R305, R306). -/
def State.completeBoundary (s : State) (d : BitVec 10) : State :=
  match s.domain d with
  | none => s
  | some v =>
    let n := v.count + 1
    let joint := match v.parent with | some _ => decide (n.toNat % v.k = 0) | none => false
    let all : Domain := { v with far := v.far ++ v.farJoin }
    let s := (s.takeBoundary d v n joint).tellMembers all (if joint then .completeJoint d n else .complete d n)
    let s := ((s.kidDevs all).foldl (fun t dev => t.sendFlit (t.treeFlit dev (.complete d n))) s).kidChange d v.holds
    let s := s.tellRoster d true
    if joint then
      match v.parent with
      | some p => match s.domain p with
        | some w =>
          if w.rootDev = s.devId then s.putDomain p { w with kids := if w.kids.contains d then w.kids else w.kids ++ [d] }
          else s.sendFlit (s.treeFlit w.rootDev (.kid p d 2))
        | none => s
      | none => s
    else s.reachDies d

/-- A domain without members takes a join at once (R197). -/
def State.emptyDomain (s : State) (d : BitVec 10) (v : Domain) : Bool :=
  v.members.isEmpty && v.far.isEmpty && (s.liveKids d).isEmpty && !v.due && v.rootDev == s.devId

/-- Register a join; a domain with no members takes it at once with its count unchanged (R197). -/
def State.registerJoin (s : State) (d : BitVec 10) (id : BitVec 32) : State :=
  match s.domain d with
  | none => s
  | some v =>
    if s.emptyDomain d v then
      ((s.putDomain d { v with
        members := [id], force := [(s.devId, s.plateNo id, id)], goal := v.count,
        reached := Quad.all v.count }).memberEntry v.rootDie id d true).kidChange d false
    else (s.putDomain d { v with joins := v.joins ++ [id] }).tellRoot v (.join d s.devId (s.plateNo id) id)

/-- The join of a context of this device to a domain rooted elsewhere has taken effect at once (R197). -/
def State.joinTaken (s : State) (d : BitVec 10) (v : Domain) (id : BitVec 32) (n : Word) : State :=
  (s.putDomain d { v with
    joins := v.joins.filter (fun x => !(x == id)), members := v.members ++ [id], force := [(s.devId, s.plateNo id, id)],
    count := n, goal := n,
    reached := Quad.all n }).memberEntry v.rootDie id d true

/-- What a child domain rooted elsewhere tells its parent (R198, R306). -/
def State.takeKid (s : State) (p : BitVec 10) (v : Domain) (k : BitVec 10) (what : BitVec 2) : State :=
  let rest := v.farKids.filter (fun x => !(x == k))
  if what = 0 then (s.putDomain p { v with farKids := rest }).dueIfEmpty p
  else if what = 1 then s.putDomain p { v with farKids := rest ++ [k] }
  else s.putDomain p { v with kids := if v.kids.contains k then v.kids else v.kids ++ [k] }

/-- A barrier-tree message of another device (R305). -/
def State.takeTree (s : State) (m : TreeMsg) : State :=
  match m with
  | .arrive d dev plate id => match s.domain d with
    | some v => s.putDomain d { v with farIn := v.farIn ++ [(dev, plate, id)] }
    | none => s
  | .join d dev plate id => match s.domain d with
    | some v =>
      if s.emptyDomain d v then
        let t := (s.putDomain d { v with far := [(dev, plate, id)], force := [(dev, plate, id)] }).kidChange d false
        t.sendFlit (t.treeFlit dev (.taken d dev plate id v.count))
      else s.putDomain d { v with farJoin := v.farJoin ++ [(dev, plate, id)] }
    | none => s
  | .withdraw d dev plate id => match s.domain d with
    | some v =>
      let who : Rank := (dev, plate, id)
      if v.far.any (sameWho who) then
        let left := v.far.filter (fun e => !(sameWho who e))
        let t := ((s.putDomain d { v with far := left }).dueIfEmpty d).kidChange d v.holds
        (t.tellRoster d false).keepFars d left
      else s.putDomain d { v with farJoin := v.farJoin.filter (fun e => !(sameWho who e)) }
    | none => s
  | .complete d n => match s.domain d with
    | some v => (s.takeBoundary d v n false).reachDies d
    | none => s
  | .completeJoint d n => match s.domain d with
    | some v => s.takeBoundary d v n true
    | none => s
  | .release d => s.reachDies d
  | .taken d dev _ id n => match s.domain d with
    | some v => if dev = s.devId then s.joinTaken d v id n else s
    | none => s
  | .roster d force l => match s.domain d with
    | some v =>
      let far := l.filter (fun e => !(e.1 == s.devId))
      (s.putDomain d { v with far := far, force := if force then l else v.force }).keepFars d far
    | none => s
  | .kid p k what => match s.domain p with
    | some v => s.takeKid p v k what
    | none => s
  | .propose g key who fmt e => { s with props := s.props ++ [{ group := g, key := key, who := who, fmt := fmt, e := e }] }
  | .share g key who els => { s with farShares := s.farShares ++ [{ group := g, key := key, who := who, els := els }] }
  | .settle k => s.putFat k.toNat { (s.fatOf k.toNat) with arm := false, fwd := false }

/-- The context's boundary has completed and reached its die (R196). -/
def State.boundarySeen (s : State) : Bool :=
  match s.domain s.ctx.csr.dmrDom with
  | some v => decide (s.ctx.csr.phcnt.toNat < (v.reached.get s.ctx.die).toNat)
  | none => true

/-- A pending join of the context has taken effect: it is a member and the boundary has reached its die (R197). -/
def State.joinSeen (s : State) (d : BitVec 10) : Bool :=
  match s.domain d with
  | some v => v.members.contains s.ctx.id && !v.joint && v.reached.get s.ctx.die == v.count
  | none => false

/-- The joiner's DMR and PHCNT (R197). -/
def State.takeJoin (s : State) (d : BitVec 10) : State :=
  match s.domain d with
  | some v => (s.mcsr (fun c => { c with dmr := dmrOf v.level d, phcnt := v.count })).mctx
      (fun c => { c with joining := none })
  | none => s

end Sys2Proof.Machine
end

