-- ==== Sys2Proof/Machine/Accounts.lean ====
section
/-! DEFINITION. The accounts: slot and engine totals, runs and the stream of R340 to R346. -/

namespace Sys2Proof.Machine

/-- A device-scope write of a device unit into a context's COH memory: translated, W needed, within what the window holds,
privilege not judged. It answers none where it faults (R248, R253, R344, R366). Log entry 26 (DESIGN CHOICE). -/
def State.deviceWrite (s : State) (asid : BitVec 12) (root : Word) (plate va n v : Nat) : Option State :=
  match s.xlate asid root va with
  | .error _ => none
  | .ok (s, x) =>
    if x.typ = 0 ∧ bitOf x.pte 3 = true ∧ (s.beyond x.pa n).isNone then some (s.homeWrite plate x.region x.pa n v) else none

/-- Write one 16-byte record of the stream (R344, R345). Log entry 26 (DESIGN CHOICE). -/
def State.streamRecord (s : State) (dw0 dw1 : Nat) : State :=
  let c := s.ctx
  let log := bitsOf c.csr.accctl 12 8
  if log = 0 ∨ bitOf c.csr.accctl 0 = false then s
  else
    let widx := bitsOf c.csr.accctl 63 32
    let va := bitsOf c.csr.accbase 56 4 * 16 + 16 * widx % 2 ^ log
    match s.deviceWrite c.space.asid c.space.root c.plate va 16 (dw0 + dw1 * 2 ^ 64) with
    | some s => s.mcsr (fun r => { r with accctl := setBits r.accctl 63 32 (widx + 1) })
    | none =>
      (s.mcsr (fun r => { r with accctl := setBits r.accctl 0 0 0 })).post c.die 3 c.plate 0
        (BitVec.ofNat 64 c.id.toNat) (BitVec.ofNat 64 va)

/-- The record of a slot run (KIND 0). -/
def State.writeRun (s : State) (r : Run) : State :=
  s.streamRecord (r.cause.code * 16 + bitsOf r.pc 56 2 * 256) (r.slots % 2 ^ 32 + s.cycle % 2 ^ 32 * 2 ^ 32)

/-- The record of an engine run (KIND 1), when ENGR asks for it. -/
def State.writeEngRun (s : State) (r : EngRun) : State :=
  if bitOf s.ctx.csr.accctl 1 then
    s.streamRecord (1 + r.cause.code * 16 + r.eng.num * 128 + bitsOf r.spc 56 2 * 512)
      (r.esn.toNat + r.cycles % 2 ^ 32 * 2 ^ 32)
  else s

/-- Close every open run, slot runs in ascending strand, then engine runs in engine order (R345). -/
def State.closeRuns (s : State) : State :=
  let rs := [0, 1, 2, 3].flatMap (fun k => s.ctx.runs.filter (fun r => r.first == k))
  let es := [Engine.mxe, .txe, .ude, .cpe].flatMap (fun e => s.ctx.engRuns.filter (fun r => r.eng == e))
  let s := es.foldl State.writeEngRun (rs.foldl State.writeRun s)
  s.mctx (fun c => { c with runs := [], engRuns := [] })

/-- A marker record (KIND 3): 0 create, 1 stop for save, 2 resume, 3 end; it closes every open run first (R345). -/
def State.marker (s : State) (code : Nat) : State :=
  let s := s.closeRuns
  s.streamRecord (3 + code * 16 + s.ctx.plate * 2 ^ 32) s.cycle

/-- Add one slot to the run of its pair, or open one (R345). A run of 2^32 − 1 slots closes. -/
def addRun (rs : List Run) (pc : Word) (c : Slot) (k : Nat) : List Run :=
  if rs.any (fun r => r.pc == pc && r.cause == c && decide (r.slots < 2 ^ 32 - 1)) then
    rs.map (fun r => if r.pc == pc && r.cause == c && decide (r.slots < 2 ^ 32 - 1) then { r with slots := r.slots + 1 } else r)
  else rs ++ [{ pc := pc, cause := c, slots := 1, first := k }]

/-- Charge the four slots of the context in focus for this cycle: totals, then the runs; a run that received nothing
closes and is written (R340, R342, R345). -/
def State.chargeSlots (s : State) : State :=
  let c := s.ctx
  let one (a : SMap Nat) (k : Slot) : SMap Nat := SMap.set 0 a k.code (SMap.get 0 a k.code + 1)
  let acct := c.slots.toList.foldl one c.acct
  let live (r : Run) : Bool := [0, 1, 2, 3].any (fun i => c.slots.get i == r.cause && c.slotPcs.get i == r.pc)
  let runs := [0, 1, 2, 3].foldl (fun rs i => addRun rs (c.slotPcs.get i) (c.slots.get i) i) (c.runs.filter live)
  let full (r : Run) : Bool := decide (2 ^ 32 - 1 ≤ r.slots)
  let closed := c.runs.filter (fun r => !(live r)) ++ runs.filter full
  let s := [0, 1, 2, 3].foldl (fun t k => (closed.filter (fun r => r.first == k)).foldl State.writeRun t)
    (s.mctx (fun c => { c with acct := acct }))
  s.mctx (fun c => { c with runs := runs.filter (fun r => !(full r)) })

/-- The plate in focus is having its turns of this cycle: what is active now has the cycle (R18). -/
def State.midCycle (s : State) : Bool :=
  match s.phase with
  | .plate p _ => p == s.plate.id
  | .manage _ => false
  | .charge => false

/-- Charge the slots now: the context leaves the plate's active place in this cycle, which counts as its own (R18). A context
that leaves before its plate's turns leaves the cycle to the next one. -/
def State.chargeLeaving (s : State) : State :=
  if s.plate.active = some s.ctx.id ∧ s.plate.charged = false ∧ s.midCycle = true then
    s.chargeSlots.mplate (fun p => { p with charged := true })
  else s

/-- Add one cycle of an engine to a context's totals and runs (R343, R345). -/
def Ctx.chargeEngine (c : Ctx) (e : Engine) (k : EngCause) (spc : Word) (esn : BitVec 32) : Ctx × List EngRun :=
  let key := e.num * 8 + k.code
  let same (r : EngRun) : Bool := r.eng == e && r.spc == spc && r.esn == esn && r.cause == k
  let closed := c.engRuns.filter (fun r => r.eng == e && !(same r))
  let rest := c.engRuns.filter (fun r => !(r.eng == e && !(same r)))
  let runs := if rest.any same then rest.map (fun r => if same r then { r with cycles := r.cycles + 1 } else r)
    else rest ++ [{ eng := e, spc := spc, esn := esn, cause := k, cycles := 1 }]
  let full (r : EngRun) : Bool := decide (2 ^ 32 - 1 ≤ r.cycles)
  ({ c with engAcct := SMap.set 0 c.engAcct key (SMap.get 0 c.engAcct key + 1), engRuns := runs.filter (fun r => !(full r)) },
    closed ++ runs.filter full)

/-- A context's engine run closes when its cycle went elsewhere (R345). -/
def Ctx.closeEngine (c : Ctx) (e : Engine) : Ctx × List EngRun :=
  ({ c with engRuns := c.engRuns.filter (fun r => !(r.eng == e)) }, c.engRuns.filter (fun r => r.eng == e))

end Sys2Proof.Machine
end

