-- ==== Sys2Proof/Machine/Refs.lean ====
section
/-! DEFINITION. The registers a word names as sources and destinations (R50, R84): what the register-cache ports and
power modes serve (R66, R67) and what a word must wait for (R137). -/

namespace Sys2Proof

/-- A register a word names. -/
inductive RegRef where
  | x (r : Reg)
  | v (r : Reg)
  deriving DecidableEq, Repr

/-- Registers a word reads. -/
def Instr.reads : Instr → List RegRef
  | .add _ _ a b
  | .sub _ _ a b
  | .and _ _ a b
  | .or _ _ a b
  | .xor _ _ a b
  | .shl _ _ a b
  | .shr _ _ a b
  | .sar _ _ a b
  | .mul _ _ a b
  | .mulh _ _ a b
  | .mulhu _ _ a b
  | .min _ _ a b
  | .max _ _ a b
  | .minu _ _ a b
  | .maxu _ _ a b
  | .andn _ _ a b
  | .div _ _ a b
  | .divu _ _ a b
  | .rem _ _ a b
  | .remu _ _ a b
  | .slt _ _ a b
  | .sltu _ _ a b
  | .orn _ _ a b
  | .adds1 _ _ a b
  | .adds2 _ _ a b
  | .adds3 _ _ a b
  | .adds4 _ _ a b
  | .bfx _ _ a b
  | .sel _ _ a b _
  | .cmp _ _ a b _ _
  | .jtab _ a b
  | .strel _ _ a b
  | .stfe _ a b
  | .stf _ a b
  | .feset _ a b
  | .cwbr _ a b
  | .cinvr _ a b
  | .cpin _ _ a b
  | .aadd _ _ a b
  | .amax _ _ a b
  | .amin _ _ a b
  | .aand _ _ a b
  | .aor _ _ a b
  | .axor _ _ a b
  | .aswp _ _ a b
  | .afadd _ _ a b
  | .bbpost _ a b
  | .bbwt _ _ a b
  | .waitc _ a b
  | .req _ a b
  | .tlbi _ a b =>
    [.x a, .x b]
  | .clz _ _ a
  | .ctz _ _ a
  | .popc _ _ a
  | .brev _ _ a
  | .abs _ _ a
  | .sxb _ _ a
  | .sxh _ _ a
  | .sxw _ _ a
  | .addi _ _ a _
  | .andi _ _ a _
  | .ori _ _ a _
  | .xori _ _ a _
  | .shli _ _ a _
  | .shri _ _ a _
  | .sari _ _ a _
  | .slti _ _ a _
  | .sltiu _ _ a _
  | .xtop _ _ a
  | .cmpi _ _ a _ _ _
  | .bpr _ _ a
  | .lps _ a _
  | .lcw _ a
  | .ldacq _ _ a _
  | .ldfe _ _ a
  | .ldf _ _ a
  | .fepr _ _ a
  | .rpub _ a
  | .rview _ _ a
  | .pref _ a
  | .vbc _ _ a
  | .mdbind _ a _
  | .mdread _ _ a _
  | .mdset _ a _
  | .mdpm _ _ a _
  | .mdwait _ a _
  | .stld _ _ a
  | .stwr _ _ a _
  | .gset _ _ a
  | .phwt _ _ a
  | .dmjoin _ a
  | .tspawn _ _ a
  | .tend _ a
  | .pwreq _ _ a
  | .csrw _ a _
  | .csrs _ _ a
  | .csrc _ _ a =>
    [.x a]
  | .lsi _ d _ =>
    [.x d]
  | .bfi _ d a b
  | .acas _ d a b
  | .acasW _ d a b =>
    [.x a, .x b, .x d]
  | .vadd _ _ a b
  | .vsub _ _ a b
  | .vmul _ _ a b
  | .vmax _ _ a b
  | .vmin _ _ a b
  | .vabd _ _ a b
  | .viadd _ _ a b
  | .visub _ _ a b
  | .vimul _ _ a b
  | .vand _ _ a b
  | .vor _ _ a b
  | .vxor _ _ a b
  | .vshl _ _ a b
  | .vshr _ _ a b
  | .vcmp _ _ a b _
  | .vsel _ _ a b
  | .vprm _ _ a b
  | .vzip _ _ a b
  | .vuzp _ _ a b
  | .vdot _ _ a b =>
    [.v a, .v b]
  | .vfma _ d a b
  | .vfms _ d a b =>
    [.v a, .v b, .v d]
  | .vneg _ _ a
  | .vabs _ _ a
  | .vrcp _ _ a
  | .vrsq _ _ a
  | .vex2 _ _ a
  | .vlg2 _ _ a
  | .vflr _ _ a
  | .vmov _ _ a
  | .vcvt _ _ a _ _ _
  | .vradd _ _ a
  | .vrmax _ _ a
  | .vrmin _ _ a
  | .vramx _ _ a
  | .vqnt _ _ a _
  | .vdq _ _ a _
  | .vhist _ a _
  | .vscx _ _ a _ =>
    [.v a]
  | .vext _ _ a b
  | .vrot _ _ a b =>
    [.v a, .x b]
  | .vins _ d a b =>
    [.v d, .x a, .x b]
  | .ld _ _ a _ _ _ | .ldp _ _ a _ _ _ => [.x a]
  | .st _ c a _ z | .stp _ c a _ z => [.x a, if z = 7 then .v c else .x c]
  | .li _ _ _ | .ptox _ _ _ | .pand _ _ _ _ | .por _ _ _ _ | .pxor _ _ _ _ | .pandn _ _ _ _ | .pnot _ _ _ _ | .pmov _ _ _ _
  | .pset _ _ _ _ | .pclr _ _ _ _ | .bpt _ _ _ | .btox _ _ _ | .jd _ _ _ _ _ _ | .lbr _ _ | .lcr _ _ | .vany _ _ _
  | .vall _ _ _ | .vnone _ _ _ | .fence _ _ _ | .cunpin _ _ | .atomicReply | .loadResultLand | .mdclose _ _ | .strd _ _ _ _
  | .gclr _ _ | .phase _ | .dmleave _ | .pwrel _ | .accr _ _ _ | .esnr _ _ | .csrr _ _ _ | .eret _
  | .fencei _ | .wfe _ | .halt _ | .trap _ _ | .stamp _ _ _ _ | .bundleIssue | .join | .mwl
  | .mma | .mdr | .maz | .mas | .mar | .xtr | .xfw | .uaw
  | .usm | .uax | .uns | .cpy | .cpyPm | .cpyCv | .cpg | .cps
  | .cpm | .cpl | .cpz | .guardDiscard _ | .powerGrant _ | .unitReturn _ | .commandCompletion _ | .histogramUpdate
  | .iterationClose | .recordStore | .rd _ _ | .wr _ _ | .atMsg _ _ | .inv _ _ | .dataMsg _ _ | .ack _ _
  | .conflict _ _ | .retry _ _ | .write _ _ | .reduce _ _ | .readRequest _ _ | .readReply _ _ | .control _ _ | .flipMarker _ _
  | .link _ _ | .stop _ _ | .go _ _ | .replay _ _ | .linkDown _ | .boundaryComplete _ | .boundaryRelease | .phwtTimeout
  | .bbwtDone | .bbwtTimeout | .qfullTimeout | .tspawnTimeout | .pwreqTimeout | .regionPush _ | .staleTimeout | .ringPoll _
  | .allreduce | .reducescatter | .allgather | .broadcast | .agree | .barrier | .collectiveComplete | .fireCopy
  | .fireSum | .fireMax | .heldFireRetry _ | .taskReady _ | .taskDispatch _ | .preempt _ | .continuationEnqueue | .downwardStep _
  | .upwardStep _ | .thermalBudgetLower _ | .thermalStep _ | .thermalTrip _ | .scrub _ | .traceSample | .dumpRecord _ | .dumpMarker _ _
  | .info _ | .attest _ _ | .fwLoad _ _ | .fwCommit _ | .queueSet _ _ _ _ _ _ _ _ | .domainCreate _ _ _ _ _ _ _ | .regionSet _ _ _ | .policySet _ _ _
  | .carve _ _ _ | .retnGrant _ _ _ _ _ | .fatSet _ _ _ _ _ | .fatArm _ _ _ _ | .devidSet _ _ | .opSet _ _ _ | .budget _ _ _ | .rowmapRead _ _ _ _
  | .eventRead _ _ _ _ | .kill _ _ | .thaw _ _ | .thawMode1 _ _ | .acctRead _ _ _ _ | .imageMove _ _ _ _ | .dbgSet _ _ _ | .dbgResume _ _ _ _
  | .dbgTrace _ _ _ _ _ _ | .dbgInject _ _ _ | .dump _ _ _ _ | .dumpRead _ _ _ _ | .enqueue | .hqTailWrite _ _ | .controlPageWrite _ _ | .functionLevelReset
  | .powerOnReset | .hbmTraining _ | .rowTesting _ | .plateBinding _ | .softError _ | .correctedErrorEvent _ _ | .msixVectorFire _ | .remap _
  | .cycleCharge => []

/-- Registers a word writes. -/
def Instr.writes : Instr → List RegRef
  | .add _ d _ _
  | .sub _ d _ _
  | .and _ d _ _
  | .or _ d _ _
  | .xor _ d _ _
  | .shl _ d _ _
  | .shr _ d _ _
  | .sar _ d _ _
  | .mul _ d _ _
  | .mulh _ d _ _
  | .mulhu _ d _ _
  | .min _ d _ _
  | .max _ d _ _
  | .minu _ d _ _
  | .maxu _ d _ _
  | .andn _ d _ _
  | .div _ d _ _
  | .divu _ d _ _
  | .rem _ d _ _
  | .remu _ d _ _
  | .slt _ d _ _
  | .sltu _ d _ _
  | .orn _ d _ _
  | .clz _ d _
  | .ctz _ d _
  | .popc _ d _
  | .brev _ d _
  | .abs _ d _
  | .sxb _ d _
  | .sxh _ d _
  | .sxw _ d _
  | .addi _ d _ _
  | .andi _ d _ _
  | .ori _ d _ _
  | .xori _ d _ _
  | .shli _ d _ _
  | .shri _ d _ _
  | .sari _ d _ _
  | .slti _ d _ _
  | .sltiu _ d _ _
  | .li _ d _
  | .lsi _ d _
  | .adds1 _ d _ _
  | .adds2 _ d _ _
  | .adds3 _ d _ _
  | .adds4 _ d _ _
  | .bfx _ d _ _
  | .bfi _ d _ _
  | .ptox _ d _
  | .sel _ d _ _ _
  | .btox _ d _
  | .lcr _ d
  | .ldacq _ d _ _
  | .ldfe _ d _
  | .ldf _ d _
  | .rview _ d _
  | .aadd _ d _ _
  | .amax _ d _ _
  | .amin _ d _ _
  | .aand _ d _ _
  | .aor _ d _ _
  | .axor _ d _ _
  | .aswp _ d _ _
  | .afadd _ d _ _
  | .acas _ d _ _
  | .acasW _ d _ _
  | .vext _ d _ _
  | .mdread _ d _ _
  | .mdpm _ d _ _
  | .strd _ d _ _
  | .phwt _ d _
  | .bbwt _ d _ _
  | .tspawn _ d _
  | .pwreq _ d _
  | .accr _ d _
  | .esnr _ d
  | .csrr _ d _ =>
    [.x d]
  | .vadd _ d _ _
  | .vsub _ d _ _
  | .vmul _ d _ _
  | .vfma _ d _ _
  | .vmax _ d _ _
  | .vmin _ d _ _
  | .vfms _ d _ _
  | .vabd _ d _ _
  | .viadd _ d _ _
  | .visub _ d _ _
  | .vimul _ d _ _
  | .vand _ d _ _
  | .vor _ d _ _
  | .vxor _ d _ _
  | .vshl _ d _ _
  | .vshr _ d _ _
  | .vneg _ d _
  | .vabs _ d _
  | .vrcp _ d _
  | .vrsq _ d _
  | .vex2 _ d _
  | .vlg2 _ d _
  | .vflr _ d _
  | .vmov _ d _
  | .vcvt _ d _ _ _ _
  | .vsel _ d _ _
  | .vprm _ d _ _
  | .vbc _ d _
  | .vins _ d _ _
  | .vrot _ d _ _
  | .vzip _ d _ _
  | .vuzp _ d _ _
  | .vradd _ d _
  | .vrmax _ d _
  | .vrmin _ d _
  | .vdot _ d _ _
  | .vramx _ d _
  | .vqnt _ d _ _
  | .vdq _ d _ _
  | .vscx _ d _ _ =>
    [.v d]
  | .ld _ d _ _ _ z => [if z = 7 then .v d else .x d]
  | .ldp _ d a _ _ z => [.x a, if z = 7 then .v d else .x d]
  | .stp _ _ a _ _ => [.x a]
  | .xtop _ _ _ | .cmp _ _ _ _ _ _ | .cmpi _ _ _ _ _ _ | .pand _ _ _ _ | .por _ _ _ _ | .pxor _ _ _ _ | .pandn _ _ _ _ | .pnot _ _ _ _
  | .pmov _ _ _ _ | .pset _ _ _ _ | .pclr _ _ _ _ | .bpt _ _ _ | .bpr _ _ _ | .jtab _ _ _ | .jd _ _ _ _ _ _ | .lps _ _ _
  | .lbr _ _ | .lcw _ _ | .vany _ _ _ | .vall _ _ _ | .vnone _ _ _ | .strel _ _ _ _ | .stfe _ _ _ | .stf _ _ _
  | .fepr _ _ _ | .feset _ _ _ | .fence _ _ _ | .rpub _ _ | .cwbr _ _ _ | .cinvr _ _ _ | .cpin _ _ _ _ | .cunpin _ _
  | .pref _ _ | .atomicReply | .loadResultLand | .vcmp _ _ _ _ _ | .vhist _ _ _ | .mdbind _ _ _ | .mdclose _ _ | .mdset _ _ _
  | .mdwait _ _ _ | .stld _ _ _ | .stwr _ _ _ _ | .gset _ _ _ | .gclr _ _ | .phase _ | .dmjoin _ _ | .dmleave _
  | .bbpost _ _ _ | .waitc _ _ _ | .req _ _ _ | .tend _ _ | .pwrel _ | .csrw _ _ _ | .csrs _ _ _ | .csrc _ _ _
  | .eret _ | .tlbi _ _ _ | .fencei _ | .wfe _ | .halt _ | .trap _ _ | .stamp _ _ _ _ | .bundleIssue
  | .join | .mwl | .mma | .mdr | .maz | .mas | .mar | .xtr
  | .xfw | .uaw | .usm | .uax | .uns | .cpy | .cpyPm | .cpyCv
  | .cpg | .cps | .cpm | .cpl | .cpz | .guardDiscard _ | .powerGrant _ | .unitReturn _
  | .commandCompletion _ | .histogramUpdate | .iterationClose | .recordStore | .rd _ _ | .wr _ _ | .atMsg _ _ | .inv _ _
  | .dataMsg _ _ | .ack _ _ | .conflict _ _ | .retry _ _ | .write _ _ | .reduce _ _ | .readRequest _ _ | .readReply _ _
  | .control _ _ | .flipMarker _ _ | .link _ _ | .stop _ _ | .go _ _ | .replay _ _ | .linkDown _ | .boundaryComplete _
  | .boundaryRelease | .phwtTimeout | .bbwtDone | .bbwtTimeout | .qfullTimeout | .tspawnTimeout | .pwreqTimeout | .regionPush _
  | .staleTimeout | .ringPoll _ | .allreduce | .reducescatter | .allgather | .broadcast | .agree | .barrier
  | .collectiveComplete | .fireCopy | .fireSum | .fireMax | .heldFireRetry _ | .taskReady _ | .taskDispatch _ | .preempt _
  | .continuationEnqueue | .downwardStep _ | .upwardStep _ | .thermalBudgetLower _ | .thermalStep _ | .thermalTrip _ | .scrub _ | .traceSample
  | .dumpRecord _ | .dumpMarker _ _ | .info _ | .attest _ _ | .fwLoad _ _ | .fwCommit _ | .queueSet _ _ _ _ _ _ _ _ | .domainCreate _ _ _ _ _ _ _
  | .regionSet _ _ _ | .policySet _ _ _ | .carve _ _ _ | .retnGrant _ _ _ _ _ | .fatSet _ _ _ _ _ | .fatArm _ _ _ _ | .devidSet _ _ | .opSet _ _ _
  | .budget _ _ _ | .rowmapRead _ _ _ _ | .eventRead _ _ _ _ | .kill _ _ | .thaw _ _ | .thawMode1 _ _ | .acctRead _ _ _ _ | .imageMove _ _ _ _
  | .dbgSet _ _ _ | .dbgResume _ _ _ _ | .dbgTrace _ _ _ _ _ _ | .dbgInject _ _ _ | .dump _ _ _ _ | .dumpRead _ _ _ _ | .enqueue | .hqTailWrite _ _
  | .controlPageWrite _ _ | .functionLevelReset | .powerOnReset | .hbmTraining _ | .rowTesting _ | .plateBinding _ | .softError _ | .correctedErrorEvent _ _
  | .msixVectorFire _ | .remap _ | .cycleCharge | .st _ _ _ _ _ => []

end Sys2Proof
end

