-- ==== Sys2Proof/Machine/Ops.lean ====
section
/-! DEFINITION. The named operations every meaning uses: landing results, ending and freezing a context, taking an
exception (R214) and returning from one (R215), and the issue of one word with its checks, tokens and waits (R58, R59,
R73, R92, R93, R194, R387). -/

namespace Sys2Proof.Machine

/-! ### Trace (R368, R369) -/

/-- Doublewords as a number. -/
def dwsNat : List Word → Nat
  | [] => 0
  | w :: ws => w.toNat + 2 ^ 64 * dwsNat ws

/-- Write one trace record of a kind at the ring's index; a record that cannot be written is counted (R368).
Log entry 26 (DESIGN CHOICE). -/
def State.traceWrite (s : State) (t : TraceCfg) (kind : Nat) (id : BitVec 32) (dws : List Word) : State :=
  let pa := t.base.toNat + 64 * (t.widx % 2 ^ t.logsz)
  let dw0 := BitVec.ofNat 64 (kind + s.plate.id * 16 + s.cycle % 2 ^ 32 * 2 ^ 32)
  match placeOf pa with
  | .hbm _ =>
    (s.homeWrite s.plate.id 0 pa 64 (dwsNat ([dw0, BitVec.ofNat 64 id.toNat] ++ dws))).mplate
      (fun p => { p with trace := some { t with widx := t.widx + 1 } })
  | _ =>
    (s.mplate (fun p => { p with trace := some { t with lost := t.lost + 1 } })).post (dieOfPlate s.plate.id) 8
      s.plate.id 0 (BitVec.ofNat 64 id.toNat) (BitVec.ofNat 64 (t.lost + 1))

/-- Trace an event of a kind and a CTXID, if the plate's ring asks for it; records lost before are reported first (kind 6). -/
def State.traceAs (s : State) (id : BitVec 32) (kind : Nat) (dws : List Word) : State :=
  match s.plate.trace with
  | none => s
  | some t =>
    if t.kinds.getLsbD kind = false then s
    else
      let s := if t.lost = 0 then s
        else s.traceWrite { t with lost := 0 } 6 id [BitVec.ofNat 64 t.lost, 0, 0, 0, 0, 0]
      match s.plate.trace with
      | none => s
      | some t => s.traceWrite t kind id dws

/-- Trace an event of the context in focus. -/
def State.trace (s : State) (kind : Nat) (dws : List Word) : State := s.traceAs s.ctx.id kind dws

/-! ### Units (R209, R278) -/

/-- Units come back to die d's arbiter, which frees them as the current-step limit allows (R278). -/
def State.giveUnits (s : State) (d n : Nat) : State := s.mdie d (fun t => { t with deferred := t.deferred + n })

/-- Return a booking: its free units now; those its commands hold come back to the arbiter as they complete (R209).
Log entry 43 (DEDUCED). -/
def State.giveBooking (s : State) : State :=
  match s.ctx.booking with
  | none => s
  | some b =>
    let id := s.ctx.id
    let s := (s.giveUnits s.ctx.die (b.size - b.used)).mctx (fun c => { c with booking := none })
    s.mplate (fun p => { p with running := p.running.map (fun q => q.map (fun r =>
      if r.ctx = id then { r with booked := false } else r)) })

/-! ### Leaving a plate (R331) -/

/-- Activate the resident context of highest priority, the earliest dispatched among equals (R331). -/
def State.activateNext (s : State) : State :=
  let cand := s.plate.places.toList.filterMap (fun id =>
    if id = 0 then none else (s.ctxOf id).bind (fun c => if c.life = .resident then some c else none))
  let best := cand.foldl (fun b c => match b with
    | none => some c
    | some d => if d.task.prio < c.task.prio ∨ (c.task.prio = d.task.prio ∧ c.since < d.since) then some c else some d) none
  s.mplate (fun p => { p with active := best.map (fun c => c.id) })

/-- The context in focus stops being active; another takes its place (R331). -/
def State.deactivate (s : State) : State :=
  if s.plate.active = some s.ctx.id then s.chargeLeaving.activateNext else s

/-- Free the context's place on its plate. -/
def State.freePlace (s : State) : State :=
  s.mplate (fun p => { p with places := p.places.map (fun id => if id = s.ctx.id then 0 else id) })

/-- The context in focus asks the arbiter for nothing more, and grants its heads held go back (R160, R278). -/
def State.dropAsks (s : State) : State :=
  let id := s.ctx.id
  let back := (s.plate.grants.filter (fun g => g.2.1 == id)).foldl (fun n g => n + g.2.2) 0
  (s.giveUnits (dieOfPlate s.plate.id) back).mplate (fun p => { p with
    asks := p.asks.filter (fun a => !(a.2.1 == id)), grants := p.grants.filter (fun g => !(g.2.1 == id)) })

/-- End the context in focus with a completion status: booking, rings, collectives, place and area are freed, and the
journal logs COMPLETE with a source (R208, R214 step 5, R327, R339, R363). -/
def State.endCtxBy (s : State) (source : Nat) (status : BitVec 32) : State :=
  let id := s.ctx.id
  let d := s.ctx.die
  let s := if s.plate.active = some id then s.chargeLeaving else s
  let s := ((s.marker 3).giveBooking).dropAsks
  let s := s.journal d 3 source status (BitVec.ofNat 64 id.toNat) 0 []
  let s := s.mctx (fun c => { c with life := .ended, queues := Quad.all [], flight := [], pends := [] })
  let s := s.mdie d (fun t => { t with
    rings := t.rings.filter (fun r => !(r.owner == .ctx id)), fires := t.fires.filter (fun r => !(r.1 == id)),
    areas := t.areas - 1, saved := t.saved.filter (fun x => !(x == id)) })
  let s := s.freePlace.mplate (fun p => { p with rcache := p.rcache.filter (fun e => !(e.ctx == id)) })
  if s.plate.active = some id then s.activateNext else s

/-- A context that ends by its own word or fault. -/
def State.endCtx (s : State) (status : BitVec 32) : State := s.endCtxBy 2 status

/-! ### Landing -/

/-- Land what a load or an atomic brings, and its pushes; what a later write of its strand has overtaken brings nothing
(R59, R68). -/
def Ctx.landFlight (c : Ctx) (f : InFlight) : Ctx :=
  let t := f.clk.of f.strand
  let c := match f.arr with
    | .x n v => { c with x := SMap.set (Cell.init 0) c.x n ((SMap.get (Cell.init 0) c.x n).write f.strand t v) }
    | .v k v => { c with lines := SMap.set (Cell.init 0) c.lines k ((SMap.get (Cell.init 0) c.lines k).write f.strand t v) }
    | .none => c
  c.land f.strand f.qp f.qn { clk := f.clk, acq := f.atomic }

/-- Flags of some words join FSTAT as the words complete (R38, R141). -/
def Ctx.joinFlags (c : Ctx) (done : LateFlags → Bool) : Ctx :=
  { c with
    csr := { c.csr with fstat := (c.lateFlags.filter done).foldl (fun w e => w ||| e.flags.setWidth 64) c.csr.fstat },
    lateFlags := c.lateFlags.filter (fun e => !(done e)) }

/-- The flags of other strands' words that a token has shown strand k to be complete join FSTAT (R38, R59, R96). -/
def Ctx.joinSeen (c : Ctx) (k : Strand) : Ctx :=
  c.joinFlags (fun e => !(e.strand == k) && decide (e.tick ≤ (c.strands.get k.num).clk.of e.strand))

/-- Every pending result lands (R55, R68, R214). Log entry 44 (DEDUCED). -/
def Ctx.landAll (c : Ctx) : Ctx :=
  ({ c.flight.foldl Ctx.landFlight { c with pends := [] } with flight := [] }).joinFlags (fun _ => true)

/-- A message brings the reply of an atomic, or will, since it has been performed (R137). -/
def Msg.replyOf (m : Msg) (who : AtomOf) : Option Nat :=
  match m with
  | .atom _ _ _ _ _ w (some v) => if w = who then some v else none
  | .ack _ (some (w, v)) => if w = who then some v else none
  | _ => none

/-- What an atomic that has been performed answers: its message stands on a link or in a home's queue (R137, R298). -/
def State.replyOf (s : State) (who : AtomOf) : Option Nat :=
  (s.net.findSome? (fun e => (e.2.skid ++ e.2.out).findSome? (fun p => p.msg.replyOf who))).orElse (fun _ =>
    s.dies.toList.findSome? (fun t => t.waitq.findSome? (fun e => e.2.replyOf who)))

/-- The reply of an atomic reaches its flight (R137). -/
def InFlight.reply (f : InFlight) (v : Nat) : InFlight :=
  { f with wait := false, arr := match f.arr with
    | .x n _ => .x n (BitVec.ofNat 64 v)
    | a => a }

/-- Every pending result of the context in focus lands; the atomics it has on their way are performed first (R55, R68, R137,
R214). Log entry 44 (DEDUCED). -/
def State.landAll (s : State) : State :=
  let t := if s.ctx.flight.any (fun f => f.wait) then s.settle (dieOfPlate s.plate.id) (fun _ => true) else s
  t.mctx (fun c => ({ c with flight := c.flight.map (fun f =>
    if f.wait then (match t.replyOf (c.id, f.tag) with | some v => f.reply v | none => f) else f) } : Ctx).landAll)

/-! ### Freezing and exceptions (R214, R347 to R350, R360, R361) -/

/-- A fault to deliver: its cause, TADDR, and what names it: the word, or for an engine fault the command. -/
structure Exc where
  cause  : Cause
  addr   : Word
  eng    : Bool
  strand : Nat
  tpc    : Word
  word   : BitVec 32
  esn    : BitVec 32
  deriving DecidableEq, Repr

/-- TCAUSE.ACT and TCAUSE.ENG (R213). -/
def Csrs.act (c : Csrs) : Bool := bitOf c.tcause 9
def Csrs.eng (c : Csrs) : Bool := bitOf c.tcause 8

/-- The trap CSRs record a fault; ACT keeps its value (R213). -/
def Csrs.record (c : Csrs) (e : Exc) : Csrs :=
  { c with
    tcause := BitVec.ofNat 64 (e.cause.code + (if e.eng then 256 else 0) + (if c.act then 512 else 0)),
    tpc := e.tpc, tword := BitVec.ofNat 64 e.word.toNat, tesn := BitVec.ofNat 64 e.esn.toNat, taddr := e.addr,
    tstrand := BitVec.ofNat 64 e.strand }

/-- Freeze the context in focus: its CSRs hold the fault, a FROZEN entry and a freeze event are written, another context
becomes active (R361). -/
def State.freeze (s : State) (e : Exc) : State :=
  let s := (s.mcsr (fun c => c.record e)).mctx (fun c => { c with life := .frozen })
  let c := s.ctx
  let s := s.journal c.die 12 2 0 (BitVec.ofNat 64 c.id.toNat) c.plate [c.csr.tcause, e.tpc, e.addr,
    BitVec.ofNat 64 e.esn.toNat]
  (s.post c.die 7 c.plate e.esn (BitVec.ofNat 64 c.id.toNat) e.addr).deactivate

/-- The pc, mode, join state and pending transfer a trap frame captures of a strand (R214 step 3, R194). -/
def StrandSt.frame (t : StrandSt) : FrameStrand :=
  { pc := t.pc, xfer := t.xfer, joined := t.joined, mark := t.mark, since := t.since,
    upto := t.upto, past := t.past }

/-- TVEC.BASE as an address (R213). -/
def Csrs.vector (c : Csrs) : Word := BitVec.ofNat 64 (bitsOf c.tvec 56 4 * 16)

/-- The recorded fault goes to the handler (R214, steps 3, 5 and 6): with no handler the task ends; else the frame is
captured, ACT is set and the four strands enter lock-step at TVEC, 8 cycles after this one. `after` is the trapping strand's
pending transfer past the trapping word. Log entry 10 (DEDUCED). -/
def State.vectorTrap (s : State) (after : Option (Word × Nat)) : State :=
  let r := s.ctx.csr
  if r.vector = 0 then (s.withdraw).endCtx (BitVec.ofNat 32 (0x80000100 + bitsOf r.tcause 7 0))
  else
    let f : Frame := { strands := s.ctx.strands.map StrandSt.frame, lockstep := s.ctx.lockstep, after := after }
    let s := s.mcsr (fun c => { c with tcause := setBits c.tcause 9 9 1 })
    let s := s.mctx (fun c => { c with
      frame := some f, lockstep := true, hold := 9, holdFor := .trap, ported := false, ending := false,
      strands := c.strands.map (fun (t : StrandSt) =>
        { t with pc := r.vector, xfer := none, joined := false, mark := false, since := none, past := false }) })
    s.trace 4 [r.tpc, s.ctx.csr.tcause, r.taddr, r.tesn, 0, 0]

/-- A word that traps is fetched again afresh, in lock-step with its bundle: its wait is over (R194, R215). -/
def Ctx.unmark (c : Ctx) (k : Nat) : Ctx :=
  let clear (t : StrandSt) : StrandSt := { t with mark := false, since := none, past := false }
  if c.lockstep then { c with strands := c.strands.map clear } else { c with strands := c.strands.set k (clear (c.strands.get k)) }

/-- The pending transfer of strand k; in lock-step the bundle's (R110). -/
def Ctx.pending (c : Ctx) (k : Nat) : Option (Word × Nat) := if c.lockstep then c.strands.q0.xfer else (c.strands.get k).xfer

/-- Taking an exception (R214, steps 2 to 6): pending results land; PROT and a nested trap freeze the context; every other
fault is recorded and goes to the handler. `after` is as in `vectorTrap`. -/
def State.enterTrapPast (s : State) (e : Exc) (after : Option (Word × Nat)) : State :=
  let s := s.landAll.mctx (fun c => if e.eng then c else c.unmark e.strand)
  if e.cause = .prot ∨ s.ctx.csr.act = true then s.freeze e
  else (s.mcsr (fun c => c.record e)).vectorTrap after

/-- Taking an exception whose word, if a handler skips it, leaves a pending transfer as it is. Log entry 57 (DESIGN CHOICE). -/
def State.enterTrap (s : State) (e : Exc) : State := s.enterTrapPast e (s.ctx.pending e.strand)

/-- A strand as its frame restores it. -/
def StrandSt.restore (t : StrandSt) (f : FrameStrand) : StrandSt :=
  { t with pc := f.pc, xfer := f.xfer, joined := f.joined, mark := f.mark, since := f.since,
           upto := f.upto, past := f.past }

/-- The word address below which a lock-step bundle stands. -/
def bundleOf (pc : Word) : Word := setBits pc 3 0 0

/-- Release the engine queue a delivered fault held; its push lands (R164, R215). -/
def Ctx.releaseHeld (c : Ctx) : Ctx :=
  [0, 1, 2, 3].foldl (fun (c : Ctx) (i : Nat) =>
    match Quad.get c.held i with
    | some h =>
      if h.delivered then
        let c := { c with held := c.held.set i none }
        if h.after then c
        else { c with ecount := c.ecount + 1, latch := true }.land (Strand.ofNum h.ent.sstr.toNat) h.ent.qp h.ent.qn
          { clk := { h.ent.clk with e := c.ecount + 1 }, acq := false }
      else c
    | none => c) c

/-- Return from an exception (R215): the frame is restored; for a precise trap the trapping strand resumes at TPC, in
lock-step all four at TPC with bits [3:0] taken as 0, 8 cycles after this one; the held queue is released; ACT becomes 0.
Log entry 10 (DEDUCED). Log entry 57 (DESIGN CHOICE). -/
def State.returnTrap (s : State) : State :=
  match s.ctx.frame with
  | none => s
  | some f =>
    let csr := s.ctx.csr
    let k := bitsOf csr.tstrand 1 0
    let s := s.mctx (fun c => { c with
      lockstep := f.lockstep, frame := none, hold := 9, holdFor := .trap, ported := false,
      strands := ⟨c.strands.q0.restore f.strands.q0, c.strands.q1.restore f.strands.q1,
                  c.strands.q2.restore f.strands.q2, c.strands.q3.restore f.strands.q3⟩ })
    let s := if csr.eng then s
      else if f.lockstep then
        (if bundleOf csr.tpc = f.strands.q0.pc then s
         else s.mctx (fun c => Ctx.mstrand { c with strands := c.strands.map (fun (t : StrandSt) =>
           { t with pc := bundleOf csr.tpc }) } .c (fun t => { t with xfer := f.after })))
      else s.mstrand (Strand.ofNum k) (fun t => if t.pc = csr.tpc then t else { t with pc := csr.tpc, xfer := f.after })
    let s := (s.mcsr (fun c => { c with tcause := setBits c.tcause 9 9 0 })).mctx Ctx.releaseHeld
    s.trace 5 [(s.strand .c).pc, 0, 0, 0, 0, 0]

/-- HALT and the debugger's stops: the context stays resident and halted, a HALT entry is written (R220, R365). -/
def State.haltCtx (s : State) (detail : List Word) : State :=
  let s := s.mctx (fun c => { c with life := .halted })
  (s.journal s.ctx.die 11 2 0 (BitVec.ofNat 64 s.ctx.id.toNat) s.ctx.plate detail).deactivate

/-! ### Addresses and program counters -/

/-- Step of the pc: 16 in lock-step, 4 apart (R53, R109). -/
def Ctx.stepOf (c : Ctx) : Nat := if c.lockstep then 16 else 4

/-- Address A of the word the strand issues (R95). -/
def State.addrOf (s : State) (k : Strand) : Word :=
  (s.strand k).pc + (if s.ctx.lockstep then BitVec.ofNat 64 (4 * k.num) else 0)

/-- Where fetch goes after a word or bundle: `jmp` is a transfer it made, else a pending transfer counts down (R110). -/
def nextPc (pc : Word) (step : Nat) (xfer : Option (Word × Nat)) (jmp : Option (Word × Nat)) :
    Word × Option (Word × Nat) :=
  match jmp with
  | some (t, 0) => (t, none)
  | some (t, n) => (pc + BitVec.ofNat 64 step, some (t, n))
  | none =>
    match xfer with
    | none => (pc + BitVec.ofNat 64 step, none)
    | some (t, n) => if n ≤ 1 then (t, none) else (pc + BitVec.ofNat 64 step, some (t, n - 1))

/-- Move past a word of an apart strand; a join word leaves the strand waiting (R55). -/
def State.advanceApart (s : State) (k : Strand) (jmp : Option (Word × Nat)) (join : Bool) : State :=
  let t := s.strand k
  let r := nextPc t.pc 4 t.xfer jmp
  s.mstrand k (fun t => { t with pc := r.1, xfer := r.2, joined := join, mark := false, since := none, past := false })

/-- Move past a bundle; SY = 0 in slot 0 splits the strands, each to its own b0 (R53, R54). -/
def State.advanceBundle (s : State) (jmp : Option (Word × Nat)) (split : Bool) : State :=
  let t := s.strand .c
  let r := nextPc t.pc 16 t.xfer jmp
  s.mctx (fun c => { c with
    lockstep := !split, ported := false,
    strands := c.strands.map (fun (u : StrandSt) =>
      { u with pc := if split then u.b.q0 else r.1, xfer := none, joined := false, mark := false, since := none,
               past := false }) } |>.mstrand .c (fun u => { u with xfer := if split then none else r.2 }))

/-! ### Issue of a word -/

/-- How an effect ends. -/
inductive Res where
  /-- The word is done; its result is bound by n issue cycles (R68). -/
  | done (s : State) (n : Nat)
  /-- A transfer to t after n delay slots (R110). -/
  | jump (s : State) (t : Word) (n : Nat)
  /-- The word is done, and its pushes land with a reply or a command (R59). -/
  | later (s : State)
  /-- The word has issued and waits (R194); `hold` when the other words of its bundle wait with it. -/
  | wait (s : State) (c : Slot) (hold : Bool)
  /-- The word cannot issue in this cycle; `timed` when its limit runs from the first such cycle (R291). -/
  | stall (c : Slot) (timed : Bool)
  /-- A before-effect fault (R387). -/
  | trap (c : Cause) (addr : Word)
  /-- An after-effect fault (R387). -/
  | after (s : State) (c : Cause) (addr : Word)
  /-- The word ends or leaves the stream. -/
  | leave (s : State) (what : Leave)
  /-- As `after` and `leave`, for a word whose pushes land with a reply in flight (R59). -/
  | afterReply (s : State) (c : Cause) (addr : Word)
  | leaveReply (s : State) (what : Leave)

/-- The free value of a TADDR that a fault leaves undefined (R93, R212). Log entry 13 (DESIGN CHOICE). -/
def State.anyAddr (s : State) : Word := Config.freeWord s.fresh 1000

/-- Charge a slot and remember its address (R345). -/
def State.slotFor (s : State) (k : Strand) (c : Slot) : State :=
  let pc := (s.strand k).pc
  s.mctx (fun t => { t with slots := t.slots.set k.num c, slotPcs := t.slotPcs.set k.num pc })

/-- Placement of R52, R54, R55 and R91, with the field checks of R83: true when the word raises ILLEGAL. -/
def State.misplaced (s : State) (w : Instr) (sy : Bool) (allowed : Strand → Bool) (ct : Bool) : Bool :=
  let k := s.ctx.cur
  let slotted := s.ctx.lockstep
  let delay := if slotted then (s.strand .c).xfer.isSome else (s.strand k).xfer.isSome
  !w.wellFormed || !(allowed k) ||
  (slotted && !(k == .c) && (sy || ct)) ||
  (slotted && k == .c && !sy && (ct || delay)) ||
  (!slotted && sy && (ct || delay)) ||
  (ct && delay)

/-- A load of the strand has reached its bound without landing (R68). Log entry 12 (DEDUCED). -/
def Ctx.missBound (c : Ctx) (k : Strand) : Bool :=
  c.flight.any (fun f => f.strand == k && !f.atomic && f.left == 0 && f.due.isNone)

/-- The word names the destination of an atomic whose reply is outstanding (R137). -/
def Ctx.awaitsReply (c : Ctx) (k : Strand) (w : Instr) : Bool :=
  c.flight.any (fun f => f.strand == k && f.atomic &&
    (w.reads ++ w.writes).any (fun r => match r, f.arr with | .x a, .x n _ => a.toNat == n && !(n == 0) | _, _ => false))

/-- The bank of a named register: (offset / 256) mod 16; x0 uses none (R66). -/
def State.bankOf (s : State) (r : RegRef) : Option Nat :=
  match r with
  | .x a => if a = 0 then none else some (a.toNat / 32)
  | .v a => some (s.vline a % 16)

/-- Power mode of a bank (R67); 3 is never held. -/
def Csrs.bankMode (c : Csrs) (b : Nat) : Nat := bitsOf c.rbpm (2 * b + 1) (2 * b)

/-- Cycles an access to registers waits for banks in retention (24) or off (160) (R67). -/
def State.wakeTime (s : State) (refs : List RegRef) : Nat :=
  (refs.filterMap s.bankOf).foldl (fun m b =>
    match s.ctx.csr.bankMode b with | 0 => m | 1 => max m 24 | _ => max m 160) 0

/-- The banks accessed are on again (R67). -/
def State.wakeBanks (s : State) (refs : List RegRef) : State :=
  s.mcsr (fun c => { c with
    rbpm := (refs.filterMap s.bankOf).foldl (fun w b => setBits w (2 * b + 1) (2 * b) 0) c.rbpm })

/-- Extra cycles of a group for its register-cache reads: max over banks of ⌈n / 2⌉ − 1 (R66).
Log entry 17 (DESIGN CHOICE). -/
def State.portTime (s : State) (reads : List RegRef) : Nat :=
  let banks := reads.filterMap s.bankOf
  (List.range 16).foldl (fun m b => max m ((banks.countP (fun x => x == b) + 1) / 2 - 1)) 0

/-- The strand's count rises with each word it issues (R96). -/
def State.tick (s : State) : State :=
  let k := s.ctx.cur
  s.mstrand k (fun t => { t with clk := t.clk.put k (t.clk.of k + 1) })

/-- The pops of the issue step; popping the token of an atomic's reply acquires at device scope (R73, R137).
Log entry 4 (DESIGN CHOICE). -/
def State.popTokens (s : State) (k : Ctl) : State :=
  let r := s.ctx.pop s.ctx.cur k.pp k.pn
  let s := { s with ctx := r.1 }
  if r.2 then s.acquire 2 else s

/-- What the issue of a word begins with, once nothing holds it: count, then pops (R73). -/
def State.begin (s : State) (k : Ctl) : State := s.tick.popTokens k

/-- Bounds of the strand's results and loads count down by one issue cycle (R68). Log entry 12 (DEDUCED). -/
def Ctx.age (c : Ctx) (k : Strand) : Ctx :=
  { c with
    pends := (c.pends.map (fun p => if p.strand = k then { p with left := p.left - 1 } else p)).filter
      (fun p => decide (0 < p.left)),
    flight := c.flight.map (fun f => if f.strand = k then { f with left := f.left - 1 } else f),
    lateFlags := c.lateFlags.map (fun e => if e.strand = k then { e with left := e.left - 1 } else e) }

/-- The clock a word's push carries: with a bound of n its own result is covered too (R59, R96). -/
def State.pushClock (s : State) (n : Nat) : Clock :=
  let k := s.ctx.cur
  let c := (s.strand k).clk
  c.put k (c.of k + (n - 1))

/-- The pushes of a word that is done: outstanding since it issued, they land (R59, R194). Log entry 4 (DESIGN CHOICE). -/
def State.pushTokens (s : State) (k : Ctl) (marked : Bool) (n : Nat) : State :=
  let c := if marked then s.ctx else s.ctx.owe s.ctx.cur k.qp k.qn
  { s with ctx := c.land s.ctx.cur k.qp k.qn { clk := s.pushClock n, acq := false } }

/-- The pushes of a word become outstanding (R59). -/
def State.oweTokens (s : State) (k : Ctl) (marked : Bool) : State :=
  if marked then s else { s with ctx := s.ctx.owe s.ctx.cur k.qp k.qn }

/-- Leave a continuation record behind and end with status CONTINUED (R202, R337, R339). -/
def State.continueLater (s : State) (kind pa : Nat) (mask next : Word) : State :=
  let c := s.ctx
  let regs := (List.range 63).filterMap (fun i =>
    if bitOf mask (i + 1) then some (i + 1, s.x (BitVec.ofNat 6 (i + 1))) else none)
  let t : TaskRec := { c.task with code := next, dv := false, domain := 0, cmask := setBits mask 0 0 0, xs := regs, ins := [] }
  let r : Contin := { task := t, die := c.die, kind := kind, addr := pa }
  ({ s with contins := s.contins ++ [r] }).endCtx 0x80000001

/-- What a leaving word, which is strand C's, does once its cycle's words have landed. Log entry 44 (DEDUCED). -/
def State.finishLeave (s : State) (what : Leave) : State :=
  let s := s.mctx (fun c => { c with cur := .c })
  match what with
  | .tend status => ((s.landAll.withdraw).release 2).endCtx status
  | .waitc kind pa mask next => ((s.landAll.withdraw).release 2).continueLater kind pa mask next
  | .halt detail => s.haltCtx detail
  | .eret => s.returnTrap

/-- The precise fault of the word that strand k is issuing. Log entry 13 (DESIGN CHOICE). -/
def excOf (k : Strand) (c : Cause) (addr tpc : Word) (word : BitVec 32) : Exc :=
  { cause := c, addr := addr, eng := false, strand := k.num, tpc := tpc, word := word, esn := 0 }

/-- Close a word that stands alone: move the pc (R53 to R55, R110). -/
def State.moveOn (s : State) (jmp : Option (Word × Nat)) (sy : Bool) : State :=
  let k := s.ctx.cur
  if s.ctx.lockstep then s.advanceBundle jmp (k == .c && !sy) else s.advanceApart k jmp sy

/-- Note how the word ended; outside a bundle its slot is charged too. -/
def State.note (s : State) (k : Strand) (c : Slot) (e : Event) : State := { (s.slotFor k c) with event := e }

/-- What the cycle in which a word's wait ends is still charged: the cause of the wait (R194, R340); a REQ waits for the queue,
then for the counters (R203). -/
def waitCause (s : State) : Instr → Slot
  | .phase _ => .barrier
  | .phwt _ _ _ => .barrier
  | .dmjoin _ _ => .barrier
  | .bbwt _ _ _ _ => .barrier
  | .waitc _ _ _ => .dep
  | .tend _ _ => .dep
  | .req _ _ _ => if s.ctx.slots.q0 = .token then .token else .qfull
  | .tspawn _ _ _ => .qfull
  | .pwreq _ _ _ => .grant
  | .mdclose _ _ => .scalever
  | .mdwait _ _ _ => .scalever
  | .tlbi _ _ _ => .dmem
  | .wfe _ => .idle
  | _ => .issue

/-- A word that issues counts its strand's bounds down once; one that has waited did so when it issued (R68). -/
def State.ageFor (s : State) (marked : Bool) : State := if marked then s else s.mctx (fun c => c.age c.cur)

/-- A word that is done: pushes, bounds, slot; outside a bundle the pc moves (R59, R68, R73). `why` is its slot's charge. -/
def State.finish (s : State) (k : Ctl) (marked : Bool) (why : Slot) (n : Nat) (jmp : Option (Word × Nat)) : State :=
  let me := s.ctx.cur
  let s := (s.pushTokens k marked n).ageFor marked
  let e : Event := match jmp with | some (t, d) => .jumped me t d | none => .issued me
  let s := s.note me why e
  if s.bundle then s else s.moveOn jmp k.sy

/-- A fault before any effect: outside a bundle the exception is taken from the state before the word (R93, R387). -/
def State.faultBefore (s : State) (w : BitVec 32) (c : Cause) (addr : Word) : State :=
  let k := s.ctx.cur
  let s := s.note k .trap (.trapped k c addr w false)
  if s.bundle then s else s.enterTrap (excOf k c addr (s.addrOf k) w)

/-- A fault after the word's effect, its pushes seen to (R387): SWTRAP and WATCH return to the next word, the others to the
word; past it its strand's transfer has counted down. Log entry 57 (DESIGN CHOICE). -/
def State.faultAfter (s : State) (k : Ctl) (marked : Bool) (why : Slot) (w : BitVec 32) (c : Cause) (addr : Word) : State :=
  let me := s.ctx.cur
  let s := (s.ageFor marked).note me why (.trapped me c addr w true)
  let moved := s.moveOn none k.sy
  if s.bundle then s
  else if c.namesNext then moved.enterTrap (excOf me c addr (moved.strand me).pc w)
  else s.enterTrapPast (excOf me c addr (s.addrOf me) w) (moved.strand me).xfer

/-- A word leaves the stream, its pushes seen to. -/
def State.leaveFor (s : State) (k : Ctl) (marked : Bool) (why : Slot) (what : Leave) : State :=
  let me := s.ctx.cur
  let s := (s.ageFor marked).note me why (.left me what)
  if s.bundle then s else (s.moveOn none k.sy).finishLeave what

/-- The word cannot issue: the strand stays, charged a cause. -/
def State.stallFor (s : State) (c : Slot) : State :=
  let k := s.ctx.cur
  s.note k c (.stalled k c)

/-- The word did not issue: a timed wait starts to count (R291). -/
def State.hold (s : State) (c : Slot) (timed : Bool) : State :=
  let k := s.ctx.cur
  let now := s.cycle
  (if timed then s.mstrand k (fun t => { t with since := some (t.since.getD now) }) else s).stallFor c

/-- A read that finds a copy it must not use waits for a push until STALETO passes (R290, R291). -/
def State.staleWait (s : State) (addr : Word) : Res :=
  let limit := bitsOf s.ctx.csr.staleto 31 0
  match (s.strand s.ctx.cur).since with
  | some c0 => if limit ≠ 0 ∧ limit ≤ s.cycle - c0 then .trap .staleTimeout addr else .stall .stale true
  | none => .stall .stale true

/-- With ENGSTEP a strand waits until the command of its stamp has ended (R351). Log entry 48 (DESIGN CHOICE). -/
def State.stampPending (s : State) (k : Strand) : Bool :=
  s.ctx.engstep &&
    (s.ctx.queues.toList.any (fun q => q.any (fun e => e.sstr.toNat == k.num)) ||
     s.plate.running.toList.any (fun q => q.any (fun r => r.ctx == s.ctx.id && r.ent.sstr.toNat == k.num)))

/-- Why a word that has not performed its issue step cannot issue: a load at its bound, a reply it names, a stamp under
ENGSTEP, tokens (R58, R59, R68, R137, R351). -/
def State.blocked (s : State) (w : Instr) (k : Ctl) : Option Slot :=
  let me := s.ctx.cur
  if s.ctx.missBound me ∨ s.ctx.awaitsReply me w then some .dmem
  else if s.stampPending me then some .dep
  else if s.ctx.canPop me k.pp k.pn = false ∨ s.ctx.canPush me k.qp k.qn = false then some .token
  else none

/-- Outside a bundle a word pays for its own banks: the power modes of those it names and its reads (R66, R67).
Log entry 17 (DESIGN CHOICE). -/
def State.bankStall (s : State) (w : Instr) : Option State :=
  if s.bundle ∨ s.grouped ∨ s.ctx.ported then none
  else
    let n := s.wakeTime (w.reads ++ w.writes)
    if n ≠ 0 then
      some ((s.wakeBanks (w.reads ++ w.writes)).mctx (fun c => { c with hold := n, holdFor := .wake }) |>.stallFor .wake)
    else
      let m := s.portTime w.reads
      if m = 0 then none
      else some (s.mctx (fun c => { c with hold := m, holdFor := .bankport, ported := true }) |>.stallFor .bankport)

/-- A word that faults while it waits has no effect: its pops come back and its pushes are not owed (R93, R387). -/
def State.unissue (s : State) (k : Ctl) : State :=
  let me := s.ctx.cur
  let t : Token := { clk := (s.strand me).clk, acq := false }
  (s.mctx (fun c => { c with
    ending := false,
    tokNext := if k.pp then c.tokNext.set me.prev.num (t :: c.tokNext.get me.prev.num) else c.tokNext,
    tokPrev := if k.pn then c.tokPrev.set me.next.num (t :: c.tokPrev.get me.next.num) else c.tokPrev,
    outNext := if k.qn then c.outNext.set me.num (c.outNext.get me.num - 1) else c.outNext,
    outPrev := if k.qp then c.outPrev.set me.num (c.outPrev.get me.num - 1) else c.outPrev })).mstrand me
      (fun u => { u with mark := false, since := none })

/-- Cycles for which the word being evaluated has waited: 0 in the cycle it issues (R196, R201, R204). -/
def State.waited (s : State) : Nat :=
  let t := s.strand s.ctx.cur
  if t.mark then s.cycle - t.since.getD s.cycle else 0

/-- The latest ESN queued before the word being evaluated (R190, R196). -/
def State.before (s : State) : BitVec 32 :=
  let t := s.strand s.ctx.cur
  if t.mark then t.upto else s.ctx.esn

/-- C's join word leaves a resume address that is not 16-byte aligned (R55). -/
def State.joinBad (s : State) (k : Ctl) : Bool :=
  !s.ctx.lockstep && s.ctx.cur == .c && k.sy && !((s.strand .c).b.q0.toNat % 16 == 0)

/-- Close a word from the way its effect ended; `why` is what its slot is charged when it is done. -/
def State.close (s0 : State) (w : BitVec 32) (k : Ctl) (marked : Bool) (why : Slot) (r : Res) : State :=
  let back := if marked then s0.unissue k else s0
  let badJoin (t : State) : State := back.faultBefore w .misalign (t.strand .c).b.q0
  match r with
  | .done t n => if t.joinBad k then badJoin t else t.finish k marked why n none
  | .jump t dst n => t.finish k marked why 1 (some (dst, n))
  | .later s =>
    if s.joinBad k then badJoin s
    else
    let me := s.ctx.cur
    let s := ((s.oweTokens k marked).ageFor marked).note me .issue (.issued me)
    if s.bundle then s else s.moveOn none k.sy
  | .wait s c hold =>
    let me := s.ctx.cur
    let s := (s.oweTokens k marked).ageFor marked
    let esn := s.ctx.esn
    let now := s.cycle
    (s.mstrand me (fun t => if marked then t else { t with mark := true, since := some now, upto := esn })).note me
      c (.waiting me c hold)
  | .stall c timed => s0.hold c timed
  | .trap c addr => back.faultBefore w c addr
  | .after s c addr => if s.joinBad k then badJoin s else (s.pushTokens k marked 1).faultAfter k marked why w c addr
  | .leave s what => if s.joinBad k then badJoin s else (s.pushTokens k marked 1).leaveFor k marked why what
  | .afterReply s c addr => if s.joinBad k then badJoin s else (s.oweTokens k marked).faultAfter k marked why w c addr
  | .leaveReply s what => if s.joinBad k then badJoin s else (s.oweTokens k marked).leaveFor k marked why what

/-- An uncorrectable error at an offset of the register space stands in a register that a word names (R357). -/
def State.holdsBad (s : State) (refs : List RegRef) (off : Nat) : Bool :=
  refs.any (fun r => match r with
    | .x a => decide (0 < a.toNat) && off / 8 == a.toNat
    | .v a => off / 256 == s.vline a)

/-- The first uncorrectable error that a word reads in a dirty line of the register cache; a clean line is fetched again
(R357). -/
def State.regBad (s : State) (refs : List RegRef) : Option Nat :=
  s.bad.findSome? (fun b => match b with
    | .regcache id off =>
      if id = s.ctx.id ∧ s.holdsBad refs off = true ∧
          s.plate.rcache.any (fun e => e.ctx == id && e.line == off / 256 && e.dirty) = true then some off else none
    | _ => none)

/-- A register that is written whole holds no error. -/
def State.cureRegs (s : State) (refs : List RegRef) : State :=
  { s with bad := s.bad.filter (fun b => match b with
    | .regcache id off => !(id == s.ctx.id && s.holdsBad refs off)
    | _ => true) }

/-- Issue one word on the strand that has the turn: the checks of R92 in their order, what holds it, its issue step and
its effect. `allowed` and `ct` are its row of R81 and R84; `checks` gives ILLEGAL and PRIV that depend on the state. A word
that has performed its issue step resumes its wait (R194). -/
def State.issue (s : State) (w : Instr) (k : Ctl) (allowed : Strand → Bool) (ct : Bool)
    (checks : State → Option Cause) (eff : State → Res) : State :=
  let s := s.bump
  let word := BitVec.ofNat 32 (encodeWord w)
  if s.misplaced w k.sy allowed ct then s.faultBefore word .illegal s.anyAddr
  else match checks s with
    | some c => s.faultBefore word c s.anyAddr
    | none =>
      if (s.strand s.ctx.cur).mark then s.close word k true (waitCause s w) (eff s)
      else match s.blocked w k with
        | some c => s.stallFor c
        | none =>
          match s.bankStall w with
          | some t => t
          | none =>
            match s.regBad w.reads with
            | some off => s.faultBefore word .eccUncorr (BitVec.ofNat 64 off)
            | none =>
              let s := s.mctx (fun c => { c with ported := false })
              s.close word k false .issue (eff ((s.begin k).cureRegs w.writes))

/-! ### Rows of R81 and R84 -/

def anyStrand (_ : Strand) : Bool := true
def onlyC (k : Strand) : Bool := k == .c
def onlyL (k : Strand) : Bool := k == .l
def onlyX (k : Strand) : Bool := k == .x
def onlyS (k : Strand) : Bool := k == .s
def onlyLS (k : Strand) : Bool := k == .l || k == .s
def notC (k : Strand) : Bool := !(k == .c)

/-- No check beyond the word's own fields. -/
def noCheck (_ : State) : Option Cause := none

end Sys2Proof.Machine
end

