-- ==== Sys2Proof/Machine/Operands.lean ====
section
/-! DEFINITION. The operand forms: immediates, access sizes, conditions, the scopes and masks of memory words, and the
integer operations of R97 to R105 on 64-bit values. -/

namespace Sys2Proof.Machine

/-- What a meaning answers. -/
abbrev Out := Host.Outcome State Fault Refusal

/-- An effect on vector registers: ILLEGAL, with no effect, when one that the word names lies beyond the register space
(R61, R91). -/
def State.inRange (s : State) (l : List Reg) (r : Res) : Res := if l.all s.vok then r else .trap .illegal s.anyAddr

/-! ### Immediates (R50, R99, R100, R105, R107) -/

/-- sext(imm, 64). -/
def simm {n : Nat} (i : BitVec n) : Word := i.signExtend 64

/-- zext(imm, 64). -/
def zimm {n : Nat} (i : BitVec n) : Word := i.setWidth 64

/-! ### Integer operations (R97 to R102) -/

/-- Shift left by the low six bits. -/
def shlOp (a b : Word) : Word := a <<< (b.toNat % 64)
/-- Shift right, zeros in. -/
def shrOp (a b : Word) : Word := a >>> (b.toNat % 64)
/-- Shift right, copies of bit 63 in. -/
def sarOp (a b : Word) : Word := a.sshiftRight (b.toNat % 64)
/-- High 64 bits of the signed 128-bit product. -/
def mulhOp (a b : Word) : Word := BitVec.ofInt 64 (a.toInt * b.toInt / 2 ^ 64)
/-- High 64 bits of the unsigned 128-bit product. -/
def mulhuOp (a b : Word) : Word := BitVec.ofNat 64 (a.toNat * b.toNat / 2 ^ 64)
/-- Signed quotient, truncated towards zero; all ones for a divisor of zero (R97). -/
def divOp (a b : Word) : Word := if b = 0 then BitVec.allOnes 64 else BitVec.ofInt 64 (a.toInt.tdiv b.toInt)
/-- Unsigned quotient; all ones for a divisor of zero. -/
def divuOp (a b : Word) : Word := if b = 0 then BitVec.allOnes 64 else a / b
/-- Signed remainder with the sign of a; a for a divisor of zero. -/
def remOp (a b : Word) : Word := if b = 0 then a else BitVec.ofInt 64 (a.toInt.tmod b.toInt)
/-- Unsigned remainder; a for a divisor of zero. -/
def remuOp (a b : Word) : Word := if b = 0 then a else a % b
/-- Leading zero bits; 64 for zero (R98). -/
def clzOp (a : Word) : Word := BitVec.ofNat 64 (if a = 0 then 64 else 63 - Nat.log2 a.toNat)
/-- Trailing zero bits; 64 for zero (R98). -/
def ctzOp (a : Word) : Word :=
  BitVec.ofNat 64 (((List.range 64).find? (fun i => a.getLsbD i)).getD 64)
/-- Number of one bits (R98). -/
def popcOp (a : Word) : Word := BitVec.ofNat 64 ((List.range 64).countP (fun i => a.getLsbD i))
/-- Bit i moved to bit 63 − i (R98). -/
def brevOp (a : Word) : Word := a.reverse
/-- Absolute value modulo 2^64 (R98). -/
def absOp (a : Word) : Word := if a.toInt < 0 then -a else a
/-- sext of the low n bits (R98). -/
def sxOp (n : Nat) (a : Word) : Word := (a.setWidth n).signExtend 64

/-- BFX: the field at pos of length len, zero-extended; pos = b[5:0], len = b[13:8] (R102). -/
def bfxOp (a b : Word) : Word :=
  BitVec.ofNat 64 (a.toNat / 2 ^ bitsOf b 5 0 % 2 ^ bitsOf b 13 8)

/-- BFI: the low bits of a put into d at pos; bits past 63 are dropped (R102). -/
def bfiOp (d a b : Word) : Word :=
  let pos := bitsOf b 5 0
  let mask : Word := BitVec.ofNat 64 ((2 ^ bitsOf b 13 8 - 1) * 2 ^ pos)
  (d &&& ~~~mask) ||| (BitVec.ofNat 64 (a.toNat * 2 ^ pos) &&& mask)

/-- The condition of a compare; codes 6 and 7 are refused at decode (R105). -/
def condOf (c : BitVec 3) (a y : Word) : Bool :=
  match c.toNat with
  | 0 => a == y
  | 1 => !(a == y)
  | 2 => decide (a.toInt < y.toInt)
  | 3 => decide (y.toInt ≤ a.toInt)
  | 4 => decide (a.toNat < y.toNat)
  | _ => decide (y.toNat ≤ a.toNat)

/-- The mode of a compare on the old predicate (R105). -/
def predMode (m : BitVec 2) (old c : Bool) : Bool :=
  match m.toNat with
  | 0 => c
  | 1 => old && c
  | _ => old || c

/-! ### Access sizes (R121) -/

/-- Bytes of an access. -/
def szBytes (z : BitVec 3) : Nat :=
  match z.toNat with
  | 0 => 1 | 1 => 2 | 2 => 4 | 3 => 8 | 4 => 1 | 5 => 2 | 6 => 4 | _ => 256

/-- Alignment of an access. -/
def szAlign (z : BitVec 3) : Nat := if z = 7 then 32 else szBytes z

/-- A loaded value extended to 64 bits; sizes 0 to 2 are signed (R121). -/
def szExtend (z : BitVec 3) (v : Nat) : Word :=
  match z.toNat with
  | 0 => sxOp 8 (BitVec.ofNat 64 v)
  | 1 => sxOp 16 (BitVec.ofNat 64 v)
  | 2 => sxOp 32 (BitVec.ofNat 64 v)
  | _ => BitVec.ofNat 64 v

end Sys2Proof.Machine
end

