-- ==== Sys2Proof/Machine/Flags.lean ====
section
/-! DEFINITION. The flags of FSTAT (R38), the rounding mode in force (R33, R39), the plate's stochastic generator (R34)
and the writable fields of each CSR (R64, R65, R67, R140, R204, R211, R213, R291, R344, R353, R354). -/

namespace Sys2Proof.Machine

/-- Set sticky flags in FSTAT (R38). -/
def Csrs.raise (c : Csrs) (f : BitVec 6) : Csrs := { c with fstat := c.fstat ||| f.setWidth 64 }

/-- Set sticky flags of the context in focus (R38). Log entry 32 (DEDUCED). -/
def State.raise (s : State) (f : BitVec 6) : State := s.mcsr (fun c => c.raise f)

/-- The mode of RNDM (R39). -/
def Csrs.mode (c : Csrs) : RMode := RMode.ofCode (bitsOf c.rndm 2 0)

/-- The mode in force for the issuing strand's word (R39, R96). -/
def State.mode (s : State) : RMode := RMode.ofCode (bitsOf (s.csrAs 0x009 s.ctx.csr.rndm) 2 0)

/-- Flags of a word with bound n join FSTAT when it completes: at the latest n issue cycles on (R38, R68, R141).
Log entry 32 (DEDUCED). -/
def State.raiseIn (s : State) (f : BitVec 6) (n : Nat) : State :=
  if n ≤ 1 then s.raise f
  else s.mctx (fun c => { c with lateFlags := c.lateFlags ++ [{ strand := c.cur, left := n, tick := s.now + (n - 1), flags := f }] })

/-- One step of the generator: shift right, with the mask when the bit shifted out is 1 (R34). -/
def lfsrStep (x : BitVec 32) : BitVec 32 := if x.getLsbD 0 then (x >>> 1) ^^^ 0x80200003 else x >>> 1

/-- n steps of the generator. -/
def lfsrSteps : Nat → BitVec 32 → BitVec 32
  | 0, x => x
  | n + 1, x => lfsrSteps n (lfsrStep x)

/-- The generator's value for the rounding that takes its (n + 1)th step. -/
def State.rnd (s : State) (n : Nat) : Nat := (lfsrSteps (n + 1) s.plate.lfsr).toNat

/-- Advance the generator by n steps. -/
def State.stepLfsr (s : State) (n : Nat) : State := s.mplate (fun p => { p with lfsr := lfsrSteps n p.lfsr })

/-- The generator of a plate when it is released at stage 4 (R34). -/
def lfsrSeed (plate : Nat) : BitVec 32 := 0x6D2B79F5 ^^^ BitVec.ofNat 32 plate

/-! ### CSRs by number (R88) -/

/-- What CSRR reads of a CSR (R211). -/
def State.csrRead (s : State) (n : Nat) : Word :=
  let c := s.ctx
  match n with
  | 0x000 => BitVec.ofNat 64 c.id.toNat
  | 0x001 => BitVec.ofNat 64 c.plate
  | 0x002 => BitVec.ofNat 64 s.cycle
  | 0x003 => BitVec.ofNat 64 (s.die (dieOfPlate c.plate)).point
  | 0x004 => BitVec.ofNat 64 c.task.mode
  | 0x008 => c.csr.vtype
  | 0x009 => c.csr.rndm
  | 0x00A => c.csr.vvb
  | 0x00B => c.csr.mvb
  | 0x00C => c.csr.mvs
  | 0x00D => c.csr.versel
  | 0x00E => c.csr.fstat
  | 0x010 => c.csr.dmr
  | 0x011 => c.csr.phcnt
  | 0x020 => c.csr.tvec
  | 0x021 => c.csr.tcause
  | 0x022 => c.csr.tpc
  | 0x023 => c.csr.tword
  | 0x024 => c.csr.tesn
  | 0x025 => c.csr.taddr
  | 0x026 => c.csr.tstrand
  | 0x030 => c.csr.rbpm
  | 0x031 => BitVec.ofNat 64 (c.spres + (if c.spres = 0 then 0 else c.base * 256))
  | 0x032 => BitVec.ofNat 64 (s.plate.spcap (s.die (dieOfPlate c.plate)).point)
  | 0x040 => c.csr.accbase
  | 0x041 => c.csr.accctl
  | 0x050 => c.csr.reqto
  | 0x051 => c.csr.staleto
  | 0x070 => c.csr.sigctl
  | 0x071 => c.csr.sigstat
  | _ => 0

/-- A word with only the bits of a mask. -/
def maskTo (w : Word) (m : Nat) : Word := w &&& BitVec.ofNat 64 m

/-- The CSRs after a word would leave value v in CSR n: none when that leaves a reserved value (ILLEGAL); RO CSRs and RO
and RZ fields are unchanged (R6, R39, R64, R65, R67, R88, R89, R204, R213, R291, R344, R353). SIGSTAT is W1C (R354). -/
def Csrs.write (c : Csrs) (n : Nat) (v : Word) : Option Csrs :=
  match n with
  | 0x008 => let t := maskTo v 0xF; if t = 0 ∨ t = 1 ∨ t = 2 ∨ t = 10 then some { c with vtype := t } else none
  | 0x009 => if 5 ≤ bitsOf v 2 0 then none else some { c with rndm := maskTo v 7 }
  | 0x00A => if bitsOf v 14 8 < 4 then none else some { c with vvb := maskTo v 0x7F00 }
  | 0x00B => if bitsOf v 14 10 = 0 then none else some { c with mvb := maskTo v 0x7C00 }
  | 0x00C => if bitsOf v 3 2 = 3 ∨ bitsOf v 1 0 = 3 then none else some { c with mvs := maskTo v 0xF }
  | 0x00D => some { c with versel := maskTo v 0xFFFF }
  | 0x00E => some { c with fstat := maskTo v 0x3F }
  | 0x020 => some { c with tvec := maskTo v 0x01FFFFFFFFFFFFF0 }
  | 0x022 => some { c with tpc := v }
  | 0x030 =>
    if (List.range 14).any (fun i => bitsOf v (2 * i + 5) (2 * i + 4) == 3) then none
    else some { c with rbpm := maskTo v 0xFFFFFFF0 }
  | 0x040 => some { c with accbase := maskTo v 0x01FFFFFFFFFFFFF0 }
  | 0x041 =>
    let log := bitsOf v 12 8
    if (1 ≤ log ∧ log ≤ 11) ∨ log = 31 then none
    else some { c with accctl := setBits (setBits c.accctl 12 8 log) 2 0 (bitsOf v 2 0) }
  | 0x050 => some { c with reqto := maskTo v 0xFFFFFFFF }
  | 0x051 => some { c with staleto := maskTo v 0xFFFFFFFF }
  | 0x070 => some { c with sigctl := maskTo v 3 }
  | 0x071 => some { c with sigstat := c.sigstat &&& ~~~(maskTo v 3) }
  | _ => some c

end Sys2Proof.Machine
end

