-- ==== Sys2Proof/Machine/Vector.lean ====
section
/-! DEFINITION. The vector words of 07 but for the VSCL group: VF, VI, VU, VCVT, VCMP, VPERM and VRED (R139 to R149). -/

namespace Sys2Proof.Machine

/-! ### Elements of a register (R139) -/

/-- The first n elements of width w of a register. -/
def elemsOf (w n : Nat) (v : VReg) : List Nat := (List.range n).map (fun i => v.toNat / 2 ^ (w * i) % 2 ^ w)

/-- Elements of width w packed from element 0 up. -/
def packElems (w : Nat) : List Nat → Nat
  | [] => 0
  | x :: xs => x % 2 ^ w + 2 ^ w * packElems w xs

/-- A register that holds the elements densely, and zeros past the last. -/
def vregOf (w : Nat) (xs : List Nat) : VReg := BitVec.ofNat 2048 (packElems w xs)

/-- VTYPE.TYPE (R140). -/
def State.vt (s : State) : Nat := bitsOf (s.csrAs 0x008 s.ctx.csr.vtype) 3 0

/-- The binary format of VTYPE 0 to 2. -/
def vtFmt (t : Nat) : FFmt := if t = 0 then fp32 else if t = 1 then bf16 else fp16

/-- Join the flags of a list of rounded elements. -/
def flagsOf (l : List (Nat × BitVec 6)) : BitVec 6 := l.foldl (fun f e => f ||| e.2) 0

/-- Rounding under SR steps the generator 64 times in a word that rounds (R34). Log entry 31 (DESIGN CHOICE). -/
def State.vsteps (s : State) (rounded : Bool) : State :=
  if rounded ∧ s.mode = .sr then s.stepLfsr 64 else s

/-- The generator's value for lane i, needed under SR only (R34). -/
def State.laneRnd (s : State) (i : Nat) : Nat := if s.mode = .sr then s.rnd i else 0

/-- Write rounded elements of width w to a vector register and join their flags (R38, R139). Log entry 32 (DEDUCED). -/
def State.setElems (s : State) (d : Reg) (w : Nat) (l : List (Nat × BitVec 6)) (rounded : Bool) (bound : Nat) : State :=
  ((s.setV d (vregOf w (l.map (fun e => e.1))) bound).raiseIn (flagsOf l) bound).vsteps rounded

/-- A word of strand X whose only effect is v[d] ← f, with no flag. -/
def vWord (i : Instr) (k : Ctl) (d : Reg) (regs : List Reg) (bound : Nat) (f : State → VReg) (s : State) : Out :=
  .next (s.issue i k onlyX false noCheck (fun s => s.inRange regs (.done (s.setV d (f s) bound) bound)))

/-! ### VF (R142) -/

/-- The exact results of VF on element words a, b and the old destination c. -/
inductive VfOp where
  | add | sub | mul | fma | fms | abd | max | min
  deriving DecidableEq, Repr

/-- The exact result of a VF element and the flags of its operation (R38, R142). An infinity times zero beside a NaN addend sets NV.
Log entry 61 (DESIGN CHOICE). -/
def vfExact (op : VfOp) (mode : RMode) (a b c : Num) : NumFlag :=
  match op with
  | .add => Num.add mode a b
  | .sub => Num.add mode a b.neg
  | .mul => Num.mul a b
  | .fma => let p := Num.mul a b; let r := Num.add mode c p.1; (r.1, p.2 ||| r.2)
  | .fms => let p := Num.mul a b; let r := Num.add mode c p.1.neg; (r.1, p.2 ||| r.2)
  | _ => let r := Num.add mode a b.neg; (r.1.abs, r.2)

/-- One element of VF: picked, or rounded once into T (R142). -/
def vfLane (op : VfOp) (t : Nat) (mode : RMode) (rnd a b c : Nat) : Nat × BitVec 6 :=
  match op with
  | .max => (pickMax t true a b (vtFmt t).nan, 0)
  | .min => (pickMax t false a b (vtFmt t).nan, 0)
  | op =>
    let r := vfExact op mode (decodeFmt t a).1 (decodeFmt t b).1 (decodeFmt t c).1
    let w := roundFmt t r.1 mode false rnd
    (w.1, w.2 ||| r.2)

/-- The effect of a VF word (R141, R142): ILLEGAL under VTYPE 10 (R91). -/
def vfRes (op : VfOp) (d a b : Reg) (s : State) : Res :=
  let t := s.vt
  if t = 10 then .trap .illegal s.anyAddr
  else
    let w := fmtWidth t
    let mode := s.mode
    let va := elemsOf w 64 (s.v a)
    let vb := elemsOf w 64 (s.v b)
    let vc := elemsOf w 64 (s.v d)
    let l := (List.range 64).map (fun i =>
      vfLane op t mode (s.laneRnd i) (va.getD i 0) (vb.getD i 0) (vc.getD i 0))
    .done (s.setElems d w l (op ≠ .max ∧ op ≠ .min) 4) 4

/-- A VF word. -/
def vfWord (i : Instr) (k : Ctl) (op : VfOp) (d a b : Reg) (s : State) : Out :=
  .next (s.issue i k onlyX false noCheck (fun s => s.inRange [d, a, b] (vfRes op d a b s)))

/-- VADD: a + b (R142). -/
def execVadd (k : Ctl) (d a b : Reg) : State → Out := vfWord (.vadd k d a b) k .add d a b
/-- VSUB: a − b (R142). -/
def execVsub (k : Ctl) (d a b : Reg) : State → Out := vfWord (.vsub k d a b) k .sub d a b
/-- VMUL: a × b (R142). -/
def execVmul (k : Ctl) (d a b : Reg) : State → Out := vfWord (.vmul k d a b) k .mul d a b
/-- VFMA: c + a × b, rounded once (R142). -/
def execVfma (k : Ctl) (d a b : Reg) : State → Out := vfWord (.vfma k d a b) k .fma d a b
/-- VMAX: pick of the larger (R142). -/
def execVmax (k : Ctl) (d a b : Reg) : State → Out := vfWord (.vmax k d a b) k .max d a b
/-- VMIN: pick of the smaller (R142). -/
def execVmin (k : Ctl) (d a b : Reg) : State → Out := vfWord (.vmin k d a b) k .min d a b
/-- VFMS: c − a × b, rounded once (R142). -/
def execVfms (k : Ctl) (d a b : Reg) : State → Out := vfWord (.vfms k d a b) k .fms d a b
/-- VABD: |a − b| (R142). -/
def execVabd (k : Ctl) (d a b : Reg) : State → Out := vfWord (.vabd k d a b) k .abd d a b

/-! ### VI (R143) -/

/-- The 32-bit lanes of two registers combined. -/
def lanes2 (f : BitVec 32 → BitVec 32 → BitVec 32) (a b : VReg) : VReg :=
  vregOf 32 ((List.range 64).map (fun i =>
    (f (BitVec.ofNat 32 (a.toNat / 2 ^ (32 * i))) (BitVec.ofNat 32 (b.toNat / 2 ^ (32 * i)))).toNat))

/-- A VI word. -/
def viWord (i : Instr) (k : Ctl) (d a b : Reg) (bound : Nat) (f : BitVec 32 → BitVec 32 → BitVec 32) : State → Out :=
  vWord i k d [d, a, b] bound (fun s => lanes2 f (s.v a) (s.v b))

/-- VIADD (R143). -/
def execViadd (k : Ctl) (d a b : Reg) : State → Out := viWord (.viadd k d a b) k d a b 1 (fun x y => x + y)
/-- VISUB (R143). -/
def execVisub (k : Ctl) (d a b : Reg) : State → Out := viWord (.visub k d a b) k d a b 1 (fun x y => x - y)
/-- VIMUL: low 32 bits (R143). -/
def execVimul (k : Ctl) (d a b : Reg) : State → Out := viWord (.vimul k d a b) k d a b 3 (fun x y => x * y)
/-- VAND (R143). -/
def execVand (k : Ctl) (d a b : Reg) : State → Out := viWord (.vand k d a b) k d a b 1 (fun x y => x &&& y)
/-- VOR (R143). -/
def execVor (k : Ctl) (d a b : Reg) : State → Out := viWord (.vor k d a b) k d a b 1 (fun x y => x ||| y)
/-- VXOR (R143). -/
def execVxor (k : Ctl) (d a b : Reg) : State → Out := viWord (.vxor k d a b) k d a b 1 (fun x y => x ^^^ y)
/-- VSHL by b[4:0] (R143). -/
def execVshl (k : Ctl) (d a b : Reg) : State → Out := viWord (.vshl k d a b) k d a b 1 (fun x y => x <<< (y.toNat % 32))
/-- VSHR by b[4:0], zeros in (R143). -/
def execVshr (k : Ctl) (d a b : Reg) : State → Out := viWord (.vshr k d a b) k d a b 1 (fun x y => x >>> (y.toNat % 32))

/-! ### VU (R144) -/

/-- A unary element that changes the sign bit alone: NaN gives the default NaN (R144). -/
def signLane (t : Nat) (f : Num → Num) (a : Nat) : Nat :=
  let x := (decodeFmt t a).1
  (roundFmt t (f x) .rne false 0).1

/-- The 64 elements of va under VTYPE 10 through a function on 32-bit lanes. -/
def intLanes (f : BitVec 32 → BitVec 32) (a : VReg) : VReg := lanes2 (fun x _ => f x) a a

/-- A VU word that sets no flag: NaN-aware sign change, or the integer form under VTYPE 10 (R144). -/
def vsignWord (i : Instr) (k : Ctl) (d a : Reg) (f : Num → Num) (g : BitVec 32 → BitVec 32) : State → Out :=
  vWord i k d [d, a] 1 (fun s =>
    let t := s.vt
    if t = 10 then intLanes g (s.v a)
    else vregOf (fmtWidth t) ((elemsOf (fmtWidth t) 64 (s.v a)).map (signLane t f)))

/-- VNEG (R144). -/
def execVneg (k : Ctl) (d a : Reg) : State → Out := vsignWord (.vneg k d a) k d a Num.neg (fun x => -x)
/-- VABS (R144). -/
def execVabs (k : Ctl) (d a : Reg) : State → Out :=
  vsignWord (.vabs k d a) k d a Num.abs (fun x => if x.toInt < 0 then -x else x)

/-- VRCP's exact result. -/
def rcpNum (x : Num) : NumFlag := Num.div .one x

/-- VRSQ's exact result and its special operands. -/
def rsqNum (x : Num) : NumFlag :=
  match x with
  | .nan => (.nan, 0)
  | .inf true => (.nan, fNV)
  | .inf false => (.fin false 0 0 false, 0)
  | .fin n 0 _ _ => (.inf n, 0)
  | .fin true _ _ _ => (.nan, fNV)
  | .fin false m e _ => let r := rsqrtMag m e; (.fin false r.1 r.2.1 r.2.2, 0)

/-- VEX2's exact result and its special operands. Log entry 29 (DEDUCED). -/
def ex2Num (x : Num) : NumFlag :=
  match x with
  | .nan => (.nan, 0)
  | .inf n => (if n then .fin false 0 0 false else .inf false, 0)
  | .fin n m e _ => (exp2Num n m e, 0)

/-- VLG2's exact result and its special operands. Log entry 29 (DEDUCED). -/
def lg2Num (x : Num) : NumFlag :=
  match x with
  | .nan => (.nan, 0)
  | .inf true => (.nan, fNV)
  | .inf false => (.inf false, 0)
  | .fin _ 0 _ _ => (.inf true, 0)
  | .fin true _ _ _ => (.nan, fNV)
  | .fin false m e _ => (log2Num m e, 0)

/-- The operand is none of the table of special operands, so the result is rounded (R144). Log entry 31 (DESIGN CHOICE). -/
def roundedOperand (x : Num) (negative : Bool) : Bool :=
  match x with
  | .fin n m _ _ => decide (m ≠ 0) && (negative || !n)
  | _ => false

/-- A VU word that rounds: ILLEGAL at execution under VTYPE 10 (R144). -/
def vuWord (i : Instr) (k : Ctl) (d a : Reg) (f : Num → NumFlag) (negative : Bool) (s : State) : Out :=
  .next (s.issue i k onlyX false noCheck (fun s => s.inRange [d, a] (
    let t := s.vt
    if t = 10 then .trap .illegal s.anyAddr
    else
      let w := fmtWidth t
      let xs := (elemsOf w 64 (s.v a)).map (fun e => (decodeFmt t e).1)
      let l := (List.range 64).map (fun i =>
        let r := f (xs.getD i .nan)
        let o := roundFmt t r.1 s.mode false (s.laneRnd i)
        (o.1, o.2 ||| r.2))
      .done (s.setElems d w l (xs.any (fun x => roundedOperand x negative)) 8) 8)))

/-- VRCP: 1 / x (R144). -/
def execVrcp (k : Ctl) (d a : Reg) : State → Out := vuWord (.vrcp k d a) k d a rcpNum true
/-- VRSQ: 1 / √x (R144). -/
def execVrsq (k : Ctl) (d a : Reg) : State → Out := vuWord (.vrsq k d a) k d a rsqNum false
/-- VEX2: 2^x (R144). -/
def execVex2 (k : Ctl) (d a : Reg) : State → Out := vuWord (.vex2 k d a) k d a ex2Num true
/-- VLG2: log2 x (R144). -/
def execVlg2 (k : Ctl) (d a : Reg) : State → Out := vuWord (.vlg2 k d a) k d a lg2Num false

/-- The largest integer ≤ x; a zero keeps its sign (R144). -/
def floorNum (x : Num) : Num :=
  match x with
  | .fin n m e st => if m = 0 then .fin n 0 0 false
    else let r := roundQuantum .rd n m e st 0 0; .fin n r.1 0 false
  | x => x

/-- VFLR: exact, no flag; bound 4 (R141, R144). -/
def execVflr (k : Ctl) (d a : Reg) (s : State) : Out :=
  .next (s.issue (.vflr k d a) k onlyX false noCheck (fun s => s.inRange [d, a] (
    let t := s.vt
    if t = 10 then .trap .illegal s.anyAddr
    else
      let l := (elemsOf (fmtWidth t) 64 (s.v a)).map (signLane t floorNum)
      .done (s.setV d (vregOf (fmtWidth t) l) 4) 4)))

/-- VMOV: all 256 bytes (R144). -/
def execVmov (k : Ctl) (d a : Reg) : State → Out := vWord (.vmov k d a) k d [d, a] 1 (fun s => s.v a)

/-! ### VCVT (R145, R146) -/

/-- One element of VCVT; a clipped INT32 to INT8 sets NV, an integer source is exact (R37, R146). -/
def cvtLane (dst src : Nat) (mode : RMode) (sat : Bool) (rnd a : Nat) : Nat × BitVec 6 :=
  let x := decodeFmt src a
  let r := roundFmt dst x.1 mode sat rnd
  (r.1, r.2 ||| x.2)

/-- The pair makes roundings that take generator steps (R34). Log entry 31 (DESIGN CHOICE). -/
def cvtSteps (dst src : Nat) : Bool :=
  takesStep dst && !(decide (dst = 9 ∧ src = 10) || decide (dst = 10 ∧ src = 9))

/-- VCVT (R145, R146): SCALE_INV follows completion when a scale was invalid. -/
def execVcvt (k : Ctl) (d a : Reg) (t src : BitVec 4) (u : Bool) (s : State) : Out :=
  .next (s.issue (.vcvt k d a t src u) k onlyX false noCheck (fun s => s.inRange [d, a] (
    let n := if t.toNat = 11 ∨ src.toNat = 11 then 32 else 64
    let xs := elemsOf (fmtWidth src.toNat) n (s.v a)
    let l := (List.range n).map (fun i =>
      cvtLane t.toNat src.toNat s.mode u (s.laneRnd i) (xs.getD i 0))
    let r := s.setElems d (fmtWidth t.toNat) l (cvtSteps t.toNat src.toNat) 3
    if flagsOf l &&& fSINV ≠ 0 then .after r .scaleInv 0 else .done r 3)))

/-! ### VCMP (R147) -/

/-- The condition of VCMP on two values, one of which may be NaN. -/
def vcond (c : Nat) (x y : Num) : Bool :=
  let nan := x.isNan || y.isNan
  match c with
  | 0 => Num.eq x y
  | 1 => !(Num.eq x y)
  | 2 => Num.lt x y
  | 3 => Num.lt x y || Num.eq x y
  | 4 => Num.lt y x
  | 5 => Num.lt y x || Num.eq x y
  | 6 => nan
  | _ => !nan

/-- A list of Bools as a word, element i at bit i. -/
def wordOfBits (l : List Bool) : Word :=
  BitVec.ofNat 64 (l.foldr (fun b n => (if b then 1 else 0) + 2 * n) 0)

/-- VCMP: every lane of vp[p], no flag (R147). -/
def execVcmp (k : Ctl) (p : BitVec 3) (a b : Reg) (c : BitVec 3) (s : State) : Out :=
  .next (s.issue (.vcmp k p a b c) k onlyX false noCheck (fun s => s.inRange [a, b] (
    let t := s.vt
    let va := elemsOf (fmtWidth t) 64 (s.v a)
    let vb := elemsOf (fmtWidth t) 64 (s.v b)
    let bits := (List.range 64).map (fun i => vcond c.toNat (decodeFmt t (va.getD i 0)).1 (decodeFmt t (vb.getD i 0)).1)
    .done (s.setVp p.toNat (wordOfBits bits) 2) 2)))

/-! ### VPERM (R148) -/

/-- 32-bit lane i of a register. -/
def lane32 (v : VReg) (i : Nat) : Nat := v.toNat / 2 ^ (32 * i) % 2 ^ 32

/-- A register given lane by lane. -/
def vregLanes (f : Nat → Nat) : VReg := vregOf 32 ((List.range 64).map f)

/-- VSEL by vp0 (R148). -/
def execVsel (k : Ctl) (d a b : Reg) : State → Out :=
  vWord (.vsel k d a b) k d [d, a, b] 2 (fun s =>
    let m := s.vp 0
    vregLanes (fun i => if m.getLsbD i then lane32 (s.v a) i else lane32 (s.v b) i))

/-- VPRM: va's lane named by vb's lane [5:0] (R148). -/
def execVprm (k : Ctl) (d a b : Reg) : State → Out :=
  vWord (.vprm k d a b) k d [d, a, b] 2 (fun s => vregLanes (fun i => lane32 (s.v a) (lane32 (s.v b) i % 64)))

/-- VBC: x[a][31:0] in every lane (R148). -/
def execVbc (k : Ctl) (d a : Reg) : State → Out :=
  vWord (.vbc k d a) k d [d] 2 (fun s => vregLanes (fun _ => (s.x a).toNat % 2 ^ 32))

/-- VEXT: x[d] ← va lane x[b][5:0] (R148). -/
def execVext (k : Ctl) (d a b : Reg) (s : State) : Out :=
  .next (s.issue (.vext k d a b) k onlyX false noCheck (fun s => s.inRange [a] (
    .done (s.setX d (BitVec.ofNat 64 (lane32 (s.v a) (bitsOf (s.x b) 5 0))) 2) 2)))

/-- VINS: lane x[b][5:0] ← x[a][31:0] (R148). -/
def execVins (k : Ctl) (d a b : Reg) : State → Out :=
  vWord (.vins k d a b) k d [d] 2 (fun s =>
    let at_ := bitsOf (s.x b) 5 0
    vregLanes (fun i => if i = at_ then (s.x a).toNat % 2 ^ 32 else lane32 (s.v d) i))

/-- VROT: byte k ← va byte (k + x[b][7:0]) mod 256 (R148). -/
def execVrot (k : Ctl) (d a b : Reg) : State → Out :=
  vWord (.vrot k d a b) k d [d, a] 2 (fun s => (s.v a).rotateRight (8 * bitsOf (s.x b) 7 0))

/-- VZIP (R148). -/
def execVzip (k : Ctl) (d a b : Reg) : State → Out :=
  vWord (.vzip k d a b) k d [d, a, b] 2 (fun s =>
    vregLanes (fun i => if i % 2 = 0 then lane32 (s.v a) (i / 2) else lane32 (s.v b) (i / 2)))

/-- VUZP (R148). -/
def execVuzp (k : Ctl) (d a b : Reg) : State → Out :=
  vWord (.vuzp k d a b) k d [d, a, b] 2 (fun s =>
    vregLanes (fun i => if i < 32 then lane32 (s.v a) (2 * i) else lane32 (s.v b) (2 * (i - 32))))

/-! ### VRED (R149) -/

/-- One level of the tree: neighbours combined in ascending order; `n` counts the nodes before it. -/
def redLevel {α : Type} (node : Nat → α → α → α × BitVec 6) : Nat → List α → List α × BitVec 6
  | n, x :: y :: rest =>
    let r := node n x y
    let q := redLevel node (n + 1) rest
    (r.1 :: q.1, r.2 ||| q.2)
  | _, l => (l, 0)

/-- The tree over 2^levels leaves. -/
def redTree {α : Type} (node : Nat → α → α → α × BitVec 6) : Nat → Nat → List α → List α × BitVec 6
  | 0, _, l => (l, 0)
  | k + 1, n, l =>
    let r := redLevel node n l
    let q := redTree node k (n + 2 ^ k) r.1
    (q.1, r.2 ||| q.2)

/-- A rounded sum node: rounded into T, and decoded for the next level (R149). -/
def sumNode (t : Nat) (mode : RMode) (rnd : Nat → Nat) (n : Nat) (x y : Num × Nat) : (Num × Nat) × BitVec 6 :=
  let r := Num.add mode x.1 y.1
  let w := roundFmt t r.1 mode false (rnd n)
  (((decodeFmt t w.1).1, w.1), r.2 ||| w.2)

/-- A VRED word: element 0 is the tree's result, every other byte 0; bound 6 (R141, R149). -/
def vredWord (i : Instr) (k : Ctl) (d : Reg) (regs : List Reg) (rounds : Bool) (f : State → List Nat × BitVec 6)
    (s : State) : Out :=
  .next (s.issue i k onlyX false noCheck (fun s => s.inRange regs (
    let r := f s
    let s' := ((s.setV d (vregOf (fmtWidth s.vt) (r.1.take 1)) 6).raiseIn r.2 6).vsteps
      (rounds && !(s.vt == 10))
    .done s' 6)))

/-- The wrapped sum of 32-bit words. -/
def wrapSum (l : List Nat) : Nat := l.foldl (fun n x => (n + x) % 2 ^ 32) 0

/-- The leaves of a register under VTYPE with their words. -/
def State.leaves (s : State) (a : Reg) : List Nat := elemsOf (fmtWidth s.vt) 64 (s.v a)

/-- The float tree of VRADD and VDOT over exact leaves and its flags. -/
def State.sumTree (s : State) (leaves : List NumFlag) : List Nat × BitVec 6 :=
  let r := redTree (sumNode s.vt s.mode s.laneRnd) 6 0 (leaves.map (fun x => (x.1, 0)))
  (r.1.map (fun x => x.2), leaves.foldl (fun f x => f ||| x.2) r.2)

/-- The pick tree of words under VTYPE: floats by R142, 32-bit words by a key. -/
def State.pickTree (s : State) (isMax : Bool) (key : Nat → Int) (leaves : List Nat) : List Nat × BitVec 6 :=
  let t := s.vt
  let pick (a b : Nat) : Nat :=
    if t = 10 then (if decide (key b ≤ key a) = isMax then a else b) else pickMax t isMax a b (vtFmt t).nan
  redTree (fun _ a b => (pick a b, 0)) 6 0 leaves

/-- A 32-bit word as a signed number. -/
def signed32 (n : Nat) : Int := (BitVec.ofNat 32 n).toInt

/-- VRADD (R149). -/
def execVradd (k : Ctl) (d a : Reg) : State → Out :=
  vredWord (.vradd k d a) k d [d, a] true (fun s =>
    if s.vt = 10 then ([wrapSum (s.leaves a)], 0)
    else s.sumTree ((s.leaves a).map (decodeFmt s.vt)))

/-- VRMAX (R149). -/
def execVrmax (k : Ctl) (d a : Reg) : State → Out :=
  vredWord (.vrmax k d a) k d [d, a] false (fun s => s.pickTree true signed32 (s.leaves a))

/-- VRMIN (R149). -/
def execVrmin (k : Ctl) (d a : Reg) : State → Out :=
  vredWord (.vrmin k d a) k d [d, a] false (fun s => s.pickTree false signed32 (s.leaves a))

/-- VDOT: the leaves are exact products (R149). -/
def execVdot (k : Ctl) (d a b : Reg) : State → Out :=
  vredWord (.vdot k d a b) k d [d, a, b] true (fun s =>
    let t := s.vt
    if t = 10 then ([wrapSum ((List.range 64).map (fun i => (s.leaves a).getD i 0 * (s.leaves b).getD i 0 % 2 ^ 32))], 0)
    else s.sumTree ((List.range 64).map (fun i =>
      Num.mul (decodeFmt t ((s.leaves a).getD i 0)).1 (decodeFmt t ((s.leaves b).getD i 0)).1)))

/-- VRAMX: the largest absolute value; unsigned under VTYPE 10 (R149). -/
def execVramx (k : Ctl) (d a : Reg) : State → Out :=
  vredWord (.vramx k d a) k d [d, a] false (fun s =>
    let t := s.vt
    let leaves := (s.leaves a).map (fun x => if t = 10 then (signed32 x).natAbs else signLane t Num.abs x)
    s.pickTree true (fun n => (n : Int)) leaves)

end Sys2Proof.Machine
end

