-- ==== Sys2Proof/Machine/Record.lean ====
section
/-! DEFINITION. Tensor metadata records (R222 to R228), their policies (R231), the governor's decisions (R227, R232), the
histogram and the scaled quantisation that vector words, drains, copies and collectives share (R152 to R154, R225, R233). -/

namespace Sys2Proof.Machine

/-! ### The record (R222) -/

/-- The sixteen doublewords of a record as its owner die holds them. -/
def State.recordAt (s : State) (pa : Nat) : List Word := (List.range 16).map (fun i => s.memDw (pa + 8 * i))

/-- A record as a word reads it: after the stores that are on their way (R224, R282). -/
def State.record (s : State) (pa : Nat) : List Word := s.afterRecords.recordAt pa

/-- Bits of doubleword i. -/
def recBits (r : List Word) (i hi lo : Nat) : Nat := bitsOf (r.getD i 0) hi lo

/-- Replace bits of doubleword i. -/
def recPut (r : List Word) (i hi lo v : Nat) : List Word := r.set i (setBits (r.getD i 0) hi lo v)

def recHead (r : List Word) : Nat := recBits r 0 1 0
def recPolicy (r : List Word) : Nat := recBits r 0 11 8
def recRung (r : List Word) : Nat := recBits r 0 13 12
def recOwner (r : List Word) : Nat := recBits r 0 15 14
def recQuiet (r : List Word) : Nat := recBits r 0 23 16
def recContrib (r : List Word) : Nat := recBits r 0 47 32
def recCloses (r : List Word) : Nat := recBits r 0 63 48
/-- PTLEN in blocks. -/
def recPtlen (r : List Word) : Nat := let n := recBits r 4 59 32; if n = 0 then 2 ^ 28 else n
def recPtdef (r : List Word) : Nat := recBits r 4 63 60
def recPtab (r : List Word) : Nat := recBits r 5 56 0
def recSarr (r : List Word) : Nat := recBits r 6 56 0

/-- The entry of ring slot k. -/
def recSlot (r : List Word) (k : Nat) : ScaleEnt :=
  let b := 32 * (k % 2)
  { ver := BitVec.ofNat 16 (recBits r (1 + k / 2) (b + 15) b), fmt := BitVec.ofNat 4 (recBits r (1 + k / 2) (b + 19) (b + 16)),
    e := (BitVec.ofNat 8 (recBits r (1 + k / 2) (b + 27) (b + 20))).toInt }

/-- The current entry: that of slot HEAD. -/
def recCur (r : List Word) : ScaleEnt := recSlot r (recHead r)

/-- Slot k holds an entry; the current one always does. -/
def recValid (r : List Word) (k : Nat) : Bool := bitOf (r.getD 0 0) (4 + k) || k == recHead r

/-- The valid ring entry that a test picks, newest first. -/
def recFind (r : List Word) (f : ScaleEnt → Bool) : Option ScaleEnt :=
  ((List.range 4).map (fun i => (recHead r + 4 - i) % 4)).findSome? (fun k =>
    if recValid r k && f (recSlot r k) then some (recSlot r k) else none)

/-- The ring entry of a version (R155). -/
def recVersion (r : List Word) (v : BitVec 16) : Option ScaleEnt := recFind r (fun e => e.ver == v)

/-- The ring entry a postmark resolves to (R228). -/
def recPostmark (r : List Word) (pm : Nat) : Option ScaleEnt := recFind r (fun e => decide (e.ver.toNat % 16 = pm))

/-- The formats of R151. -/
def scaledFormat (f : Nat) : Bool := decide (1 ≤ f) && decide (f ≤ 9)

/-- A ring entry holds an admitted format; one that does not is a reserved encoding (R19, R151). -/
def ScaleEnt.admitted (e : ScaleEnt) : Bool := scaledFormat e.fmt.toNat

/-! ### Policies (R231) -/

/-- Byte i of a policy entry. -/
def polByte (p : BitVec 256) (i : Nat) : Nat := p.toNat / 256 ^ i % 256

/-- Policy entry n. -/
def State.policyOf (s : State) (n : Nat) : BitVec 256 := SMap.get 0 s.policy n

def polV (p : BitVec 256) : Bool := polByte p 0 % 2 == 1
def polHeadroom (p : BitVec 256) : Nat := polByte p 1 % 16
def polTol (p : BitVec 256) : Nat := polByte p 2 + 256 * polByte p 3
def polUp (p : BitVec 256) : Nat := polByte p 4
def polDown (p : BitVec 256) : Nat := polByte p 5
def polHyst (p : BitVec 256) : Nat := polByte p 6
def polLadlen (p : BitVec 256) : Nat := polByte p 7 % 8
def polFmt (p : BitVec 256) (k : Nat) : Nat := polByte p (8 + k) % 16
def polLo (p : BitVec 256) (k : Nat) : Int := (BitVec.ofNat 8 (polByte p (12 + 2 * k))).toInt
def polHi (p : BitVec 256) (k : Nat) : Int := (BitVec.ofNat 8 (polByte p (13 + 2 * k))).toInt

/-- POLICY_SET admits an entry (R231). -/
def polOk (p : BitVec 256) : Bool :=
  decide (polByte p 0 < 2) && decide (polByte p 1 < 16) && decide (polUp p ≤ 127) && decide (polDown p ≤ 127) &&
  decide (polByte p 7 < 8) && decide (1 ≤ polLadlen p) && decide (polLadlen p ≤ 4) &&
  (List.range 4).all (fun k => decide (polByte p (8 + k) < 16) &&
    (decide (polLadlen p ≤ k) || (scaledFormat (polFmt p k) && decide (polLo p k ≤ polHi p k)))) &&
  (List.range 12).all (fun i => decide (polByte p (20 + i) = 0))

/-- A record is unusable: a reserved field non-zero, or HEAD's format not admitted by its policy (R224). -/
def State.unusable (s : State) (r : List Word) : Bool :=
  let p := s.policyOf (recPolicy r)
  let f := (recCur r).fmt.toNat
  let reserved := [(0, 3, 2), (0, 31, 24), (5, 63, 57), (6, 63, 57), (7, 11, 1), (7, 63, 57), (1, 31, 28), (1, 63, 60),
    (2, 31, 28), (2, 63, 60)]
  reserved.any (fun b => decide (recBits r b.1 b.2.1 b.2.2 ≠ 0)) ||
  !(if polV p then (List.range (polLadlen p)).any (fun k => decide (polFmt p k = f)) else scaledFormat f)

/-- Saturations a store may make: none for an invalid policy, which never raises TENSOR_OVF (R231, R233). -/
def State.tolerance (s : State) (r : List Word) : Option Nat :=
  let p := s.policyOf (recPolicy r)
  if polV p then some (polTol p) else none

/-! ### Changes at the owner die (R224, R226, R227) -/

/-- An agreement holds a record: its governor decisions, MDSETs and other agreements wait (R235). -/
def State.recHeld (s : State) (pa : Nat) : Bool :=
  s.colls.any (fun c => c.held.contains pa) || s.fires.any (fun f => f.held == some pa)

/-- Every cached copy of a record is invalidated (R230). -/
def State.invalidateRecord (s : State) (pa : Nat) : State :=
  s.mapPlates (fun p => { p with mcache := p.mcache.filter (fun q => !(q == pa)) })

/-- Store a record. -/
def State.putRecord (s : State) (pa : Nat) (r : List Word) : State :=
  s.rawBytes pa (r.flatMap (fun w => toBytes 8 w.toNat))

/-- new_version (R227): the current entry is valid whatever its bit says (R222), so its bit is set as HEAD leaves it.
Log entry 11 (DEDUCED). -/
def State.newVersion (s : State) (pa fmt : Nat) (e : Int) : State :=
  let r := s.recordAt pa
  let k := (recHead r + 1) % 4
  let b := 32 * (k % 2)
  let w := ((recCur r).ver.toNat + 1) % 65536 + fmt * 65536 + (e % 256).toNat * 2 ^ 20
  let h := recHead r
  let r := recPut (recPut (recPut (recPut r (1 + k / 2) (b + 31) b w) 0 (4 + k) (4 + k) 1) 0 (4 + h) (4 + h) 1) 0 1 0 k
  (s.putRecord pa r).invalidateRecord pa

/-- The value a context's record read found, kept in the plate's metadata cache (R230). Log entry 16 (DESIGN CHOICE). -/
def State.touchRecord (s : State) (pa : Nat) : State :=
  s.mplate (fun p => { p with mcache := (pa :: p.mcache.filter (fun q => !(q == pa))).take 32 })

/-- Bin k of a record. -/
def recBin (r : List Word) (k : Nat) : Nat := recBits r (8 + k / 4) (16 * (k % 4) + 15) (16 * (k % 4))

/-- Set bin k, saturated at 65,535 (R226). -/
def recSetBin (r : List Word) (k v : Nat) : List Word :=
  recPut r (8 + k / 4) (16 * (k % 4) + 15) (16 * (k % 4)) (min v 65535)

/-- Add to a count of DW3, saturated. -/
def recCount (r : List Word) (lo n : Nat) : List Word := recPut r 3 (lo + 15) lo (min (recBits r 3 (lo + 15) lo + n) 65535)

/-- A contribution reaches its record as one indivisible update (R226). -/
def State.contribute (s : State) (c : Contrib) : State :=
  let r := c.bins.foldl (fun r b => recSetBin r b.1 (recBin r b.1 + b.2)) (s.recordAt c.record)
  s.putRecord c.record (recCount (recCount (recCount (recCount r 0 c.zero) 16 c.nan) 32 c.ovf) 48 c.unf)

/-- The highest bin that is not empty (R232). -/
def recTop (r : List Word) : Option Nat := (List.range 32).reverse.find? (fun k => decide (recBin r k ≠ 0))

/-- What govern decides before it looks at the ladder: e2 and QUIET (R232). -/
def governStep (p : BitVec 256) (top : Option Nat) (e : Int) (quiet : Nat) : Int × Nat :=
  let t := 30 - polHeadroom p
  match top with
  | none => (e, quiet)
  | some h =>
    if t < h then (e + min (h - t) (polUp p), 0)
    else if h = t then (e, 0)
    else
      let q := min (quiet + 1) 255
      if polHyst p ≤ q then (e - min (t - h) (polDown p), 0) else (e, q)

/-- govern (R232): one indivisible update of a record. -/
def State.govern (s : State) (pa : Nat) : State :=
  let r := s.recordAt pa
  let p := s.policyOf (recPolicy r)
  let cur := recCur r
  let close (r : List Word) (moved : Bool) : List Word :=
    let r := (List.range 32).foldl (fun r k => recSetBin r k (if moved then 0 else recBin r k / 2)) r
    recPut (recPut r 0 63 48 0) 4 31 0 (recBits r 4 31 0 + 1)
  if polV p then
    let f := cur.fmt.toNat
    let d := governStep p (recTop r) cur.e (recQuiet r)
    let r0 := min (recRung r) (polLadlen p - 1)
    let up := decide (polHi p r0 < d.1) && decide (r0 + 1 < polLadlen p)
    let down := !up && decide (d.1 < polLo p r0) && decide (0 < r0)
    let r1 := if up then r0 + 1 else if down then r0 - 1 else r0
    let moved := up || down
    let f2 := if moved then polFmt p r1 else f
    let e2 := if moved then d.1 + emax f - emax f2 else d.1
    let e2 := min (max e2 (max (polLo p r1) (-128))) (min (polHi p r1) 127)
    let s := s.putRecord pa (recPut (recPut r 0 13 12 r1) 0 23 16 (if moved then 0 else d.2))
    let s := if e2 ≠ cur.e ∨ f2 ≠ f then s.newVersion pa f2 e2 else s
    s.putRecord pa (close (s.recordAt pa) moved)
  else s.putRecord pa (close r false)

/-- The closes of a record have reached its contributor count: the governor is to close it (R190, R224, R232). -/
def State.closeIfDue (s : State) (pa : Nat) : State :=
  let r := s.recordAt pa
  if recContrib r ≠ 0 ∧ recContrib r ≤ recCloses r ∧ ¬ s.closing.contains pa then { s with closing := s.closing ++ [pa] } else s

/-- A plain store reaches its record; one that changes DW0 to DW2 or DW4 to DW7 invalidates the cached copies, and one that
makes CONTRIB ≤ CLOSES starts the close (R224). -/
def State.performStore (s : State) (pa n : Nat) (v : Word) : State :=
  let base := pa / 128 * 128
  let before := s.recordAt base
  let t := s.rawBytes pa (toBytes n v.toNat)
  let after := t.recordAt base
  let changed (i : Nat) : Bool := !(before.getD i 0 == after.getD i 0)
  let t := if [0, 1, 2, 4, 5, 6, 7].any changed then t.invalidateRecord base else t
  let due (r : List Word) : Bool := decide (recContrib r ≠ 0) && decide (recContrib r ≤ recCloses r)
  if due after && !(due before) then t.closeIfDue base else t

/-- Send a contribution to the owner die (R152, R226). -/
def State.sendContrib (s : State) (c : Contrib) : State :=
  { s with contribs := s.contribs ++ [{ c with sent := s.fresh }] }

/-- The governor performs contributions and stores in the order in which they were sent (R224). -/
def State.performInOrder (s : State) (cs : List Contrib) : List (Nat × Nat × Word × Nat) → State
  | [] => cs.foldl State.contribute s
  | e :: es =>
    let first (c : Contrib) : Bool := decide (c.sent < e.2.2.2)
    (((cs.filter first).foldl State.contribute s).performStore e.1 e.2.1 e.2.2.1).performInOrder
      (cs.filter (fun c => !(first c))) es

/-- Everything on its way to a record has arrived (R152, R161, R224): what a later access of its governor meets. -/
def State.settleRecord (s : State) (pa : Nat) : State :=
  let mine (e : Nat × Nat × Word × Nat) : Bool := e.1 / 128 == pa / 128
  ({ s with contribs := s.contribs.filter (fun c => !(c.record / 128 == pa / 128)),
            recStores := s.recStores.filter (fun e => !(mine e)) }).performInOrder
    (s.contribs.filter (fun c => c.record / 128 == pa / 128)) (s.recStores.filter mine)

/-- The contributions of a context have reached their records before its state is saved (R152). -/
def State.settleContribs (s : State) (id : BitVec 32) : State :=
  ((s.contribs.filter (fun c => c.ctx == id)).map (fun c => c.record)).foldl State.settleRecord s

/-! ### Quantisation (R152, R153) -/

/-- What a store of scaled elements makes. -/
structure Quant where
  /-- Element words. -/
  elems  : List Nat
  /-- Block scales of MXFP4, one for each block of 32. -/
  scales : List Nat
  sat    : Nat
  flags  : BitVec 6
  bins   : SMap Nat
  zero   : Nat
  nan    : Nat
  ovf    : Nat
  unf    : Nat
  deriving DecidableEq, Repr

/-- The larger of two magnitudes; an infinity is the largest, a NaN is left out. -/
def maxMag (a b : Num) : Num :=
  match a, b with
  | .nan, y => y.abs
  | x, .nan => x.abs
  | .inf _, _ => .inf false
  | _, .inf _ => .inf false
  | .fin _ m e st, .fin _ n f sf => if cmpMag m e n f = .lt then .fin false n f sf else .fin false m e st

/-- The block scale of 32 scaled values: its word, its value (none for a NaN scale) and its rounding's flags (R153). -/
def blockScale (fmt : Nat) (xs : List Num) : Nat × Option Num × BitVec 6 :=
  if xs.any Num.isNan then ((if fmt = 7 then 0xFF else 0x7F), none, 0)
  else
    let amax := xs.foldl maxMag .zero
    if fmt = 7 then
      let k : Int := match amax with
        | .inf _ => 127
        | a => if a.isZero then -127 else min (max (ilog2 a - 2) (-127)) 127
      ((k + 127).toNat, some (.fin false 1 k false), 0)
    else if amax.isZero then (0, some .zero, 0)
    else
      let q := (Num.div amax (Num.ofInt 6)).1
      let r := ue4m3Round .ru true 0 q
      (r.1, some (decodeUe4m3 r.1).1, r.2)

/-- The element of a scaled value under its block's scale: word, saturation and flags of its rounding (R152, R153). -/
def quantElem (fmt : Nat) (scale : Option Num) (mode : RMode) (rnd : Nat) (xs : Num) : Nat × Bool × BitVec 6 :=
  if fmt = 7 ∨ fmt = 8 then
    match scale with
    | none => (0, false, 0)
    | some sc =>
      if sc.isZero then (0, false, 0)
      else
        let y := (Num.div xs sc).1
        let r := roundFmt fmt y mode true rnd
        (r.1, exceedsMax fmt y, r.2)
  else
    let r := roundFmt fmt xs mode true rnd
    (r.1, exceedsMax fmt xs, r.2)

/-- hist_add (R154, R225): an infinity lies above every bin, so it is clamped to the last. -/
def Quant.add (q : Quant) (fmt : Nat) (xs : Num) (r : Nat × Bool × BitVec 6) : Quant :=
  let q := { q with elems := q.elems ++ [r.1], sat := q.sat + (if r.2.1 then 1 else 0), flags := q.flags ||| r.2.2 }
  if xs.isNan then { q with nan := q.nan + 1 }
  else if xs.isZero then { q with zero := q.zero + 1 }
  else
    let b : Nat := if r.2.1 then 31 else match xs with
      | .inf _ => 31
      | x => (min (max (ilog2 x - (emax fmt - 30)) 0) 31).toNat
    { q with
      ovf := q.ovf + (if r.2.1 then 1 else 0),
      unf := q.unf + (if r.2.2 &&& fUF ≠ 0 then 1 else 0),
      bins := SMap.set 0 q.bins b (SMap.get 0 q.bins b + 1) }

/-- Quantise scaled values in order: the block scales of MXFP4 first; element i rounds with generator value rnd i. -/
def quantise (fmt : Nat) (mode : RMode) (rnd : Nat → Nat) (xs : List Num) : Quant :=
  let mx := decide (fmt = 7 ∨ fmt = 8)
  let blocks := if mx then (List.range ((xs.length + 31) / 32)).map (fun b => blockScale fmt ((xs.drop (32 * b)).take 32)) else []
  let start : Quant :=
    { elems := [], scales := blocks.map (fun b => b.1), sat := 0,
      flags := blocks.foldl (fun f b => f ||| b.2.2) 0, bins := [], zero := 0, nan := 0, ovf := 0, unf := 0 }
  (List.range xs.length).foldl (fun q i =>
    let x := xs.getD i .nan
    q.add fmt x (quantElem fmt ((blocks.getD (i / 32) (0, none, 0)).2.1) mode (rnd i) x)) start

/-- The contribution of a store to its record. -/
def Quant.contrib (q : Quant) (id : BitVec 32) (pa : Nat) : Contrib :=
  { ctx := id, record := pa, bins := q.bins, zero := q.zero, nan := q.nan, ovf := q.ovf, unf := q.unf, sent := 0 }

/-- Decode an element of a scaled format under its block scale (R24, R26, R40). -/
def decodeScaled (fmt el scale : Nat) : NumFlag :=
  if fmt = 7 then Num.mul (e2m1.decodeFull el) (decodeE8m0 scale)
  else if fmt = 8 then
    let sc := decodeUe4m3 scale
    ((Num.mul (e2m1.decodeFull el) sc.1).1, sc.2)
  else decodeFmt fmt el

/-! ### Handles (R189) -/

/-- The record handle h is bound to. -/
def Ctx.handle (c : Ctx) (h : Nat) : Option Nat := SMap.get none c.h h

/-- Resolve a handle for a word: ILLEGAL when unbound or when the record is unusable (R151, R189, R224). -/
def State.lookHandle (s : State) (h : Nat) : Option (Nat × List Word) :=
  match s.ctx.handle h with
  | none => none
  | some pa =>
    let r := s.record pa
    if s.unusable r then none else some (pa, r)

/-- As `lookHandle`; a started command keeps what its handle named at its start (R189). -/
def State.resolveHandle (s : State) (h : Nat) : Option (Nat × List Word) :=
  match s.ctx.latched.bind (fun b => b.handle) with
  | some (n, r) => if n = h then r else s.lookHandle h
  | none => s.lookHandle h

/-- A field of a captured stencil (R69, R71). -/
def fieldOf (st : BitVec 256) (i : Nat) : Nat := st.toNat / 2 ^ (16 * i) % 65536

/-- Bits of a stencil field. -/
def fbits (st : BitVec 256) (i hi lo : Nat) : Nat := fieldOf st i / 2 ^ lo % 2 ^ (hi + 1 - lo)

end Sys2Proof.Machine
end

