-- ==== Sys2Proof/Machine/Stats.lean ====
section
/-! DEFINITION. The words that use a tensor metadata record, VSCL (R150 to R158) and MD (R189 to R193), and the steps of
the scale governor: HISTOGRAM_UPDATE, ITERATION_CLOSE, RECORD_STORE (R224, R226, R232). -/

namespace Sys2Proof.Machine

/-! ### VERSEL (R150) -/

/-- VERSEL as a VSCL word of the issuing strand reads it: old or new while its write is within its bound, or while no token orders
another strand's (R96, R150). -/
def State.versel (s : State) : BitVec 16 :=
  let now := BitVec.ofNat 16 (bitsOf (s.csrAs 0x00D s.ctx.csr.versel) 15 0)
  match s.ctx.pends.find? (fun p => p.strand == s.ctx.cur && p.dest == .versel && decide (0 < p.left)) with
  | some p => if Config.freeBit s.fresh 900 then BitVec.ofNat 16 (bitsOf p.old 15 0) else now
  | none => now

/-- VERSEL ← ver within a bound. -/
def State.setVersel (s : State) (ver : BitVec 16) (bound : Nat) : State :=
  let old := s.ctx.csr.versel
  ((s.noteCsr 0x00D old bound).mcsr (fun c => { c with versel := ver.setWidth 64 })).notePend .versel bound old

/-! ### VSCL (R151 to R157) -/

/-- The elements of a quantised operand with their block scales, decoded under an entry's format (R139, R151). -/
def scaledElems (fmt : Nat) (v : VReg) : List NumFlag :=
  let el := elemsOf (fmtWidth fmt) 64 v
  (List.range 64).map (fun i => decodeScaled fmt (el.getD i 0) (v.toNat / 2 ^ (256 + 8 * (i / 32)) % 256))

/-- The register of a quantised result (R139, R151). -/
def Quant.reg (q : Quant) (fmt : Nat) : VReg :=
  if fmt = 7 ∨ fmt = 8 then BitVec.ofNat 2048 (packElems 4 q.elems + 2 ^ 256 * packElems 8 q.scales)
  else vregOf (fmtWidth fmt) q.elems

/-- A VSCL word: the record is resolved through the metadata cache; ILLEGAL at execution otherwise (R151). -/
def vsclWord (i : Instr) (k : Ctl) (h : BitVec 5) (regs : List Reg) (eff : Nat → List Word → State → Res) (s : State) : Out :=
  .next (s.issue i k onlyX false noCheck (fun s => s.inRange regs (
    match s.resolveHandle h.toNat with
    | none => .trap .illegal s.anyAddr
    | some (pa, r) => eff pa r (s.touchRecord pa))))

/-- Values scaled by 2^(−e) and quantised under the current entry (R152). -/
def State.quantWord (s : State) (ent : ScaleEnt) (xs : List Num) : Quant :=
  quantise ent.fmt.toNat s.mode s.laneRnd (xs.map (fun x => x.scale (-ent.e)))

/-- The effect of VQNT and VSCX once the operand's values are known: result, VERSEL, flags, histogram; then TENSOR_OVF,
else SCALE_INV, with the update landed (R152, R157, R158). -/
def storeQuant (d : Reg) (pa : Nat) (r : List Word) (xs : List Num) (flags : BitVec 6) (s : State) : Res :=
  let ent := recCur r
  let q := s.quantWord ent xs
  let s := ((s.setV d (q.reg ent.fmt.toNat) 6).raiseIn (q.flags ||| flags) 6).vsteps (takesStep ent.fmt.toNat)
  let s := s.setVersel ent.ver 6
  let s := s.sendContrib (q.contrib s.ctx.id pa)
  match s.tolerance r with
  | some t =>
    if t < q.sat then .after (s.settleRecord pa) .tensorOvf (BitVec.ofNat 64 q.sat)
    else if flags &&& fSINV ≠ 0 then .after (s.settleRecord pa) .scaleInv 0 else .done s 6
  | none => if flags &&& fSINV ≠ 0 then .after (s.settleRecord pa) .scaleInv 0 else .done s 6

/-- The 64 FP32 values of a register. -/
def fp32Elems (v : VReg) : List Num := (elemsOf 32 64 v).map (fun w => fp32.decodeIeee w)

/-- VQNT (R152). -/
def execVqnt (k : Ctl) (d a : Reg) (h : BitVec 5) : State → Out :=
  vsclWord (.vqnt k d a h) k h [d, a] (fun pa r s => storeQuant d pa r (fp32Elems (s.v a)) 0 s)

/-- VDQ: decode under the ring entry that VERSEL names (R155). -/
def execVdq (k : Ctl) (d a : Reg) (h : BitVec 5) : State → Out :=
  vsclWord (.vdq k d a h) k h [d, a] (fun _ r s =>
    match recVersion r s.versel with
    | none => .trap .postmarkStale (s.versel.setWidth 64)
    | some ent =>
      if ent.admitted = false then .trap .illegal s.anyAddr else
      let xs := scaledElems ent.fmt.toNat (s.v a)
      let l := (List.range 64).map (fun i =>
        let x := xs.getD i (.nan, 0)
        let o := roundFmt 0 (x.1.scale ent.e) s.mode false (s.laneRnd i)
        (o.1, o.2 ||| x.2))
      let s := s.setElems d 32 l true 6
      if flagsOf l &&& fSINV ≠ 0 then .after s .scaleInv 0 else .done s 6)

/-- VHIST: the histogram alone; the generator steps as in VQNT, flags do not join (R156). -/
def execVhist (k : Ctl) (a : Reg) (h : BitVec 5) : State → Out :=
  vsclWord (.vhist k a h) k h [a] (fun pa r s =>
    let ent := recCur r
    let q := s.quantWord ent (fp32Elems (s.v a))
    let s := s.vsteps (takesStep ent.fmt.toNat)
    .done (s.sendContrib (q.contrib s.ctx.id pa)) 6)

/-- VSCX: from the entry VERSEL names into the current one, without an FP32 rounding between (R157). -/
def execVscx (k : Ctl) (d a : Reg) (h : BitVec 5) : State → Out :=
  vsclWord (.vscx k d a h) k h [d, a] (fun pa r s =>
    match recVersion r s.versel with
    | none => .trap .postmarkStale (s.versel.setWidth 64)
    | some old =>
      if old.admitted = false then .trap .illegal s.anyAddr else
      let xs := scaledElems old.fmt.toNat (s.v a)
      storeQuant d pa r (xs.map (fun x => x.1.scale old.e)) (xs.foldl (fun f x => f ||| x.2) 0) s)

/-! ### MD (R189 to R193) -/

/-- Only pages of type MD (R189, R250). -/
def mdTarget (t : Target) : Bool := match t with | .mem x => x.typ == 3 && !(isCarved x.pa) | .win _ => false

/-- Only pages of type COH (R223, R228, R313). -/
def cohTarget (t : Target) : Bool := match t with | .mem x => x.typ == 0 | .win _ => false

/-- MDBIND (R189). -/
def execMdbind (k : Ctl) (a : Reg) (h : BitVec 5) (s : State) : Out :=
  .next (s.issue (.mdbind k a h) k anyStrand false noCheck (fun s =>
    let va := s.x a
    if va.toNat % 128 ≠ 0 then .trap .misalign va
    else match s.resolve va.toNat 128 .load mdTarget with
      | .error (c, addr) => .trap c addr
      | .ok (s, ps) =>
        match ps with
        | { tgt := .mem x, .. } :: _ =>
          .done ((s.mctx (fun c => { c with h := SMap.set none c.h h.toNat (some x.pa) })).touchRecord x.pa) 1
        | _ => .trap .page va))

/-- An MD word that resolves its handle first (R189, R224). -/
def mdWord (i : Instr) (k : Ctl) (h : BitVec 5) (checks : State → Option Cause) (eff : Nat → List Word → State → Res)
    (s : State) : Out :=
  .next (s.issue i k anyStrand false checks (fun s =>
    match s.resolveHandle h.toNat with
    | none => .trap .illegal s.anyAddr
    | some (pa, r) => eff pa r (s.touchRecord pa)))

/-- A captured command names handle h: MWL, MMA and MDR with HV, CPY with PM or CV (R170, R172, R175, R183). -/
def namesHandle (st : BitVec 256) (h : Nat) : Bool :=
  let eng := fbits st 0 15 12
  let op := fbits st 0 11 8
  (eng == 0 && decide (op ≤ 2) && fbits st 6 9 9 == 1 && fbits st 6 8 4 == h) ||
  (eng == 3 && op == 0 && (fbits st 5 7 7 == 1 || fbits st 5 1 1 == 1) && fbits st 5 6 2 == h)

/-- A command numbered up to esn0 names handle h and has not completed (R190). -/
def State.handleBusy (s : State) (h : Nat) (esn0 : BitVec 32) : Bool :=
  let upto (e : BitVec 32) : Bool := decide ((esn0 - e).toNat < 2 ^ 31)
  s.ctx.queues.toList.any (fun q => q.any (fun e => upto e.esn && namesHandle e.stencil h)) ||
  s.plate.running.toList.any (fun q => q.any (fun r =>
    r.ctx == s.ctx.id && decide (0 < r.left) && upto r.ent.esn && namesHandle r.ent.stencil h)) ||
  s.ctx.held.toList.any (fun q => q.any (fun f => !f.after && upto f.ent.esn && namesHandle f.ent.stencil h))

/-- One more close has arrived at a record, after what was sent to it before; a close that meets CONTRIB is due (R190, R232). -/
def State.addClose (s : State) (pa : Nat) : State :=
  let s := s.settleRecord pa
  let r := s.recordAt pa
  (s.putRecord pa (recPut r 0 63 48 (recCloses r + 1))).closeIfDue pa

/-- MDCLOSE waits for the context's commands under h queued before it and its contributions, then closes (R190). -/
def execMdclose (k : Ctl) (h : BitVec 5) : State → Out :=
  mdWord (.mdclose k h) k h noCheck (fun pa _ s =>
    if s.handleBusy h.toNat s.before || s.contribs.any (fun c => c.ctx == s.ctx.id && c.record == pa) then
      .wait s .scalever false
    else .done (s.addClose pa) 1)

/-- MDREAD: doubleword x[a][3:0] of the record (R189, R230). -/
def execMdread (k : Ctl) (d a : Reg) (h : BitVec 5) : State → Out :=
  mdWord (.mdread k d a h) k h noCheck (fun _ r s =>
    .done (s.setX d (r.getD (bitsOf (s.x a) 3 0) 0) 8) 8)

/-- MDSET is PRIV in U mode outside a tensor-fault handler (R90, R191). -/
def mdsetPriv (s : State) : Option Cause :=
  let c := s.ctx.csr
  if s.ctx.space.priv = .u ∧ ¬ (c.act = true ∧ (bitsOf c.tcause 7 0 = 0x08 ∨ bitsOf c.tcause 7 0 = 0x09)) then some .priv
  else none

/-- MDSET: a new version with the format and e of a 16-byte block, once no agreement holds the record (R191, R235). -/
def execMdset (k : Ctl) (a : Reg) (h : BitVec 5) : State → Out :=
  mdWord (.mdset k a h) k h mdsetPriv (fun pa _ s =>
    let va := s.x a
    if va.toNat % 16 ≠ 0 then .trap .misalign va
    else match s.memRead va.toNat 16 0 0 anyTarget with
      | .error (c, addr) => .trap c addr
      | .ok (.wait _) => s.staleWait va
      | .ok (.val s n _) =>
        let fmt := n % 256
        if scaledFormat fmt = false ∨ n / 65536 ≠ 0 then .trap .illegal s.anyAddr
        else if s.recHeld pa then .wait s .scalever false
        else .done ((s.settleRecord pa).newVersion pa fmt (BitVec.ofNat 8 (n / 256)).toInt) 1)

/-- The postmark of block b of a record's tensor, as a context reads it (R192, R228). -/
def State.postmark (s : State) (r : List Word) (b sb : Nat) : Except Flt Got :=
  if recPtlen r ≤ b then .ok (.val s (recPtdef r) true)
  else
    match s.memRead (recPtab r + b / 2) 1 sb 0 cohTarget with
    | .error f => .error f
    | .ok (.wait l) => .ok (.wait l)
    | .ok (.val s v hit) => .ok (.val s (v / 16 ^ (b % 2) % 16) hit)

/-- MDPM (R192). -/
def execMdpm (k : Ctl) (d a : Reg) (h : BitVec 5) : State → Out :=
  mdWord (.mdpm k d a h) k h noCheck (fun _ r s =>
    let off := s.x a
    match s.postmark r (off.toNat / 4096) 0 with
    | .error (c, addr) => .trap c addr
    | .ok (.wait _) => s.staleWait (BitVec.ofNat 64 (recPtab r))
    | .ok (.val s pm _) =>
      match recPostmark r pm with
      | none => .trap .postmarkStale off
      | some ent => if ent.admitted = false then .trap .illegal s.anyAddr else .done ((s.setX d (ent.ver.setWidth 64) 8).setVersel ent.ver 8) 8)

/-- MDWAIT waits while the version is behind x[a][15:0]; no timeout (R193). -/
def execMdwait (k : Ctl) (a : Reg) (h : BitVec 5) : State → Out :=
  mdWord (.mdwait k a h) k h noCheck (fun _ r s =>
    let n := (BitVec.ofNat 16 (bitsOf (s.x a) 15 0) - (recCur r).ver).toNat
    if 1 ≤ n ∧ n < 32768 then .wait s .scalever false else .done s 1)

/-! ### Governor steps -/

/-- HISTOGRAM_UPDATE: the oldest contribution on its way reaches its record (R152, R226). -/
def execHistogramUpdate (s : State) : Out :=
  .next (match s.contribs with
    | [] => s
    | c :: cs => ({ s with contribs := cs }).contribute c)

/-- The record that the governor closes next: the one whose last close arrived first, of those no agreement holds (R232, R235). -/
def State.closeNext (s : State) : Option Nat := s.closing.find? (fun pa => !(s.recHeld pa))

/-- ITERATION_CLOSE: the governor closes a record (R232). -/
def execIterationClose (s : State) : Out :=
  .next (match s.closeNext with
    | none => s
    | some pa => ({ s with closing := s.closing.erase pa }).govern pa)

/-- RECORD_STORE: the oldest plain store on its way to a record is performed (R224). -/
def execRecordStore (s : State) : Out :=
  .next (match s.recStores with
    | [] => s
    | (pa, n, v, _) :: rest => ({ s with recStores := rest }).performStore pa n v)

/-- The oldest contribution was sent before the oldest store on its way (R224). -/
def State.contribFirst (s : State) : Bool :=
  match s.contribs, s.recStores with
  | c :: _, e :: _ => decide (c.sent < e.2.2.2)
  | _ :: _, [] => true
  | [], _ => false

end Sys2Proof.Machine
end

