-- ==== Sys2Proof/Machine/Stencil.lean ====
section
/-! DEFINITION. Captured stencils: the operation they name, the checks of their capture (R87, R165, R170 to R188), the x
registers they read (R70, R159), and the grant they need (R163, R276, R277). -/

namespace Sys2Proof.Machine

/-- The operations of R87; CPY in its three modes (R184). -/
inductive EngOp where
  | mwl | mma | mdr | maz | mas | mar | xtr | xfw | uaw | usm | uax | uns
  | cpy | cpyPm | cpyCv | cpg | cps | cpm | cpl | cpz
  deriving DecidableEq, Repr

/-- The operation of a captured stencil; none for a reserved ENG or OP (R87). -/
def opOf (st : BitVec 256) : Option EngOp :=
  match fbits st 0 15 12, fbits st 0 11 8 with
  | 0, 0 => some .mwl
  | 0, 1 => some .mma
  | 0, 2 => some .mdr
  | 0, 3 => some .maz
  | 0, 4 => some .mas
  | 0, 5 => some .mar
  | 1, 0 => some .xtr
  | 1, 1 => some .xfw
  | 2, 0 => some .uaw
  | 2, 1 => some .usm
  | 2, 2 => some .uax
  | 2, 3 => some .uns
  | 3, 0 => some (if fbits st 5 7 7 = 1 then .cpyPm else if fbits st 5 1 1 = 1 then .cpyCv else .cpy)
  | 3, 1 => some .cpg
  | 3, 2 => some .cps
  | 3, 3 => some .cpm
  | 3, 4 => some .cpl
  | 3, 5 => some .cpz
  | _, _ => none

/-- The engine of a captured stencil (R69). -/
def engineOf (st : BitVec 256) : Engine := Engine.ofNum (fbits st 0 15 12)

/-- F1: ACQ, REL, SCOPE, GUARD, GPOL, PTAG (R69). -/
def stAcq (st : BitVec 256) : Bool := fbits st 1 15 15 == 1
def stRel (st : BitVec 256) : Bool := fbits st 1 14 14 == 1
def stScope (st : BitVec 256) : Nat := fbits st 1 13 12
def stGuard (st : BitVec 256) : Nat := fbits st 1 11 8
def stGpol (st : BitVec 256) : Bool := fbits st 1 7 7 == 1
def stPtag (st : BitVec 256) : Bool := fbits st 1 6 6 == 1

/-- HV, HND and FMT of F6 (R170). -/
def stHv (st : BitVec 256) : Bool := fbits st 6 9 9 == 1
def stHnd (st : BitVec 256) : Nat := fbits st 6 8 4
def stFmt (st : BitVec 256) : Nat := fbits st 6 3 0

/-- Class of an MXE operand format: 1 8-bit, 2 integer, 3 16-bit, 4 four-product; 0 for any other (R168). -/
def mxClass (fmt : Nat) : Nat :=
  if fmt = 3 ∨ fmt = 4 ∨ fmt = 5 then 1 else if fmt = 9 then 2 else if fmt = 1 ∨ fmt = 2 then 3
  else if fmt = 6 ∨ fmt = 7 ∨ fmt = 8 then 4 else 0

/-- Bytes of a row of n elements in the scratchpad (R139, R168). -/
def rowBytes (fmt n : Nat) : Nat :=
  if fmt = 7 ∨ fmt = 8 then (n + 1) / 2 + (n + 31) / 32
  else if fmt = 11 then 6 * n else if fmt = 0 ∨ fmt = 10 then 4 * n else if fmt = 1 ∨ fmt = 2 then 2 * n else n

/-- A pitch is at least the row it separates; one row is separated from nothing (R165). Log entry 48 (DESIGN CHOICE). -/
def pitchOk (rows pitch bytes : Nat) : Bool := decide (rows ≤ 1) || decide (bytes ≤ 32 * pitch)

/-- lo ≤ v ≤ hi. -/
def within (v lo hi : Nat) : Bool := decide (lo ≤ v) && decide (v ≤ hi)

/-- The limits that an operation's fields must keep at capture (R87, R165, R170 to R188). Log entry 67 (DESIGN CHOICE). -/
def fieldsOk (st : BitVec 256) : EngOp → Bool
  | .mwl =>
    let x := fbits st 1 1 1 == 1
    fbits st 1 5 2 == 0 && fbits st 1 0 0 == 0 && within (fieldOf st 3) 1 2016 && within (fieldOf st 4) 1 128 &&
    fbits st 6 15 10 == 0 && decide (fieldOf st 7 ≤ 2) &&
    (stHv st || (decide (mxClass (stFmt st) ≠ 0) &&
      (x || pitchOk (fieldOf st 3) (fieldOf st 5) (rowBytes (stFmt st) (fieldOf st 4)))))
  | .mma =>
    fbits st 1 5 1 == 0 && within (fieldOf st 3) 1 8192 && fbits st 5 15 4 == 0 && fbits st 6 15 10 == 0 &&
    (stHv st || decide (mxClass (stFmt st) ≠ 0))
  | .mdr =>
    fbits st 1 5 0 == 0 && fbits st 2 15 6 == 0 && fbits st 2 3 3 == 0 && decide (fbits st 2 5 4 ≤ 2) &&
    within (fieldOf st 4) 1 128 && fbits st 6 15 11 == 0 && fbits st 7 15 13 == 0 && within (fieldOf st 8) 1 128 &&
    fbits st 9 15 8 == 0 && (fbits st 2 2 2 == 0 || fbits st 7 12 12 == 1) &&
    (stHv st || (decide (stFmt st ≤ 11) &&
      (fbits st 2 2 2 == 1 || pitchOk (fieldOf st 4) (fieldOf st 5) (rowBytes (stFmt st) (fieldOf st 8)))))
  | .maz | .mas | .mar => fbits st 1 5 0 == 0 && fbits st 2 15 2 == 0
  | .xtr =>
    fbits st 1 5 0 == 0 && decide (fieldOf st 4 ≤ 2) && decide (2 ^ fieldOf st 4 ≤ fieldOf st 5) &&
    decide (2 ^ fieldOf st 4 ≤ fieldOf st 6)
  | .xfw =>
    fbits st 1 5 0 == 0 && decide (fieldOf st 4 ≤ 1) && fbits st 5 15 4 == 0 && decide (2 ^ fieldOf st 4 ≤ fieldOf st 6)
  | .uaw | .usm => fbits st 1 5 3 == 0 && fbits st 1 0 0 == 0 && decide (fbits st 1 2 1 ≠ 3) && within (fieldOf st 6) 1 65535
  | .uax | .uns => fbits st 1 5 0 == 0 && within (fieldOf st 6) 1 65535
  | .cpy | .cpyPm | .cpyCv =>
    let pm := fbits st 5 7 7 == 1
    let cv := fbits st 5 1 1 == 1
    fbits st 1 5 0 == 0 && fbits st 2 15 6 == 0 && within (fieldOf st 4) 1 65535 && fbits st 5 15 8 == 0 &&
    fbits st 6 15 6 == 0 && fbits st 7 15 6 == 0 && !(pm && cv) &&
    (!pm || (fieldOf st 3 % 128 == 0 && fieldOf st 4 % 128 == 0)) &&
    (!cv || (fbits st 8 15 4 == 0 && decide (fbits st 8 3 0 ≤ 2)))
  | .cpg | .cps =>
    fbits st 1 5 0 == 0 && fbits st 2 15 6 == 0 && within (fieldOf st 4) 1 65535 && fbits st 5 15 3 == 0 &&
    decide (fbits st 5 2 0 ≠ 7) && fbits st 6 15 6 == 0 && fbits st 7 15 6 == 0
  | .cpm | .cpl => fbits st 1 5 0 == 0 && fbits st 2 15 6 == 0 && within (fieldOf st 4) 1 65535
  | .cpz => fbits st 1 5 0 == 0 && within (fieldOf st 4) 1 65535

/-- The capture checks of R87. Log entry 48 (DESIGN CHOICE). -/
def stencilOk (st : BitVec 256) : Bool :=
  match opOf st with
  | none => false
  | some op => fbits st 0 7 0 == 0 && fieldsOk st op

/-- stamp_of (R70): the slot's contents with field FSEL replaced. -/
def stampOf (slot : BitVec 256) (fsel : BitVec 4) (val : BitVec 16) : BitVec 256 :=
  if fsel = 0 then slot
  else
    let k := 16 * fsel.toNat
    BitVec.ofNat 256 (slot.toNat / 2 ^ (k + 16) * 2 ^ (k + 16) + val.toNat * 2 ^ k + slot.toNat % 2 ^ k)

/-- The x registers an operation names, in ascending field number (R159). -/
def stencilRegs (st : BitVec 256) : List Reg :=
  let greg := BitVec.ofNat 6 (fbits st 2 5 0)
  let bb := BitVec.ofNat 6 (fbits st 7 5 0)
  match opOf st with
  | some .cpy | some .cpyPm | some .cpyCv | some .cpg | some .cps => [greg, bb]
  | some .cpm | some .cpl => [greg]
  | _ => []

/-- Depth of each engine's queue (R16). -/
def queueDepth : Engine → Nat
  | .mxe => 16 | .txe => 8 | .ude => 8 | .cpe => 32

/-- Units of a matrix class (R163). -/
def classUnits (c : Nat) : Nat := if c = 4 then 7 else if c = 3 then 5 else if c = 0 then 0 else 6

/-- The scratchpad rows of 4 KiB that ranges of bytes cover, ascending (R166). -/
def rowsOf (ranges : List (Nat × Nat)) : List Nat :=
  (List.range 384).filter (fun r => ranges.any (fun p => decide (p.1 < 4096 * r + 4096) && decide (4096 * r < p.1 + p.2)))

/-- Versions of the valid row tags among rows, with their rows (R166). -/
def Ctx.tagsIn (c : Ctx) (rows : List Nat) : List (Nat × BitVec 16) :=
  rows.filterMap (fun r => (SMap.get none c.tags r).map (fun v => (r, v)))

/-- Address of a scratchpad byte in the window (R117). -/
def winAddr (off : Nat) : Word := BitVec.ofNat 64 (winBase + off)

/-- The scale an operand takes from the tags of the rows it covers: the entry, or the fault (R166). -/
def State.operandEntry (s : State) (h : Nat) (ranges : List (Nat × Nat)) : Except Flt ScaleEnt :=
  match s.resolveHandle h with
  | none => .error (.illegal, 0)
  | some (_, r) =>
    match s.ctx.tagsIn (rowsOf ranges) with
    | [] => .ok (recCur r)
    | (_, v) :: rest =>
      match rest.find? (fun t => !(t.2 == v)) with
      | some t => .error (.postmarkStale, winAddr (4096 * t.1))
      | none => match recVersion r v with
        | some ent => if ent.admitted then .ok ent else .error (.illegal, 0)
        | none => .error (.postmarkStale, v.setWidth 64)

/-- The format that gives the rows of an operand their width, before their tags are judged: that of the first valid tag, of
the current entry when no row is tagged or the version has left the ring; none when the handle does not resolve (R166). -/
def State.operandFmt (s : State) (h : Nat) (ranges : List (Nat × Nat)) : Option Nat :=
  (s.resolveHandle h).map (fun p =>
    match s.ctx.tagsIn (rowsOf ranges) with
    | [] => (recCur p.2).fmt.toNat
    | (_, v) :: _ => ((recVersion p.2 v).getD (recCur p.2)).fmt.toNat)

/-- Rows at a base and pitch in 32-byte units, as ranges. -/
def pitchRanges (base pitch rows bytes : Nat) : List (Nat × Nat) :=
  (List.range rows).map (fun i => (32 * (base + i * pitch), bytes))

/-- Format of MMA's A operand, from the tags of its rows; none where its handle does not resolve (R166, R172). -/
def State.aFormat (s : State) (st : BitVec 256) : Option Nat :=
  if stHv st then s.operandFmt (stHnd st) (pitchRanges (fieldOf st 2) (fieldOf st 4) (fieldOf st 3) 1)
  else some (stFmt st)

/-- Units a command of the context in focus asks for at a point: R163 and R276, two more at OP7 (R277). An MMA one of whose
formats is not known asks for the other's units, and for 6 when neither is. Log entry 56 (DESIGN CHOICE). -/
def State.needOf (s : State) (st : BitVec 256) : Nat :=
  let mib (n : Nat) : Nat := if 0x100000 < n then 2 else 0
  let base := match opOf st with
    | some .mma =>
      (match s.aFormat st, s.ctx.weight with
        | some f, some w => max (classUnits (mxClass f)) (classUnits (mxClass w.fmt))
        | some f, none => classUnits (mxClass f)
        | none, some w => classUnits (mxClass w.fmt)
        | none, none => 6)
    | some .cpy | some .cpyPm | some .cpyCv | some .cpm => mib (32 * fieldOf st 4)
    | some .cpg | some .cps => mib (fieldOf st 4 * 2 ^ (fbits st 5 2 0 + 2))
    | _ => 0
  if base = 0 then 0 else if (s.die (dieOfPlate s.plate.id)).point = 7 then base + 2 else base

end Sys2Proof.Machine
end

