-- ==== Sys2Proof/Machine/Commands.lean ====
section
/-! DEFINITION. A command's life (R159 to R164): capture by a stamp, the queue head's conditions, start, faults, discard
and completion; and the arbiter's requests (R160, R209). -/

namespace Sys2Proof.Machine

/-! ### Stamps (R70, R71, R86, R180) -/

/-- A pending result has not landed in a register the captured stencil names (R70). -/
def State.regsPending (s : State) (st : BitVec 256) : Bool := (stencilRegs st).any (fun r => s.landing (.x r.toNat))

/-- An x register that a stamp captures, its pending results landed (R70, R96). Log entry 4 (DESIGN CHOICE). -/
def State.captured (s : State) (r : Reg) : Word :=
  if r = 0 then 0
  else (SMap.get (Cell.init 0) s.ctx.x r.toNat).read s.ctx.cur (s.strand s.ctx.cur).clk (Config.freeBit s.fresh r.toNat)

/-- Commands of the context on an engine, queued and in flight (R180). -/
def State.inEngine (s : State) (e : Engine) : Nat :=
  (s.ctx.queues.get e.num).length +
    (s.plate.running.get e.num).countP (fun r => r.ctx == s.ctx.id && decide (0 < r.left))

/-- A fresh queue entry of the context in focus (R159). -/
def State.newEntry (s : State) (st : BitVec 256) (rega regb spc : Word) (rmode : BitVec 3) (sstr : BitVec 2) (qp qn : Bool)
    (clk : Clock) : QEntry :=
  { stencil := st, rega := rega, regb := regb, esn := s.ctx.esn + 1, rmode := rmode, spc := setBits spc 63 57 0,
    sstr := sstr, qp := qp, qn := qn, armed := false, clk := clk, views := s.ctx.view, stamped := s.fresh }

/-- A queue entry as the 512 bits that pre-emption saves (R159). -/
def QEntry.image (q : QEntry) : BitVec 512 :=
  BitVec.ofNat 512 (q.stencil.toNat + q.rega.toNat * 2 ^ 256 + q.regb.toNat * 2 ^ 320 + q.esn.toNat * 2 ^ 384 + q.rmode.toNat * 2 ^ 416 +
    bitsOf q.spc 56 2 * 2 ^ 420 + q.sstr.toNat * 2 ^ 475 + (if q.qp then 2 ^ 477 else 0) + (if q.qn then 2 ^ 478 else 0))

/-- The entry that 512 saved bits restore; what the bits do not hold comes from `q` (R159, R318). -/
def QEntry.ofImage (w : BitVec 512) (q : QEntry) : QEntry :=
  let f (hi lo : Nat) : Nat := w.toNat / 2 ^ lo % 2 ^ (hi + 1 - lo)
  { q with
    stencil := BitVec.ofNat 256 (f 255 0), rega := BitVec.ofNat 64 (f 319 256), regb := BitVec.ofNat 64 (f 383 320),
    esn := BitVec.ofNat 32 (f 415 384), rmode := BitVec.ofNat 3 (f 418 416), spc := BitVec.ofNat 64 (4 * f 474 420),
    sstr := BitVec.ofNat 2 (f 476 475), qp := f 477 477 == 1, qn := f 478 478 == 1 }

/-- An entry saved and restored (R318). -/
def QEntry.throughImage (q : QEntry) : QEntry := QEntry.ofImage q.image q

/-- Append an entry to its engine's queue; it takes the next ESN (R71, R280). -/
def State.enqueue (s : State) (q : QEntry) : State :=
  let e := (engineOf q.stencil).num
  s.mctx (fun c => { c with esn := q.esn, queues := c.queues.set e (c.queues.get e ++ [q]) })

/-- An uncorrectable error stands in a stencil slot of the context (R357). -/
def State.slotBad (s : State) (slot : Reg) : Bool :=
  s.bad.any (fun b => match b with | .stencil id n => id == s.ctx.id && n == slot | _ => false)

/-- The effect of a stamp: the capture checks, then what makes it wait, then the entry; its pushes land with the
command (R59, R70, R87, R205). Log entry 48 (DESIGN CHOICE). -/
def stampRes (k : Ctl) (slot : Reg) (fsel : BitVec 4) (val : BitVec 16) (s : State) : Res :=
  let st := stampOf (s.slot slot.toNat) fsel val
  let e := engineOf st
  if s.landingOwn (.stencil slot.toNat) then .stall .dep false
  else if s.slotBad slot then .trap .eccUncorr s.anyAddr
  else if stencilOk st = false then .trap .illegal s.anyAddr
  else if s.regsPending st then .stall .dep false
  else if e = .txe ∧ 8 ≤ s.inEngine .txe then .trap .xeOvf 0
  else if queueDepth e ≤ (s.ctx.queues.get e.num).length then .stall .qfull false
  else
    let regs := (stencilRegs st).map s.captured
    .later (s.enqueue (s.newEntry st (regs.getD 0 0) (regs.getD 1 0) (s.addrOf s.ctx.cur)
      (BitVec.ofNat 3 (bitsOf (s.csrAs 0x009 s.ctx.csr.rndm) 2 0)) (BitVec.ofNat 2 s.ctx.cur.num) k.qp k.qn (s.strand s.ctx.cur).clk))

/-- STAMP (R70, R86): any strand but C (R52). -/
def execStamp (tk : BitVec 4) (slot : Reg) (fsel : BitVec 4) (val : BitVec 16) (s : State) : Out :=
  let k : Ctl := { tk := tk, sy := false }
  .next (s.issue (.stamp tk slot fsel val) k notC false noCheck (stampRes k slot fsel val))

/-! ### Queue heads (R17, R72, R160) -/

/-- What a guard does to the head that names it (R72). -/
inductive GuardSt where
  | run | wait | drop
  deriving DecidableEq, Repr

/-- The guard of an entry; once read it is not read again (R72). -/
def Ctx.guardOf (c : Ctx) (q : QEntry) : GuardSt :=
  let n := stGuard q.stencil
  if n = 0 ∨ q.armed then .run
  else match SMap.get none c.g n with
    | none => .wait
    | some b => if b = stGpol q.stencil then .run else .drop

/-- The head an engine judges: none while the queue is held (R164). -/
def Ctx.headOf (c : Ctx) (e : Engine) : Option QEntry :=
  if (c.held.get e.num).isSome then none else (c.queues.get e.num).head?

/-- The phase tag holds an entry (R72, R160). -/
def Ctx.tagHolds (c : Ctx) (q : QEntry) : Bool :=
  stPtag q.stencil && c.csr.dmrV && decide (c.csr.phcnt.toNat % 2 = 0)

/-- The resident contexts of the plate in focus in the order an engine scans them (R17). -/
def State.scan (s : State) (e : Engine) : List Ctx :=
  let last := s.plate.served.get e.num
  [1, 2, 3, 4].filterMap (fun i =>
    (s.ctxOf (s.plate.places.get ((last + i) % 4))).bind (fun c => if c.life = .resident then some c else none))

/-- A dump has stopped the masters (R370). -/
def State.dumpStop (s : State) : Bool := s.dump.any (fun p => !p.past)

/-- A step of a die has stopped its strands and engines (R264, R274). -/
def State.stepMoves (s : State) (d : Nat) : Bool := match (s.die d).step with | some p => p.moving | none => false

/-- Engines of a die start no command: a step moves its rows, or a dump has stopped it (R264, R274, R370). -/
def State.enginesHeld (s : State) (d : Nat) : Bool := s.stepMoves d || s.dumpStop

/-- Free units of a context's booking (R209). -/
def Ctx.bookFree (c : Ctx) : Nat :=
  match c.booking with
  | some b => b.size - b.used
  | none => 0

/-- How a head stands before its start (R160): the engine cause it is held for, or ready with units and whether they
come from the booking. -/
inductive HeadSt where
  | held (c : EngCause)
  | ready (units : Nat) (booked : Bool)
  deriving DecidableEq, Repr

/-- Judge a head of context c (R160, steps 1 to 4). -/
def State.judge (s : State) (e : Engine) (c : Ctx) (q : QEntry) : HeadSt :=
  if c.guardOf q ≠ .run ∨ c.tagHolds q then .held .guard
  else
    let need := ({ s with ctx := c }).needOf q.stencil
    let granted := s.plate.grants.find? (fun g => g.1 == e.num && g.2.1 == c.id)
    let hold : Option (Nat × Bool) :=
      if need = 0 then some (0, false)
      else match granted with
        | some g => some (g.2.2, false)
        | none => if need ≤ c.bookFree then some (need, true) else none
    match hold with
    | none => .held .grant
    | some (u, b) =>
      if opOf q.stencil = some .cpm then
        (match s.ctxOf (BitVec.ofNat 32 (bitsOf q.rega 63 32)) with
          | some d => if d.life = .resident ∨ d.life = .frozen ∨ d.life = .halted then .ready u b else .held .backpressure
          | none => .ready u b)
      else .ready u b

/-- The engine may take a command now: it runs none; the transpose engine starts one a cycle (R162, R180). -/
def State.engineFree (s : State) (e : Engine) : Bool :=
  !(s.enginesHeld (dieOfPlate s.plate.id)) &&
  (if e = .txe then !((s.plate.running.get 1).any (fun r => r.since == s.cycle && decide (0 < r.left)))
   else (s.plate.running.get e.num).isEmpty)

/-- The next eligible head of an engine (R17, R160). -/
def State.nextHead (s : State) (e : Engine) : Option (Ctx × QEntry × Nat × Bool) :=
  if s.engineFree e then
    (s.scan e).findSome? (fun c => match c.headOf e with
      | none => none
      | some q => match s.judge e c q with
        | .ready u b => some (c, q, u, b)
        | .held _ => none)
  else none

/-! ### Trace and completion pushes -/

/-- A command's trace record: 2 start, 3 end with a status (R369). -/
def State.traceCommand (s : State) (kind : Nat) (q : QEntry) (status : Nat) : State :=
  s.trace kind [q.spc, BitVec.ofNat 64 (q.esn.toNat + (engineOf q.stencil).num * 2 ^ 32 + status * 2 ^ 34), 0, 0, 0, 0]

/-- A command has completed or been discarded: its push lands and the event latch is set (R59, R161, R219). -/
def Ctx.commandDone (c : Ctx) (q : QEntry) (completed : Bool) : Ctx :=
  let n := if completed then c.ecount + 1 else c.ecount
  ({ c with ecount := n, latch := true }).land (Strand.ofNum q.sstr.toNat) q.qp q.qn
    { clk := { q.clk with e := if completed then n else q.clk.e }, acq := false }

/-- The engine whose row a guard discards on, with the context and its head (R160). -/
def State.doomed (s : State) (e : Engine) : Option (Ctx × QEntry) :=
  (s.scan e).findSome? (fun c => match c.headOf e with
    | some q => if c.guardOf q = .drop then some (c, q) else none
    | none => none)

/-- GUARD_DISCARD: the head whose guard resolves against GPOL leaves its queue without effect (R72, R160). -/
def execGuardDiscard (e : Engine) (s : State) : Out :=
  .next (match s.doomed e with
    | none => s
    | some (c, q) =>
      let s := s.focus c.id
      let s := s.mctx (fun c => ({ c with queues := c.queues.set e.num (c.queues.get e.num).tail }).commandDone q false)
      (s.mplate (fun p => { p with dropped := p.dropped.set e.num (some c.id) })).traceCommand 3 q 1)

/-! ### Units (R160, R209, R278) -/

/-- A command gives back what it holds: to its booking, or to the arbiter (R161, R209). Log entry 43 (DEDUCED). -/
def State.returnUnits (s : State) (units : Nat) (booked : Bool) : State :=
  if units = 0 then s
  else if booked then
    match s.ctx.booking with
    | none => s.giveUnits s.ctx.die units
    | some b => s.mctx (fun c => { c with booking := some { b with used := b.used - units } })
  else s.giveUnits s.ctx.die units

/-- In each cycle an engine's heads read their guards as the cycles before left them, and heavy heads that wait for a grant ask for
one, if the engine is free or in the last busy cycle of its command (R72, R160, R278). -/
def State.judgeHeads (s : State) (e : Engine) : State :=
  let free := (s.plate.running.get e.num).all (fun r => r.begun && r.input == 0 && decide (r.left ≤ 1))
  let asks := if free then
      (s.scan e).filterMap (fun c => (c.headOf e).bind (fun q =>
        if s.judge e c q = .held .grant then some (e.num, c.id, ({ s with ctx := c }).needOf q.stencil) else none))
    else []
  let arm (c : Ctx) : Ctx :=
    match c.headOf e with
    | some q =>
      if c.plate = s.plate.id ∧ c.life = .resident ∧ q.armed = false ∧ c.guardOf q = .run then
        { c with queues := c.queues.set e.num ({ q with armed := true } :: (c.queues.get e.num).tail) }
      else c
    | none => c
  (s.mapCtxs arm).mplate (fun p => { p with asks := p.asks.filter (fun a => !(a.1 == e.num)) ++ asks })

/-! ### Start (R160, R161) -/

/-- How the body of a command ended. -/
inductive Ran where
  /-- It has read and written; `f` fills in its running entry. -/
  | run (s : State) (busy : Nat) (f : Running → Running)
  /-- It waits before its first effect (R180, R290); `addr` where a STALL push is awaited. -/
  | hold (addr : Option Word)
  /-- It faults before completion and stops where it is (R164). -/
  | stop (s : State) (c : Cause) (addr : Word)

/-- A command's body: the context in focus is its own. -/
abbrev Body := State → QEntry → Ran

/-- A command that has just started. -/
def Running.start (c : Ctx) (q : QEntry) (now units : Nat) (booked : Bool) : Running :=
  { ctx := c.id, asid := c.space.asid, ent := q, begun := false, since := now, input := 0, left := 1, units := units, booked := booked, flags := 0,
    fault := none, watch := none, land := [], block := none, contrib := none, bbar := none, sig := none, mis := none,
    tdi := none, strm := none, latch := none, stale := none, spans := [] }

/-- The handle a command resolves at its start (R189). -/
def handleOf (st : BitVec 256) : Option Nat :=
  match opOf st with
  | some .mwl | some .mma | some .mdr => if stHv st then some (stHnd st) else none
  | some .cpyCv => some (fbits st 5 6 2)
  | _ => none

/-- What a command holds from its start: its record; the views of its stamp, or, where it acquires, those of its acquire (R161,
R189, R279). -/
def State.boundAt (s : State) (q : QEntry) : Bound :=
  { handle := (handleOf q.stencil).map (fun h => (h, s.lookHandle h)),
    view := if stAcq q.stencil then s.ctx.view else q.views, upTo := if stAcq q.stencil then s.fresh else q.stamped }

/-- Change the started commands of an engine of the plate in focus. -/
def State.mrunning (s : State) (e : Engine) (f : List Running → List Running) : State :=
  s.mplate (fun p => { p with running := p.running.set e.num (f (p.running.get e.num)) })

/-- Hold a context's queue for a fault (R164). Log entry 18 (DESIGN CHOICE). -/
def State.holdQueue (s : State) (q : QEntry) (c : Cause) (addr : Word) (after : Bool) : State :=
  let now := s.cycle
  let h : HeldFault := { cause := c, addr := addr, ent := q, after := after, at_ := now, delivered := false }
  s.mctx (fun t => { t with held := t.held.set (engineOf q.stencil).num (some h) })

/-- A started command faults before completion: units return, no release, its queue and its push are held (R164). -/
def State.commandFault (s : State) (r : Running) (c : Cause) (addr : Word) : State :=
  let e := engineOf r.ent.stencil
  let s := s.mrunning e (fun l => l.map (fun t => if t.ent == r.ent && t.ctx == r.ctx then
    { t with left := 0, units := 0, begun := true, spans := [] } else t))
  ((s.returnUnits r.units r.booked).holdQueue r.ent c addr false).traceCommand 3 r.ent 2

/-- Replace a started command by its later state. -/
def State.putRunning (s : State) (r t : Running) : State :=
  s.mrunning (engineOf r.ent.stencil) (fun l => l.map (fun u => if u.ent == r.ent && u.ctx == r.ctx then t else u))

/-- A command's body reads with what the command holds from its start (R189, R279). -/
def State.latchFor (s : State) (r : Running) : State :=
  let b := r.latch.getD (s.boundAt r.ent)
  s.mctx (fun c => { c with view := b.view, latched := some b })

/-- After the body the context's own views are back. -/
def State.unlatch (t s : State) : State := t.mctx (fun c => { c with view := s.ctx.view, latched := none })

/-- Run the body of a started command (R161, step 2) with what it holds from its start. A read that waits for a push past STALETO,
counted from its own first stalled cycle, faults (R291). Log entry 14 (DESIGN CHOICE). -/
def State.runBody (s : State) (r : Running) (body : Body) : State :=
  let b := r.latch.getD (s.boundAt r.ent)
  match body (s.latchFor r) r.ent with
  | .run t busy f => (t.unlatch s).putRunning r { (f { r with begun := true }) with left := max busy 1 }
  | .stop t c addr => (t.unlatch s).commandFault r c addr
  | .hold addr =>
    let limit := bitsOf s.ctx.csr.staleto 31 0
    match addr with
    | some a =>
      let t0 := match r.stale with
        | some (p, t) => if p = a then t else s.cycle
        | none => s.cycle
      if limit ≠ 0 ∧ limit ≤ s.cycle - t0 then s.commandFault r .staleTimeout a
      else s.putRunning r { r with latch := some b, stale := some (a, t0) }
    | none => s.putRunning r { r with latch := some b, since := s.cycle }

/-- An uncorrectable error stands in the queue entry (R357). -/
def State.entryBad (s : State) (e : Engine) : Bool :=
  s.bad.any (fun b => match b with | .queue id f pos => id == s.ctx.id && f == e && pos == 0 | _ => false)

/-- The head leaves its queue with its units: it is a started command of its engine, which has served its place, and its start
is traced (R17, R160, R161). -/
def State.takeHead (s : State) (e : Engine) (c : Ctx) (q : QEntry) (units : Nat) (booked : Bool) : State :=
  let s := (s.focus c.id).bump
  let s := s.mctx (fun t => { t with
    queues := t.queues.set e.num (t.queues.get e.num).tail,
    booking := if booked then t.booking.map (fun b => { b with used := b.used + units }) else t.booking })
  let s := { s with bad := s.bad.filterMap (fun (b : SramArray) => match b with
    | .queue id f pos => if id == c.id && f == e then (if pos = 0 then none else some (SramArray.queue id f (pos - 1))) else some b
    | _ => some b) }
  let s := s.mplate (fun p => { p with
    served := p.served.set e.num c.place,
    grants := p.grants.filter (fun g => !(g.1 == e.num && g.2.1 == c.id)),
    running := p.running.set e.num (p.running.get e.num ++ [Running.start c q s.cycle units booked]) })
  s.traceCommand 2 q 0

/-- The start of an acquiring stamp acquires at its scope (R161). -/
def State.commandAcquire (s : State) (q : QEntry) : State := if stAcq q.stencil then s.acquire (stScope q.stencil) else s

/-- The eligible head starts: it leaves its queue with its units and acquires if ACQ; its body is to run (R160, R161). -/
def State.beginCommand (s : State) (e : Engine) (c : Ctx) (q : QEntry) (units : Nat) (booked : Bool) : State :=
  let u := s.takeHead e c q units booked
  let r := Running.start c q s.cycle units booked
  if (s.focus c.id).entryBad e then u.commandFault r .eccUncorr u.anyAddr
  else
    let u := u.commandAcquire q
    u.putRunning r { r with latch := some (u.boundAt q) }

/-- Start the eligible head: it leaves its queue with its units, acquires if ACQ, and runs (R160, R161).
Log entry 14 (DESIGN CHOICE). -/
def State.startCommand (s : State) (e : Engine) (c : Ctx) (q : QEntry) (units : Nat) (booked : Bool) (body : Body) : State :=
  let r := Running.start c q s.cycle units booked
  let u := s.takeHead e c q units booked
  if (s.focus c.id).entryBad e then u.commandFault r .eccUncorr u.anyAddr
  else (u.commandAcquire q).runBody r body

/-- The row of an operation: a started command of it that still waits runs its body; else the eligible head of its engine
starts, if it is one (R160, R161). -/
def commandRow (e : Engine) (op : EngOp) (body : Body) (s : State) : Out :=
  .next (match (s.plate.running.get e.num).find? (fun r => !r.begun && opOf r.ent.stencil == some op) with
    | some r =>
      if (s.ctxOf r.ctx).isNone then
        (s.giveUnits (dieOfPlate s.plate.id) r.units).mrunning e (fun l => l.filter (fun t => !(t.ent == r.ent && t.ctx == r.ctx)))
      else ((s.focus r.ctx).bump).runBody r body
    | none => match s.nextHead e with
      | some (c, q, u, b) => if opOf q.stencil = some op then s.startCommand e c q u b body else s
      | none => s)

/-! ### Completion (R161, R164, R185, R221, R349, R352 to R354, R366) -/

/-- Bytes of the scratchpad that a command lands: rows lose their tags (R166). -/
def State.landBytes (s : State) (bs : List (Nat × Byte)) : State :=
  bs.foldl (fun t b => t.writePiece { va := winBase + b.1, len := 1, tgt := .win b.1 } b.2.toNat 0 true) s

/-- A landed staging block: filling half and record (R179, R319). -/
def Staging.landBlock (g : Staging) (esz blk : Nat) (els : List Nat) : Staging :=
  let r0 := blk / 4 * 32
  let c0 := blk % 4 * 32
  { g with
    esz := BitVec.ofNat 16 (g.esz.toNat - g.esz.toNat / 2 ^ blk % 2 * 2 ^ blk + esz % 2 * 2 ^ blk), landed := g.landed ||| BitVec.ofNat 16 (2 ^ blk),
    elems := (List.range 1024).foldl (fun m i =>
      SMap.set 0 m (128 * (r0 + i / 32) + c0 + i % 32) (BitVec.ofNat 16 (els.getD i 0))) g.elems }

/-- The plate in focus has a bank ALU update n bytes, after what its die has under way to the line: its own copy is written back and
dropped, as an atomic's is, so that its later loads see the update (R137, R282). Log entry 68 (DEDUCED). -/
def State.bankOwn (s : State) (pa n region : Nat) (f : Nat → Nat) : State :=
  (((s.dropCopy (pa / 128)).settle (dieOfPlate s.plate.id) (fun l => l == pa / 128)).bankStep pa n region f).1

/-- One indivisible update of a byte barrier at its bank ALU (R199). -/
def State.barrierUpdate (s : State) (pa region : Nat) (f : Nat → Nat) : State :=
  let s := s.bankOwn pa 16 region f
  { s with barriers := if s.barriers.contains pa then s.barriers else s.barriers ++ [pa] }

/-- A signature mismatch is posted, and SIGSTAT records the first (R353, R354). -/
def State.postMismatch (s : State) (q : QEntry) (tile slot : Nat) : State :=
  let s := s.post s.ctx.die 1 s.plate.id q.esn (BitVec.ofNat 64 s.ctx.id.toNat) (BitVec.ofNat 64 (tile + 4 * slot))
  let first (c : Csrs) : Nat := 1 + (if bitOf c.sigstat 1 then 2 else 0) + slot * 4 + tile * 2 ^ 10 + q.esn.toNat * 2 ^ 32
  let next (c : Csrs) : Word := if bitOf c.sigstat 0 then setBits c.sigstat 1 1 1 else BitVec.ofNat 64 (first c)
  s.mcsr (fun c => { c with sigstat := next c })

/-- A proof mismatch posts its event with the physical rows of the two computations, which differ (R174, R351, R356); which
rows they are is open. Log entry 19 (DESIGN CHOICE). -/
def State.postProof (s : State) (r : Running) : State :=
  match r.fault with
  | some (.proofMismatch, a) =>
    let p := (Config.freeWord s.fresh 1010).toNat % 512
    let q := (p + 1 + (Config.freeWord s.fresh 1011).toNat % 511) % 512
    s.post s.ctx.die 6 s.plate.id r.ent.esn (BitVec.ofNat 64 s.ctx.id.toNat)
      (BitVec.ofNat 64 (p + q * 2 ^ 16 + a.toNat % 2 ^ 16 * 2 ^ 32))
  | _ => s

/-- The WATCH that a command's watched access raises (R366). -/
def Running.watchFault (r : Running) : Option (Cause × Word) :=
  match r.watch with
  | some (_, true, a) => some (.watch, a)
  | _ => none

/-- The one after-completion fault delivered, in the order of R349. -/
def Running.lateFault (r : Running) (c : Csrs) : Option (Cause × Word) :=
  match r.fault with
  | some f => some f
  | none =>
    match r.mis with
    | some (tile, slot) =>
      if bitOf c.sigctl 0 then some (.sigMismatch, BitVec.ofNat 64 (tile + 4 * slot)) else r.watchFault
    | none => r.watchFault

/-- The engine effects a release of command r covers: its stamp's release set and the context's engines so far (R161). -/
def State.engineRel (s : State) (r : Running) : RelSet :=
  let k := Strand.ofNum r.ent.sstr.toNat
  inRelease s.ctx.id k (r.ent.clk.of k) { r.ent.clk with e := s.ctx.ecount + 1 }

/-- A command in its last cycle has met an uncorrectable error at its byte barrier (R185). -/
def State.barrierBad (s : State) (r : Running) : Bool :=
  match r.bbar with
  | some (pa, _, _) => s.poisoned pa
  | none => false

/-- What a command leaves at completion, before its push: its landing bytes, its release, its byte-barrier arrival, its
histogram update, its signature (R161, R180, R185, R352). Log entry 14 (DESIGN CHOICE). -/
def State.commandEffects (s : State) (r : Running) : State :=
  let s := s.landBytes r.land
  let s := match r.block with
    | some (esz, blk, els) => s.mctx (fun c => { c with staging := c.staging.landBlock esz blk els })
    | none => s
  let s := if stRel r.ent.stencil then s.releaseSet (stScope r.ent.stencil) (s.engineRel r) else s
  let s := match r.bbar with
    | some (pa, g, n) => (s.releaseSet 2 (s.engineRel r)).barrierUpdate pa g (barrierArrive n)
    | none => s
  let s := match r.contrib with
    | some c => (s.sendContrib c).settleRecord c.record
    | none => s
  let s := match r.sig with
    | some (n, v) => s.mctx (fun c => { c with sig := SMap.set SigSlot.blank c.sig n v })
    | none => s
  let s := match r.mis with
    | some (tile, slot) => s.postMismatch r.ent tile slot
    | none => s
  (s.postProof r).raise r.flags

/-- The byte of the ready bitmap that holds bit i of the context's table; it lies in COH memory (R313). -/
def State.flagAt (s : State) (i : Nat) : Except Flt (State × List Piece) :=
  s.resolve (s.ctx.task.tdt.toNat + 0x40000 + i / 8) 1 .atomic cohTarget

/-- The fault that setting a command's ready flag meets; a context without a table has no flag (R176, R256). -/
def State.flagFault (s : State) (r : Running) : Option Flt :=
  match r.tdi with
  | none => none
  | some i =>
    if s.ctx.task.tdt = 0 then none
    else match s.flagAt i with
      | .error f => some f
      | .ok _ => none

/-- Set bit i of the context's ready bitmap at its bank ALU (R176, R313, R314); a streamed drain whose rows have not gone to the
port leaves its bytes for its fire (R316). -/
def State.readyFlag (s : State) (r : Running) : State :=
  match r.tdi with
  | none => s
  | some i =>
    let s := match r.strm with
      | some (dws, bs) =>
        if s.fires.any (fun f => f.fed && f.ctx == r.ctx && f.index == i) then s
        else s.mctx (fun c => { c with streams := c.streams.filter (fun e => !(e.1 == i)) ++ [(i, dws, bs)] })
      | none => s
    if s.ctx.task.tdt = 0 then s
    else match s.flagAt i with
      | .ok (t, { tgt := .mem x, .. } :: _) =>
        t.bankOwn x.pa 1 x.region (fun v => v + 2 ^ (i % 8) * (1 - v / 2 ^ (i % 8) % 2))
      | _ => s

/-- A command whose context has ended completes without it: its barrier arrival and its contribution are made, its units
return (R214 step 5, R363). -/
def State.orphanDone (s : State) (r : Running) : State :=
  let s := match r.bbar with
    | some (pa, g, n) =>
      if s.poisoned pa then s
      else (s.releaseSet 2 (fun t => t.1 == r.ctx.toNat && t.2.1 == 4)).barrierUpdate pa g (barrierArrive n)
    | none => s
  let s := match r.contrib with
    | some c => (s.sendContrib c).settleRecord c.record
    | none => s
  s.giveUnits (dieOfPlate s.plate.id) r.units

/-- This is the last busy cycle of a started command; a streamed drain has passed its rows to the port (R161, R316). -/
def Running.ends (r : Running) : Bool :=
  r.begun && r.input == 0 && r.left == 1 && (match r.strm with | some (_, bs) => decide (bs.length ≤ r.gone) | none => true)

/-- COMMAND_COMPLETION: the first command of an engine whose last busy cycle this is completes (R161); a fault marked
"after completion" holds its queue (R164, R221), a stop of the debugger halts the context (R353, R366).
Log entry 14 (DESIGN CHOICE). -/
def execCommandCompletion (e : Engine) (s : State) : Out :=
  .next (match (s.plate.running.get e.num).find? Running.ends with
    | none => s
    | some r =>
      if (s.ctxOf r.ctx).isNone then
        (s.orphanDone r).mrunning e (fun l => l.map (fun t => if t.ent == r.ent && t.ctx == r.ctx then
          { t with left := 0, units := 0, spans := [] } else t))
      else
      let s := (s.focus r.ctx).bump
      if s.barrierBad r then
        s.commandFault r .eccUncorr r.ent.regb
      else match s.flagFault r with
      | some f => s.commandFault r f.1 f.2
      | none =>
        let s := (s.commandEffects r).readyFlag r
        let s := s.mrunning e (fun l => l.map (fun t => if t.ent == r.ent && t.ctx == r.ctx then
          { t with left := 0, units := 0, spans := [] } else t))
        let s := ((s.returnUnits r.units r.booked).mctx (fun c => c.commandDone r.ent true)).traceCommand 3 r.ent 0
        match r.lateFault s.ctx.csr with
        | some (c, a) => s.holdQueue r.ent c a true
        | none =>
          match r.mis, r.watch with
          | some _, _ =>
            if bitOf s.ctx.csr.sigctl 1 then s.haltCtx [0, r.ent.spc, BitVec.ofNat 64 r.ent.esn.toNat, 0] else s
          | none, some (i, _, _) =>
            s.haltCtx [Config.comparatorName 2 i, r.ent.spc, BitVec.ofNat 64 r.ent.esn.toNat, 0]
          | none, none => s)

/-! ### Delivery of engine faults (R348 to R350) -/

/-- The engine fault of the context in focus that is delivered next: engines in the order MXE, TXE, UDE, CPE (R349).
Log entry 18 (DESIGN CHOICE). -/
def Ctx.dueFault (c : Ctx) (old : Nat → Bool) : Option (Nat × HeldFault) :=
  if c.csr.act then none
  else [0, 1, 2, 3].findSome? (fun i => (c.held.get i).bind (fun h =>
    if h.delivered = false ∧ old h.at_ then some (i, h) else none))

/-- Deliver an engine fault: the command names it (R348). Log entry 18 (DESIGN CHOICE). -/
def State.deliverFault (s : State) (i : Nat) (h : HeldFault) : State :=
  let s := s.mctx (fun c => { c with held := c.held.set i (some { h with delivered := true }) })
  s.enterTrap { cause := h.cause, addr := h.addr, eng := true, strand := h.ent.sstr.toNat, tpc := h.ent.spc, word := 0,
                esn := h.ent.esn }

end Sys2Proof.Machine
end

