-- ==== Sys2Proof/Machine/MemWords.lean ====
section
/-! DEFINITION. The memory words of 06: loads and stores, acquire and release words, full/empty words, fences and rounds,
range maintenance, retention and prefetch (R117 to R136), and the landing of loads that missed. -/

namespace Sys2Proof.Machine

/-! ### Watchpoints (R366) -/

/-- Kinds of watched access: load, store, atomic, engine read, engine write. -/
inductive WatchKind where
  | load | store | atomic | engRead | engWrite
  deriving DecidableEq, Repr

def WatchKind.bit : WatchKind → Nat
  | .load => 0 | .store => 1 | .atomic => 2 | .engRead => 3 | .engWrite => 4

/-- The first watchpoint of the plate that an access of [va, va + n) by the context in focus matches: its slot, whether it
traps, and the first matching byte (R364, R366). -/
def State.watched (s : State) (k : WatchKind) (va n : Nat) : Option (Nat × Bool × Word) :=
  (List.range 4).findSome? (fun i =>
    match SMap.get none s.plate.watches i with
    | none => none
    | some w =>
      let lo := w.base.toNat
      if w.asid = s.ctx.space.asid ∧ (w.ctx = none ∨ w.ctx = some s.ctx.id) ∧ w.kinds.getLsbD k.bit = true ∧
          lo < va + n ∧ va < lo + w.len then
        some (i, w.trap && s.ctx.task.mode == 2, BitVec.ofNat 64 (max va lo))
      else none)

/-- What a watched access does once it has taken effect: WATCH, or a stop (R365, R366). -/
def afterWatch (hit : Option (Nat × Bool × Word)) (pc : Word) (s : State) (n : Nat) : Res :=
  match hit with
  | none => .done s n
  | some (i, true, addr) => let _ := i; .after s .watch addr
  | some (i, false, _) => .leave s (.halt [Config.comparatorName 2 i, pc, 0, 0])

/-! ### Loads (R121 to R124) -/

/-- Put a loaded value into its destination within a bound. -/
def State.setLoaded (s : State) (d : Reg) (z : BitVec 3) (v bound : Nat) : State :=
  if z = 7 then s.setV d (BitVec.ofNat 2048 v) bound else s.setX d (szExtend z v) bound

/-- Note a load that missed: its value is bound, its strand must not read it before it lands (R59, R68). -/
def State.missed (s : State) (k : Ctl) (d : Reg) (z : BitVec 3) (v bound : Nat) : State :=
  let me := s.ctx.cur
  let arr : Arrival := if z = 7 then .v (s.vline d) (BitVec.ofNat 2048 v)
    else if d = 0 then .none else .x d.toNat (szExtend z v)
  let f : InFlight := { strand := me, atomic := false, arr := arr, qp := k.qp, qn := k.qn, clk := (s.strand me).clk, left := bound }
  let s := if z = 7 then s.notePend (.v (s.vline d)) bound 0 else if d = 0 then s else s.notePend (.x d.toNat) bound 0
  s.mctx (fun c => { c with flight := c.flight ++ [f] })

/-- The effect of LD and LDP (R124). -/
def ldRes (k : Ctl) (post : Bool) (d a : Reg) (sb : BitVec 4) (rh : BitVec 2) (z : BitVec 3) (s : State) : Res :=
  let va := s.x a
  let n := szBytes z
  let bound := if z = 7 then 10 else 8
  let pc := s.addrOf s.ctx.cur
  if va.toNat % szAlign z ≠ 0 then .trap .misalign va
  else match s.memRead va.toNat n sb.toNat rh.toNat anyTarget with
    | .error (c, addr) => .trap c addr
    | .ok (.wait _) => s.staleWait va
    | .ok (.val s v hit) =>
      let s := if post then s.setX a (va + BitVec.ofNat 64 n) 1 else s
      match s.watched .load va.toNat n with
      | some w => afterWatch (some w) pc (s.setLoaded d z v bound) bound
      | none => if hit then .done (s.setLoaded d z v bound) bound else .later (s.missed k d z v bound)

/-- The vector register that a load or store names: only the .v forms name one (R121). -/
def vforms (d : Reg) (z : BitVec 3) : List Reg := if z = 7 then [d] else []

/-- LD (R121 to R124). -/
def execLd (k : Ctl) (d a : Reg) (sb : BitVec 4) (h : BitVec 2) (z : BitVec 3) (s : State) : Out :=
  .next (s.issue (.ld k d a sb h z) k onlyL false noCheck (fun s => s.inRange (vforms d z) (ldRes k false d a sb h z s)))

/-- LDP: LD with post-increment (R124). -/
def execLdp (k : Ctl) (d a : Reg) (sb : BitVec 4) (h : BitVec 2) (z : BitVec 3) (s : State) : Out :=
  .next (s.issue (.ldp k d a sb h z) k onlyL false noCheck (fun s => s.inRange (vforms d z) (ldRes k true d a sb h z s)))

/-! ### Stores (R125) -/

/-- The number a store writes. -/
def State.storeSource (s : State) (c : Reg) (z : BitVec 3) : Nat :=
  if z = 7 then (s.v c).toNat else (s.x c).toNat % 256 ^ szBytes z

/-- The effect of ST and STP (R125). -/
def stRes (post : Bool) (c a : Reg) (rh : BitVec 2) (z : BitVec 3) (s : State) : Res :=
  let va := s.x a
  let n := szBytes z
  let pc := s.addrOf s.ctx.cur
  if va.toNat % szAlign z ≠ 0 then .trap .misalign va
  else match s.memWrite va.toNat n (s.storeSource c z) rh.toNat false anyTarget with
    | .error (e, addr) => .trap e addr
    | .ok s =>
      let s := if post then s.setX a (va + BitVec.ofNat 64 n) 1 else s
      afterWatch (s.watched .store va.toNat n) pc s 1

/-- ST (R125). -/
def execSt (k : Ctl) (c a : Reg) (h : BitVec 2) (z : BitVec 3) (s : State) : Out :=
  .next (s.issue (.st k c a h z) k onlyS false noCheck (fun s => s.inRange (vforms c z) (stRes false c a h z s)))

/-- STP: ST with post-increment (R125). -/
def execStp (k : Ctl) (c a : Reg) (h : BitVec 2) (z : BitVec 3) (s : State) : Out :=
  .next (s.issue (.stp k c a h z) k onlyS false noCheck (fun s => s.inRange (vforms c z) (stRes true c a h z s)))

/-! ### Acquire and release words (R126, R127) -/

/-- The plate's dirty bytes of a line go to the next level, so that a read past the L1 finds the strand's own stores
(R126, R282). Log entry 36 (DEDUCED). -/
def State.cleanLine (s : State) (line : Nat) : State :=
  match s.plate.l1Find line with
  | some l => (s.writeBack s.plate.id l).l1Update line (fun e => { e with dirty := 0, tags := [], poison := 0, others := [] })
  | none => s

/-- A SWM line of the die's L2 that the strand has itself dirtied is evicted to home memory, so that its read there finds its own
stores (R126, R282, R294). Log entry 36 (DEDUCED). -/
def State.cleanSwm (s : State) (line : Nat) : State :=
  let d := dieOfPlate s.plate.id
  let me := s.ctx.cur.num
  let id := s.ctx.id.toNat
  s.swmHome d (fun t => t.1 == id && t.2.1 == me) ((s.die d).l2.filter (fun e => e.line == line))

/-- A read of one line's bytes at die scope or wider: past the L1, with the normal hint at the L2; a COH copy that the L1 holds
leaves it, so that no later load returns an older value (R126, R282). Log entry 58 (DESIGN CHOICE). -/
def State.readAt (s : State) (p : Piece) (scope : Nat) : Got :=
  match p.tgt with
  | .win _ => s.readPiece p 0 0
  | .mem x =>
    let line := x.pa / 128
    if isCarved x.pa ∨ 2 ≤ x.typ.toNat then s.readPiece p 0 0
    else
      let s := s.cleanLine line
      let d := dieOfPlate s.plate.id
      if x.typ = 1 then
        if 2 ≤ scope then
          let s := s.cleanSwm line
          .val s (s.memNat x.pa p.len) false
        else
          let s := s.l2Access d line 0 true x.region
          .val s (lineNat (s.l2Line d line true) (x.pa % 128) p.len) false
      else
        let s := (s.l1Drop line).l2Access d line 0 false x.region
        .val s (s.memNat x.pa p.len) false

/-- The effect of LDACQ (R126). Log entry 36 (DEDUCED). -/
def ldacqRes (d a : Reg) (scope : Nat) (s : State) : Res :=
  let va := s.x a
  let pc := s.addrOf s.ctx.cur
  if va.toNat % 8 ≠ 0 then .trap .misalign va
  else match s.resolve va.toNat 8 .load anyTarget with
    | .error (c, addr) => .trap c addr
    | .ok (t, ps) =>
      match (if scope = 0 then t.readPieces 0 0 ps else match ps with
        | p :: _ => t.readAt p scope
        | [] => .val t 0 true) with
      | .wait _ => s.staleWait va
      | .val t v _ =>
        afterWatch (t.watched .load va.toNat 8) pc ((t.setX d (BitVec.ofNat 64 v) 8).acquire scope) 8

/-- LDACQ (R126). -/
def execLdacq (k : Ctl) (d a : Reg) (c : BitVec 2) (s : State) : Out :=
  .next (s.issue (.ldacq k d a c) k onlyL false noCheck (ldacqRes d a c.toNat))

/-- A write of one line's bytes at die scope or wider: through the L1, updating a copy it finds, with the normal hint at the L2
(R127). Log entry 58 (DESIGN CHOICE). -/
def State.writeAt (s : State) (p : Piece) (v scope : Nat) : State :=
  match p.tgt with
  | .win _ => s.writePiece p v 0 false
  | .mem x =>
    let line := x.pa / 128
    let off := x.pa % 128
    let d := dieOfPlate s.plate.id
    if isCarved x.pa ∨ 2 ≤ x.typ.toNat then s.writePiece p v 0 false
    else
      let s := s.l1Update line (fun l => { l with
        data := lineSet l.data off p.len v, dirty := l.dirty &&& ~~~(maskOf off p.len) })
      if x.typ = 1 then
        let s := (s.l2Access d line 0 true x.region).l2Merge d line x.region (lineSet 0 off p.len v) (maskOf off p.len)
          [s.writerTag false]
        if 2 ≤ scope then s.cleanSwm line else s
      else (s.l2Access d line 0 false x.region).homeWrite s.plate.id x.region x.pa p.len v

/-- The effect of STREL (R127). -/
def strelRes (a b : Reg) (scope : Nat) (s : State) : Res :=
  let va := s.x a
  let v := (s.x b).toNat
  let pc := s.addrOf s.ctx.cur
  if va.toNat % 8 ≠ 0 then .trap .misalign va
  else match s.resolve va.toNat 8 .store anyTarget with
    | .error (c, addr) => .trap c addr
    | .ok (s, ps) =>
      let s := s.release scope
      let s := if scope = 0 then s.writePieces v 0 false ps else match ps with
        | p :: _ => s.writeAt p v scope
        | [] => s
      afterWatch (s.watched .store va.toNat 8) pc s 1

/-- STREL (R127). -/
def execStrel (k : Ctl) (c : BitVec 2) (a b : Reg) (s : State) : Out :=
  .next (s.issue (.strel k c a b) k onlyS false noCheck (strelRes a b c.toNat))

/-! ### Full/empty words (R128, R129) -/

/-- The offset of a full/empty word, or its fault: window, alignment, reservation, in this order (R128). -/
def State.feOffset (s : State) (va : Word) : Except Cause Nat :=
  let off := va.toNat - winBase
  if inWindow va.toNat = false then .error .page
  else if va.toNat % 4 ≠ 0 then .error .misalign
  else if s.ctx.spres * 65536 ≤ off then .error .page
  else .ok off

/-- The full/empty bit of the word at an offset. -/
def State.full (s : State) (off : Nat) : Bool := SMap.get false s.ctx.fe (off / 4)

/-- Set a full/empty bit. -/
def State.setFull (s : State) (off : Nat) (v : Bool) : State :=
  s.mctx (fun c => { c with fe := SMap.set false c.fe (off / 4) v })

/-- A full/empty word: it waits, not issued, until `ready`; then it reads its data and its actions are one step (R118, R128). -/
def feRes (a : Reg) (read : Bool) (kind : Option WatchKind) (ready : Bool → Bool) (bound : Nat)
    (act : State → Nat → State) (s : State) : Res :=
  let va := s.x a
  let pc := s.addrOf s.ctx.cur
  match s.feOffset va with
  | .error c => .trap c va
  | .ok off =>
    if ready (s.full off) then
      if s.eccFault { va := va.toNat, len := 4, tgt := .win off } (!read) then .trap .eccUncorr va else
      let t := act s off
      match kind with
      | some w => afterWatch (t.watched w va.toNat 4) pc t bound
      | none => .done t bound
    else .stall .fewait false

/-- The scratchpad word at an offset, as a window read gives it. -/
def State.spadWord (s : State) (off : Nat) : Word := BitVec.ofNat 64 (spadNat s.ctx.spad off 4)

/-- Write the scratchpad word at an offset. -/
def State.setSpadWord (s : State) (off : Nat) (v : Word) : State :=
  s.writePiece { va := winBase + off, len := 4, tgt := .win off } (v.toNat % 2 ^ 32) 0 false

/-- LDFE: waits until full, reads, leaves empty. -/
def execLdfe (k : Ctl) (d a : Reg) (s : State) : Out :=
  .next (s.issue (.ldfe k d a) k onlyL false noCheck
    (feRes a true (some .load) (fun b => b) 8 (fun s off => (s.setX d (s.spadWord off) 8).setFull off false)))

/-- STFE: waits until empty, writes, leaves full. -/
def execStfe (k : Ctl) (a b : Reg) (s : State) : Out :=
  .next (s.issue (.stfe k a b) k onlyS false noCheck
    (feRes a false (some .store) (fun b => !b) 1 (fun s off => (s.setSpadWord off (s.x b)).setFull off true)))

/-- LDF: waits until full, reads, leaves full. -/
def execLdf (k : Ctl) (d a : Reg) (s : State) : Out :=
  .next (s.issue (.ldf k d a) k onlyL false noCheck
    (feRes a true (some .load) (fun b => b) 8 (fun s off => s.setX d (s.spadWord off) 8)))

/-- STF: writes and leaves full. -/
def execStf (k : Ctl) (a b : Reg) (s : State) : Out :=
  .next (s.issue (.stf k a b) k onlyS false noCheck
    (feRes a false (some .store) (fun _ => true) 1 (fun s off => (s.setSpadWord off (s.x b)).setFull off true)))

/-- FEPR: p[pd] ← the bit. -/
def execFepr (k : Ctl) (p : BitVec 4) (a : Reg) (s : State) : Out :=
  .next (s.issue (.fepr k p a) k onlyL false noCheck
    (feRes a false none (fun _ => true) 8 (fun s off => s.setP p.toNat (s.full off) 8)))

/-- FESET: the bit ← x[b][0]. -/
def execFeset (k : Ctl) (a b : Reg) (s : State) : Out :=
  .next (s.issue (.feset k a b) k onlyS false noCheck
    (feRes a false none (fun _ => true) 1 (fun s off => s.setFull off (bitOf (s.x b) 0))))

/-! ### Fences and rounds (R130 to R132) -/

/-- FENCE: loads are bound when they issue; a mask that orders earlier stores performs them at the scope (R130).
Log entry 16 (DESIGN CHOICE). -/
def execFence (k : Ctl) (m : BitVec 4) (c : BitVec 2) (s : State) : Out :=
  .next (s.issue (.fence k m c) k anyStrand false noCheck (fun s =>
    .done (if m.getLsbD 2 || m.getLsbD 3 then s.release c.toNat else s) 1))

/-- RPUB (R131). Log entry 16 (DESIGN CHOICE). -/
def execRpub (k : Ctl) (a : Reg) (s : State) : Out :=
  .next (s.issue (.rpub k a) k onlyC false noCheck (fun s =>
    let r := (s.x a).toNat
    if 255 < r then .trap .illegal (s.x a)
    else
      let s := s.release 2
      if r = 0 ∨ s.effRegion r ≠ r then .done s 1
      else
        let s := s.advanceRound r
        .done (s.mctx (fun c => { c with view := SMap.set 0 c.view r (s.region r).round })) 1))

/-- RVIEW (R132). -/
def execRview (k : Ctl) (d a : Reg) (s : State) : Out :=
  .next (s.issue (.rview k d a) k onlyC false noCheck (fun s =>
    let r := (s.x a).toNat
    if 255 < r then .trap .illegal (s.x a)
    else
      let e := s.effRegion r
      let w := (s.ctx.viewOf e).toNat + (s.mirror (dieOfPlate s.plate.id) e).toNat * 65536
      .done (s.setX d (BitVec.ofNat 64 w) 2) 2))

/-! ### Range maintenance (R133) -/

/-- The leaf pages of a table that meet [lo, hi): virtual base, size and entry. Log entry 37 (DEDUCED). -/
def State.leafPages (s : State) (lo hi : Nat) : List Nat → Nat → Nat → List (Nat × Nat × Word)
  | [], _, _ => []
  | sh :: rest, base, table =>
    let cnt := if sh = 16 then 32 else 512
    (List.range cnt).flatMap (fun i =>
      let va := base + i * 2 ^ sh
      if hi ≤ va ∨ va + 2 ^ sh ≤ lo then []
      else
        let e := s.memDw (table + 8 * i)
        if bitOf e 0 = false ∨ bitsOf e 55 47 ≠ 0 ∨ bitsOf e 11 8 ≠ 0 then []
        else if bitOf e 1 then (if 30 < sh ∨ bitsOf e (sh - 1) 12 ≠ 0 then [] else [(va, 2 ^ sh, e)])
        else s.leafPages lo hi rest va (bitsOf e 46 12 * 4096))

/-- The type of a physical line that overlaps a virtual range through one of its pages; the scratchpad window has no lines (R133,
R254). -/
def typeInRange (lo hi : Nat) (pages : List (Nat × Nat × Word)) (line : Nat) : Option Nat :=
  pages.findSome? (fun p =>
    let pa := bitsOf p.2.2 46 12 * 4096
    let va := p.1 + (line * 128 - pa)
    if pa ≤ line * 128 ∧ line * 128 < pa + p.2.1 ∧ va < hi ∧ lo < va + 128 ∧ inWindow va = false then some (bitsOf p.2.2 7 6) else none)

/-- Treat the lines of a range in the plate's L1 and the die's L2: written back by mask, and dropped for CINVR (R133).
Log entry 37 (DEDUCED). -/
def State.maintain (s : State) (lo len : Nat) (drop : Bool) : State :=
  let hi := lo + len
  let pages := s.leafPages lo hi [48, 39, 30, 21, 16] 0 (bitsOf s.ctx.space.root 46 12 * 4096)
  let inRange (line : Nat) (t : Nat) : Bool := typeInRange lo hi pages line == some t
  let d := dieOfPlate s.plate.id
  let mine := s.plate.l1.filter (fun l => inRange l.line 0 || inRange l.line 1)
  let s := (mine.foldl (fun t l => t.cleanLine l.line) s).settle d (fun _ => true)
  let swm := (s.die d).l2.filter (fun e => e.swm && inRange e.line 1)
  let s := s.swmHome d (fun _ => true) swm
  if drop then
    let s := mine.foldl (fun t l => t.l1Drop l.line) s
    s.mdie d (fun t => { t with l2 := t.l2.filter (fun e => !(e.swm && inRange e.line 1)) })
  else s

/-- CWBR and CINVR (R133). -/
def maintainRes (drop : Bool) (a b : Reg) (s : State) : Res :=
  if bitsOf (s.x b) 63 48 ≠ 0 then .trap .illegal (s.x b)
  else if s.x b = 0 then .done s 1
  else .done (s.maintain (s.x a).toNat (s.x b).toNat drop) 1

/-- CWBR (R133). -/
def execCwbr (k : Ctl) (a b : Reg) (s : State) : Out :=
  .next (s.issue (.cwbr k a b) k onlyS false noCheck (maintainRes false a b))

/-- CINVR (R133). -/
def execCinvr (k : Ctl) (a b : Reg) (s : State) : Out :=
  .next (s.issue (.cinvr k a b) k onlyS false noCheck (maintainRes true a b))

/-! ### Retention (R134, R135, R239, R240) -/

/-- U-mode CPIN and CUNPIN of an index need its grant (R249). -/
def State.pinDenied (s : State) (n : Nat) : Bool :=
  s.ctx.space.priv == .u && !(SMap.get none (s.die (dieOfPlate s.plate.id)).grants n == some s.ctx.space.asid)

/-- Release register n: V, WAYS and LINES become 0; its lines stay with RRPV 2 (R135, R240). -/
def Die.unpin (t : Die) (n : Nat) : Die :=
  let r := t.retnOf n
  if r.v then
    { t.mretn n (fun r => { r with v := false, ways := 0, lo := 0, hi := 0, held := [] }) with
      l2 := t.l2.map (fun e => if decide (r.lo ≤ e.line * 128) && decide (e.line * 128 < r.hi) then { e with rrpv := 2 } else e) }
  else t

/-- Move one resident line of register n's range into its ways: one FILL, and an EVICT if it removes another (R134, R238). -/
def State.pinMove (s : State) (d n : Nat) (e : L2Line) : State :=
  let t := s.die d
  let t := { t with l2 := t.l2.filter (fun u => !(u.line == e.line)) }
  match t.l2Victim e.line with
  | none => (s.mdie d (fun _ => t)).l2Out d e
  | some (w, out, t) =>
    let t := t.mretn n (fun q => { q with fills := q.fills + 1, evicts := q.evicts + (if out.isSome then 1 else 0) })
    let s := s.mdie d (fun _ => { t with l2 := { e with way := w } :: t.l2 })
    match out with
    | some o => s.l2Out d o
    | none => s

/-- Lines of ordinary ways that are lost at a point are written back if dirty and dropped (R269, R273). -/
def State.dropLost (s : State) (d point : Nat) : State :=
  let lost (t : Die) (e : L2Line) : Bool :=
    decide (t.carve ≤ e.way) && !(t.heldWays.contains e.way) && !((t.ordinaryWays point (sliceOf e.line)).contains e.way)
  ((s.die d).l2.filter (lost (s.die d))).foldl (fun s e => s.l2Out d e)
    (s.mdie d (fun t => { t with l2 := t.l2.filter (fun e => !(lost t e)) }))

/-- Install register n over [lo, hi) with a number of ways: counters reset, the highest ways not held by another register
are cleared of other traffic, and resident lines of the range move in (R134, R239). -/
def State.pin (s : State) (d n ways lo hi : Nat) (asid : BitVec 12) (vbase : Word) : State :=
  let t := s.die d
  let kept := (t.retnOf n).held
  let others := (List.range 8).flatMap (fun i => if i = n then [] else (t.retnOf i).held)
  let held := ((List.range 16).reverse.filter (fun w => !(others.contains w))).take ways
  let inRange (e : L2Line) : Bool := decide (lo ≤ e.line * 128) && decide (e.line * 128 < hi)
  let t := (t.unpin n).mretn n (fun _ =>
    { v := true, ways := ways, lo := lo, hi := hi, asid := asid, vbase := vbase, held := held, hits := 0, misses := 0,
      fills := 0, evicts := 0 })
  let out := t.l2.filter (fun e => held.contains e.way && !(inRange e))
  let stay (e : L2Line) : Bool := inRange e && held.contains e.way && kept.contains e.way
  let move := t.l2.filter (fun e => inRange e && !(stay e))
  let t := { t with l2 := t.l2.filter (fun e => !(held.contains e.way && !(inRange e)) && !(inRange e && !(stay e))) }
  let s := out.foldl (fun s e => s.l2Out d e) (s.mdie d (fun _ => t))
  (move.foldl (fun s e => s.pinMove d n e) s).dropLost d t.point

/-- Only memory, not the window (R118). -/
def memTarget (t : Target) : Bool := match t with | .mem _ => true | .win _ => false

/-- The effect of CPIN (R134); carved and lost ways count among those held (R248, R269). -/
def cpinRes (n : Nat) (a b : Reg) (s : State) : Res :=
  let va := s.x a
  let len := bitsOf (s.x b) 47 0
  let ways := bitsOf (s.x b) 51 48
  if bitsOf (s.x b) 63 52 ≠ 0 ∨ len = 0 ∨ ways = 0 ∨ 8 < ways then .trap .illegal (s.x b)
  else if inWindow va.toNat then .trap .page va
  else match s.xlate s.ctx.space.asid s.ctx.space.root va.toNat with
    | .error c => .trap c va
    | .ok (s, x) =>
      if x.vpage + x.size < va.toNat + len then .trap .page (BitVec.ofNat 64 (x.vpage + x.size))
      else if x.forbids (s.ctx.space.priv == .u) .load then .trap .prot va
      else if s.pinDenied n then .trap .priv va
      else
        let d := dieOfPlate s.plate.id
        let t := s.die d
        let others := (List.range 8).foldl (fun m i => if i = n then m else m + (t.retnOf i).ways) 0
        if 12 < ways + others + t.carve + t.worstLost t.point then .trap .capacity va
        else .done (s.pin d n ways (x.pa / 128 * 128) ((x.pa + len + 127) / 128 * 128) s.ctx.space.asid va) 1

/-- CPIN (R134). -/
def execCpin (k : Ctl) (n : BitVec 3) (a b : Reg) (s : State) : Out :=
  .next (s.issue (.cpin k n a b) k onlyC false noCheck (cpinRes n.toNat a b))

/-- CUNPIN (R135). -/
def execCunpin (k : Ctl) (n : BitVec 3) (s : State) : Out :=
  .next (s.issue (.cunpin k n) k onlyC false noCheck (fun s =>
    if s.pinDenied n.toNat then .trap .priv s.anyAddr
    else
      let d := dieOfPlate s.plate.id
      .done ((s.mdie d (fun t => t.unpin n.toNat)).dropLost d (s.die d).point) 1))

/-! ### Prefetch (R136) -/

/-- PREF: never faults; its pushes land in the cycle after it issues (R136). A request that finds a copy which waits for a push
is dropped too. Log entry 63 (DESIGN CHOICE). -/
def execPref (k : Ctl) (a : Reg) (s : State) : Out :=
  .next (s.issue (.pref k a) k onlyL false noCheck (fun s =>
    let f : InFlight := { strand := s.ctx.cur, atomic := false, arr := .none, qp := k.qp, qn := k.qn,
                          clk := (s.strand s.ctx.cur).clk, left := 8, due := some (s.cycle + 1) }
    let later (s : State) : Res := .later (s.mctx (fun c => { c with flight := c.flight ++ [f] }))
    match s.resolve (s.x a).toNat 1 .load memTarget with
    | .error _ => later s
    | .ok (t, ps) =>
      if ps.all (fun p => match p.tgt with | .mem x => decide (x.typ.toNat < 2) && !(isCarved x.pa) | .win _ => false) then
        match t.readPieces 0 0 ps with
        | .val t _ _ => later t
        | .wait _ => later s
      else later s))

/-! ### Landings (R59, R68, R137) -/

/-- The oldest landing of the context in focus that a test picks. -/
def State.landFirst (s : State) (pick : InFlight → Bool) : State :=
  match s.ctx.flight.find? pick with
  | none => s
  | some f => s.mctx (fun c => { (c.landFlight f) with flight := c.flight.erase f })

/-- A PREF whose cycle has come (R136). -/
def State.prefDue (s : State) (f : InFlight) : Bool := match f.due with | some t => decide (t ≤ s.cycle) | none => false

/-- What LOAD_RESULT_LAND lands: a PREF whose cycle has come, else the oldest load. -/
def State.landsNow (s : State) (f : InFlight) : Bool :=
  !f.atomic && (if s.ctx.flight.any s.prefDue then s.prefDue f else f.due.isNone)

/-- LOAD_RESULT_LAND: the oldest load of the context in focus that missed lands, with its pushes, or a PREF in its cycle (R59, R68,
R136). Log entry 12 (DEDUCED). -/
def execLoadResultLand (s : State) : Out := .next (s.landFirst s.landsNow)

/-- ATOMIC_REPLY: the oldest reply that has come reaches x[d], and its pushes land (R59, R137). Log entry 12 (DEDUCED). -/
def execAtomicReply (s : State) : Out := .next (s.landFirst (fun f => f.atomic && !f.wait))

end Sys2Proof.Machine
end

