-- ==== Sys2Proof/Machine/Atomic.lean ====
section
/-! DEFINITION. Atomics at the bank ALUs (R137, R138): ATOM and ACAS. -/

namespace Sys2Proof.Machine

/-- COH or carved memory (R137, R250). -/
def atomicTarget (t : Target) : Bool := match t with | .mem x => x.typ == 0 || isCarved x.pa | .win _ => false

/-- Send an atomic to its bank ALU: at the home die it acts at once; at another it travels as AT, and the reply comes back (R137,
R298). It answers what its destination register takes so far, and whether the reply is still to come. -/
def State.atomSend (s : State) (x : Xlat) (op : Nat) (operand expected : Word) (d : Reg) : State × Arrival × Bool :=
  let die := dieOfPlate s.plate.id
  let s := s.dropCopy (x.pa / 128)
  if homeDie x.pa = die then
    let r := s.atomStep x.pa op x.region operand expected
    (r.1, if d = 0 then .none else .x d.toNat (BitVec.ofNat 64 r.2), false)
  else
    let s := s.settle die (fun l => l == x.pa / 128)
    (s.send die (homeDie x.pa) (.atom x.pa op operand expected x.region (s.ctx.id, s.fresh) none),
      if d = 0 then .none else .x d.toNat 0, true)

/-- As `afterWatch`, for a word whose pushes land with the reply in flight. -/
def afterReply (hit : Option (Nat × Bool × Word)) (pc : Word) (s : State) : Res :=
  match hit with
  | none => .later s
  | some (_, true, addr) => .afterReply s .watch addr
  | some (i, false, _) => .leaveReply s (.halt [Config.comparatorName 2 i, pc, 0, 0])

/-- The effect of an atomic, by its place in R137's table: the release, the bank step, and the reply in flight. -/
def atomRes (k : Ctl) (op : Nat) (d a b : Reg) (s : State) : Res :=
  let n := (atomicOp op).1
  let va := s.x a
  let operand := s.x b
  let expected := s.x d
  let pc := s.addrOf s.ctx.cur
  if va.toNat % n ≠ 0 then .trap .misalign va
  else match s.resolve va.toNat n .atomic atomicTarget with
    | .error (c, addr) => .trap c addr
    | .ok (s, ps) =>
      match ps with
      | { tgt := .mem x, .. } :: _ =>
        let tag := s.fresh
        let r := (s.release 2).atomSend x op operand expected d
        let t := r.1
        let me := t.ctx.cur
        afterReply (t.watched .atomic va.toNat n) pc (t.mctx (fun c => { c with
          flight := c.flight ++ [{ strand := me, atomic := true, arr := r.2.1, qp := k.qp, qn := k.qn, clk := (t.strand me).clk,
                                   left := 0, wait := r.2.2, tag := tag }] })).bump
      | _ => .trap .page va

/-- An ATOM or ACAS word, in strands L and S. -/
def atomWord (i : Instr) (k : Ctl) (op : Nat) (d a b : Reg) (s : State) : Out :=
  .next (s.issue i k onlyLS false noCheck (atomRes k op d a b))

/-- AADD (R137). -/
def execAadd (k : Ctl) (d a b : Reg) : State → Out := atomWord (.aadd k d a b) k 0 d a b
/-- AMAX, signed. -/
def execAmax (k : Ctl) (d a b : Reg) : State → Out := atomWord (.amax k d a b) k 1 d a b
/-- AMIN, signed. -/
def execAmin (k : Ctl) (d a b : Reg) : State → Out := atomWord (.amin k d a b) k 2 d a b
/-- AAND. -/
def execAand (k : Ctl) (d a b : Reg) : State → Out := atomWord (.aand k d a b) k 3 d a b
/-- AOR. -/
def execAor (k : Ctl) (d a b : Reg) : State → Out := atomWord (.aor k d a b) k 4 d a b
/-- AXOR. -/
def execAxor (k : Ctl) (d a b : Reg) : State → Out := atomWord (.axor k d a b) k 5 d a b
/-- ASWP. -/
def execAswp (k : Ctl) (d a b : Reg) : State → Out := atomWord (.aswp k d a b) k 6 d a b
/-- AFADD: a 32-bit FP32 add under RNE; no FSTAT flag (R137). -/
def execAfadd (k : Ctl) (d a b : Reg) : State → Out := atomWord (.afadd k d a b) k 7 d a b
/-- ACAS (R137). -/
def execAcas (k : Ctl) (d a b : Reg) : State → Out := atomWord (.acas k d a b) k 8 d a b
/-- ACAS.W (R137). -/
def execAcasW (k : Ctl) (d a b : Reg) : State → Out := atomWord (.acasW k d a b) k 9 d a b

end Sys2Proof.Machine
end

