-- ==== Sys2Proof/Machine/Fetch.lean ====
section
/-! DEFINITION. Fetching a word (R92, R218, R256): the checks of its address, the instruction cache, memory as a normal
load with SB 0 reads it. -/

namespace Sys2Proof.Machine

/-- How a fetch ends. -/
inductive Fetched where
  | word (s : State) (w : BitVec 32)
  /-- The line waits for a push (R290). -/
  | wait
  | fault (c : Cause) (addr : Word)

/-- The instruction cache takes a word: it holds 64 KiB of them, and a full one loses another (R15).
Log entry 34 (DESIGN CHOICE). -/
def icachePut (m : SMap (Option (BitVec 32))) (pa : Nat) (w : BitVec 32) : SMap (Option (BitVec 32)) :=
  SMap.set none (if 16384 ≤ m.length then m.drop 1 else m) pa (some w)

/-- Read the word at a translated address past the instruction cache, and let the cache hold it (R218).
Log entry 16 (DESIGN CHOICE). Log entry 34 (DESIGN CHOICE). -/
def State.refetch (s : State) (va : Nat) (x : Xlat) : Fetched :=
  let p : Piece := { va := va, len := 4, tgt := .mem x }
  if s.eccFault p false then .fault .eccUncorr (BitVec.ofNat 64 va)
  else match s.readPiece p 0 0 with
    | .wait _ => .wait
    | .val s v _ =>
      let w := BitVec.ofNat 32 v
      .word (s.mplate (fun p => { p with icache := icachePut p.icache x.pa w })) w

/-- Fetch the word at an address in the space of the context in focus: PAGE or PROT on the address (R92, R256); a word that
the instruction cache holds is used until FENCEI, unless it has left the cache (R218). Log entry 34 (DESIGN CHOICE). -/
def State.fetchWord (s : State) (va : Word) : Fetched :=
  if inWindow va.toNat then .fault .page va
  else match s.xlate s.ctx.space.asid s.ctx.space.root va.toNat with
    | .error c => .fault c va
    | .ok (s, x) =>
      if x.forbids (s.ctx.space.priv == .u) .fetch then .fault .prot va
      else match SMap.get none s.plate.icache x.pa with
        | none => s.refetch va.toNat x
        | some w => if Config.freeBit s.fresh (8192 + x.pa) then .word s w else s.refetch va.toNat x

/-- The instruction that bits name, if they are an admitted encoding (R81 to R87). -/
def wordOf (w : BitVec 32) : Option Instr :=
  match decodeWord w.toNat with
  | .ok i => some i
  | .error _ => none

/-- The word that strand k stands at, as a fetch now gives it: nothing changes. -/
def State.wordAt (s : State) (k : Strand) : Option Instr :=
  match s.fetchWord (s.addrOf k) with
  | .word _ w => wordOf w
  | _ => none

end Sys2Proof.Machine
end

