-- ==== Sys2Proof/Machine/RegCache.lean ====
section
/-! DEFINITION. The register cache (R15, R16, R60, R67, R269, R270): which lines of the register spaces a plate holds, their
refill from the backing areas and their write-back. A line it holds has its contents in the context's registers; the backing
area has its contents otherwise. The manual gives no replacement: the least recently used line of the bank leaves.
Log entry 59 (DESIGN CHOICE). -/

namespace Sys2Proof.Machine

/-- The bytes of a line of the register space: x0 to x31, x32 to x63, or a line of the general area (R60). -/
def Ctx.regLine (c : Ctx) (l : Nat) : VReg :=
  if l < 2 then
    BitVec.ofNat 2048 ((List.range 32).foldl (fun v i => v + (SMap.get (Cell.init 0) c.x (32 * l + i)).val.toNat * 2 ^ (64 * i)) 0)
  else (SMap.get (Cell.init 0) c.lines l).val

/-- The line of the register space that a named register lies in; x0 lies in none (R60, R66). -/
def State.lineOf (s : State) (r : RegRef) : Option Nat :=
  match r with
  | .x a => if a = 0 then none else some (a.toNat / 32)
  | .v a => some (s.vline a)

/-- Lines that a bank of the plate's register cache holds at a point: 16, less its lost lines (R269, R270). -/
def Plate.regCap (p : Plate) (point bank : Nat) : Nat :=
  16 - (p.regRows.countP (fun e => e.1 / 17 == bank && doomedAt point e.2) - 1)

/-- The operating point of the plate in focus. -/
def State.platePoint (s : State) : Nat := (s.die (dieOfPlate s.plate.id)).point

/-- A line leaves the register cache; a dirty one is written to its backing area (R60, R67, R273). -/
def State.evictReg (s : State) (e : RegLine) : State :=
  let s := s.mplate (fun p => { p with rcache := p.rcache.filter (fun u => !(u.ctx == e.ctx && u.line == e.line)) })
  if e.dirty then
    match s.ctxOf e.ctx with
    | some c => s.putCtx { c with backing := SMap.set 0 c.backing e.line (c.regLine e.line) }
    | none => s
  else s

/-- The lines of a bank beyond its capacity at a point, the least recently used. -/
def Plate.regExcess (p : Plate) (point bank : Nat) : List RegLine :=
  (p.rcache.filter (fun e => e.line % 16 == bank)).drop (p.regCap point bank)

/-- Bring the banks of the register cache down to their capacity at a point (R269, R273). -/
def State.trimRegs (s : State) (point : Nat) : State :=
  ((List.range 16).flatMap (fun b => s.plate.regExcess point b)).foldl State.evictReg s

/-- As `trimRegs`, for a plate. -/
def State.trimPlate (s : State) (p point : Nat) : State := (s.focusPlate p).trimRegs point

/-- The register cache holds a line of the context in focus. -/
def State.regHeld (s : State) (l : Nat) : Bool := s.plate.rcache.any (fun e => e.ctx == s.ctx.id && e.line == l)

/-- A line of the context in focus is in the register cache and is its bank's most recent; what no longer fits leaves. -/
def State.touchReg (s : State) (l : Nat) (write : Bool) : State :=
  let id := s.ctx.id
  let mine (e : RegLine) : Bool := e.ctx == id && e.line == l
  let s := s.mplate (fun p => { p with
    rcache := { ctx := id, line := l, dirty := write || p.rcache.any (fun e => mine e && e.dirty) } ::
      p.rcache.filter (fun e => !(mine e)) })
  (s.plate.regExcess s.platePoint (l % 16)).foldl State.evictReg s

/-- An uncorrectable error stands in a clean line of the register cache: it is fetched again (R357). -/
def State.regSpoilt (s : State) (l : Nat) : Bool :=
  s.plate.rcache.any (fun e => e.ctx == s.ctx.id && e.line == l && !e.dirty) &&
    s.bad.any (fun b => match b with | .regcache id off => id == s.ctx.id && off / 256 == l | _ => false)

/-- The lines that registers lie in and the register cache must fetch, as many of a bank as it can hold (R269, R357). -/
def State.regMisses (s : State) (refs : List RegRef) : List Nat :=
  let lines := (refs.filterMap s.lineOf).eraseDups
  ((List.range 16).flatMap (fun b => (lines.filter (fun l => l % 16 == b)).take (s.plate.regCap s.platePoint b))).filter
    (fun l => !(s.regHeld l) || s.regSpoilt l)

/-- A line comes in from its backing area; an error that stood in it is gone (R60, R357). -/
def State.fetchReg (s : State) (l : Nat) : State :=
  let id := s.ctx.id
  ({ s with bad := s.bad.filter (fun b => match b with
    | .regcache c off => !(c == id && off / 256 == l)
    | _ => true) }).touchReg l false

/-- The group's registers are used: their lines are recent, those written dirty. -/
def State.useRegs (s : State) (reads writes : List RegRef) : State :=
  (writes.filterMap s.lineOf).foldl (fun t l => t.touchReg l true) ((reads.filterMap s.lineOf).foldl (fun t l => t.touchReg l false) s)

/-- A bank goes off: its dirty lines are written to their backing areas and it holds nothing (R67). -/
def State.bankOff (s : State) (bank : Nat) : State :=
  (s.plate.rcache.filter (fun e => e.line % 16 == bank)).foldl State.evictReg s

/-- The context in focus leaves the register cache: dirty lines are written back (R333). -/
def State.flushRegs (s : State) : State := (s.plate.rcache.filter (fun e => e.ctx == s.ctx.id)).foldl State.evictReg s

/-- The backing area of a context whose registers a launch or a restore has written there (R328, R335). -/
def Ctx.backed (c : Ctx) : Ctx :=
  { c with backing := (List.range 128).foldl (fun m l => SMap.set 0 m l (c.regLine l)) c.backing }

end Sys2Proof.Machine
end

