-- ==== Sys2Proof/Machine/Control.lean ====
section
/-! DEFINITION. Branch targets, delayed transfers and hardware loops (R107 to R115). -/

namespace Sys2Proof.Machine

/-- A word whose only effect is b[n] ← f in the issuing strand (R107, R108). -/
def bWord (i : Instr) (k : Ctl) (n : BitVec 2) (f : State → Word) (s : State) : Out :=
  .next (s.issue i k anyStrand false noCheck (fun s => .done (s.setB n (f s)) 1))

/-- BPT: b[n] ← A + 4 × sext(offset19) (R107). -/
def execBpt (k : Ctl) (n : BitVec 2) (o : BitVec 19) : State → Out :=
  bWord (.bpt k n o) k n (fun s => s.addrOf s.ctx.cur + simm o * 4)

/-- BPR: b[n] ← x[a] (R108). -/
def execBpr (k : Ctl) (n : BitVec 2) (a : Reg) : State → Out :=
  bWord (.bpr k n a) k n (fun s => s.x a)

/-- BTOX: x[d] ← b[n] of the issuing strand (R108). -/
def execBtox (k : Ctl) (d : Reg) (n : BitVec 2) (s : State) : Out :=
  .next (s.issue (.btox k d n) k anyStrand false noCheck (fun s => .done (s.setX d (s.b n) 1) 1))

/-- An address is not a multiple of the mode's step. -/
def State.offStep (s : State) (t : Word) : Bool := decide (t.toNat % s.ctx.stepOf ≠ 0)

/-- A transfer that is taken is traced: from, to, strand (R369). -/
def State.traceJump (s : State) (t : Word) : State :=
  s.trace 1 [s.addrOf s.ctx.cur, t, BitVec.ofNat 64 s.ctx.cur.num, 0, 0, 0]

/-- JD: predicate and target are read at issue; the link goes to x63; the D slots always run (R109, R110). -/
def jdRes (n : BitVec 2) (p : BitVec 4) (g : Bool) (e : BitVec 2) (l : Bool) (s : State) : Res :=
  let taken := s.p p.toNat ^^ g
  let target := s.b n
  let after := s.addrOf s.ctx.cur + BitVec.ofNat 64 (s.ctx.stepOf * (e.toNat + 1))
  if taken && s.offStep target then .trap .misalign target
  else if taken then
    .jump ((if l then s.setX 63 after 1 else s).traceJump target) target e.toNat
  else .jump s after e.toNat

/-- JD (R109): a control transfer, in slot 0 or any apart strand. -/
def execJd (k : Ctl) (n : BitVec 2) (p : BitVec 4) (g : Bool) (e : BitVec 2) (l : Bool) (s : State) : Out :=
  .next (s.issue (.jd k n p g e l) k anyStrand true noCheck (jdRes n p g e l))

/-- The first watchpoint that one of JTAB's two loads meets (R111, R366). -/
def State.jtabWatch (s : State) (base ea : Word) : Option (Nat × Bool × Word) :=
  match s.watched .load base.toNat 8 with
  | some w => some w
  | none => s.watched .load ea.toNat 8

/-- JTAB reads its length, then one target, as ordinary loads of a whole doubleword (R111). A watchpoint that traps is taken
with the transfer as its next word (R387). Log entry 16 (DESIGN CHOICE). -/
def jtabRes (a b : Reg) (s : State) : Res :=
  let base := s.x a
  if base.toNat % 8 ≠ 0 then .trap .misalign base
  else match s.memRead base.toNat 8 0 0 anyTarget with
    | .error (c, addr) => .trap c addr
    | .ok (.wait _) => s.staleWait base
    | .ok (.val s1 n _) =>
      let idx := (s.x b).toNat
      let ea := base + (if idx < n then BitVec.ofNat 64 (8 * (idx + 2)) else 8)
      match s1.memRead ea.toNat 8 0 0 anyTarget with
      | .error (c, addr) => .trap c addr
      | .ok (.wait _) => s.staleWait ea
      | .ok (.val s2 t _) =>
        let t := BitVec.ofNat 64 t
        if s.offStep t then .trap .misalign t
        else
          let u := s2.traceJump t
          match u.jtabWatch base ea with
          | none => .jump u t 0
          | hit => afterWatch hit (s.addrOf s.ctx.cur) (u.mstrand u.ctx.cur (fun k => { k with xfer := some (t, 1) })) 1

/-- JTAB (R111): a control transfer through a table, without delay slots. -/
def execJtab (k : Ctl) (a b : Reg) (s : State) : Out :=
  .next (s.issue (.jtab k a b) k anyStrand true noCheck (jtabRes a b))

/-! ### Hardware loops (R112 to R115) -/

/-- A window predicate after a loop word: in lock-step every slot sees it from the next bundle on; apart it is a write of
strand C (R115). -/
def State.setLoopP (s : State) (n : Nat) (v : Bool) : State :=
  if s.ctx.lockstep then s.mctx (fun c => c.setWindow n v) else s.setP n v 1

/-- shift(v): p15 ← p14, …, p9 ← p8, p8 ← v, all at once, from the predicates as strand C sees them (R96, R113). -/
def State.shiftWindow (s : State) (v : Bool) : State :=
  (List.range 8).foldl (fun t i => t.setLoopP (8 + i) (if i = 0 then v else s.p (7 + i))) s

/-- Change the loop state. -/
def State.mloop (s : State) (f : LoopSt → LoopSt) : State := s.mctx (fun c => { c with loop := f c.loop })

/-- LPS (R112). -/
def execLps (k : Ctl) (a : Reg) (n : BitVec 3) (s : State) : Out :=
  .next (s.issue (.lps k a n) k onlyC false noCheck (fun s =>
    if s.ctx.loop.active then .trap .illegal 0
    else
      let cnt := s.x a
      let s := (List.range 8).foldl (fun t i => t.setLoopP (8 + i) (i == 0 && !(cnt == 0))) s
      .done (s.mloop (fun _ =>
        { lc := cnt, ls := n.toNat + 1, ldc := if cnt = 0 then 0 else n.toNat, active := true })) 1))

/-- Counter i of the bank-conflict matrix: what the plate holds, and the waits since its last snapshot, a number the manual
leaves open, for it gives no schedule of the engines' accesses; it saturates (R242, R346). Log entry 17 (DESIGN CHOICE). -/
def State.bankCount (s : State) (i : Nat) : Nat :=
  min 65535 (SMap.get 0 s.plate.matrix i + (Config.freeWord s.fresh (20000 + i)).toNat % 65536)

/-- The matrix snapshot that the LBR ending a loop writes under BANK and EN: a KIND 2 record and the 256 counters, which
are then cleared (R346). -/
def State.bankSnapshot (s : State) (pc : Word) : State :=
  if bitOf s.ctx.csr.accctl 2 && bitOf s.ctx.csr.accctl 0 then
    let half (i : Nat) : Nat := (List.range 4).foldl (fun v j => v + s.bankCount (4 * i + j) * 2 ^ (16 * j)) 0
    let s := s.streamRecord (2 + bitsOf pc 56 2 * 256) (s.cycle % 2 ^ 32)
    let s := (List.range 32).foldl (fun t i => t.streamRecord (half (2 * i)) (half (2 * i + 1))) s
    s.mplate (fun p => { p with matrix := [] })
  else s

/-- LBR: a pass closes; the loop repeats, drains or ends (R113). -/
def lbrRes (n : BitVec 2) (s : State) : Res :=
  let l := s.ctx.loop
  let target := s.b n
  if !l.active then .trap .illegal 0
  else if (decide (1 < l.lc.toNat) || decide (0 < l.ldc)) && s.offStep target then .trap .misalign target
  else if 1 < l.lc.toNat then
    .jump (((s.mloop (fun l => { l with lc := l.lc - 1 })).shiftWindow true).traceJump target) target 0
  else if 0 < l.ldc then
    .jump (((s.mloop (fun l => { l with lc := 0, ldc := l.ldc - 1 })).shiftWindow false).traceJump target) target 0
  else .done ((s.mloop (fun l => { l with lc := 0, active := false })).bankSnapshot (s.addrOf .c)) 1

/-- LBR (R113): a control transfer of strand C. -/
def execLbr (k : Ctl) (n : BitVec 2) (s : State) : Out :=
  .next (s.issue (.lbr k n) k onlyC true noCheck (lbrRes n))

/-- LCR: x[d] ← LC (R114). -/
def execLcr (k : Ctl) (d : Reg) (s : State) : Out :=
  .next (s.issue (.lcr k d) k onlyC false noCheck (fun s => .done (s.setX d s.ctx.loop.lc 1) 1))

/-- LCW: LC ← x[a], whether or not a loop is active (R114). -/
def execLcw (k : Ctl) (a : Reg) (s : State) : Out :=
  .next (s.issue (.lcw k a) k onlyC false noCheck (fun s =>
    let v := s.x a
    .done (s.mloop (fun l => { l with lc := v })) 1))

end Sys2Proof.Machine
end

