-- ==== Sys2Proof/Machine/Scalar.lean ====
section
/-! DEFINITION. The scalar and predicate words of 05: ALU, MULX, DIVX, UNX, the immediates, LI, LSI, ADRX, SEL, CMP,
CMPI, PLOG and VOTE. Each is admitted in the strands of R81, sets no flag and raises nothing past the checks of R92 (R95). -/

namespace Sys2Proof.Machine

/-- A word whose only effect is x[d] ← f, within a bound (R95). -/
def xWord (i : Instr) (k : Ctl) (d : Reg) (bound : Nat) (f : State → Word) (s : State) : Out :=
  .next (s.issue i k anyStrand false noCheck (fun s => .done (s.setX d (f s) bound) bound))

/-- A word whose only effect is p[d] ← f with bound 1 (R95). -/
def pWord (i : Instr) (k : Ctl) (allowed : Strand → Bool) (d : BitVec 4) (f : State → Bool) (s : State) : Out :=
  .next (s.issue i k allowed false noCheck (fun s => .done (s.setP d.toNat (f s) 1) 1))

/-! ### ALU, MULX, DIVX (R97) -/

/-- ADD: a + b (R97); ADD x0, x0, x0 is the NOP (R51). -/
def execAdd (k : Ctl) (d a b : Reg) : State → Out :=
  xWord (.add k d a b) k d 1 (fun s => s.x a + s.x b)

/-- SUB: a − b (R97). -/
def execSub (k : Ctl) (d a b : Reg) : State → Out :=
  xWord (.sub k d a b) k d 1 (fun s => s.x a - s.x b)

/-- AND (R97). -/
def execAnd (k : Ctl) (d a b : Reg) : State → Out :=
  xWord (.and k d a b) k d 1 (fun s => s.x a &&& s.x b)

/-- OR (R97). -/
def execOr (k : Ctl) (d a b : Reg) : State → Out :=
  xWord (.or k d a b) k d 1 (fun s => s.x a ||| s.x b)

/-- XOR (R97). -/
def execXor (k : Ctl) (d a b : Reg) : State → Out :=
  xWord (.xor k d a b) k d 1 (fun s => s.x a ^^^ s.x b)

/-- SHL (R97). -/
def execShl (k : Ctl) (d a b : Reg) : State → Out :=
  xWord (.shl k d a b) k d 1 (fun s => shlOp (s.x a) (s.x b))

/-- SHR (R97). -/
def execShr (k : Ctl) (d a b : Reg) : State → Out :=
  xWord (.shr k d a b) k d 1 (fun s => shrOp (s.x a) (s.x b))

/-- SAR (R97). -/
def execSar (k : Ctl) (d a b : Reg) : State → Out :=
  xWord (.sar k d a b) k d 1 (fun s => sarOp (s.x a) (s.x b))

/-- MUL: low 64 bits (R97). -/
def execMul (k : Ctl) (d a b : Reg) : State → Out :=
  xWord (.mul k d a b) k d 3 (fun s => s.x a * s.x b)

/-- MULH (R97). -/
def execMulh (k : Ctl) (d a b : Reg) : State → Out :=
  xWord (.mulh k d a b) k d 3 (fun s => mulhOp (s.x a) (s.x b))

/-- MULHU (R97). -/
def execMulhu (k : Ctl) (d a b : Reg) : State → Out :=
  xWord (.mulhu k d a b) k d 3 (fun s => mulhuOp (s.x a) (s.x b))

/-- MIN, signed (R97). -/
def execMin (k : Ctl) (d a b : Reg) : State → Out :=
  xWord (.min k d a b) k d 1 (fun s => if (s.x a).toInt ≤ (s.x b).toInt then s.x a else s.x b)

/-- MAX, signed (R97). -/
def execMax (k : Ctl) (d a b : Reg) : State → Out :=
  xWord (.max k d a b) k d 1 (fun s => if (s.x a).toInt ≤ (s.x b).toInt then s.x b else s.x a)

/-- MINU (R97). -/
def execMinu (k : Ctl) (d a b : Reg) : State → Out :=
  xWord (.minu k d a b) k d 1 (fun s => if (s.x a).toNat ≤ (s.x b).toNat then s.x a else s.x b)

/-- MAXU (R97). -/
def execMaxu (k : Ctl) (d a b : Reg) : State → Out :=
  xWord (.maxu k d a b) k d 1 (fun s => if (s.x a).toNat ≤ (s.x b).toNat then s.x b else s.x a)

/-- ANDN: a AND NOT b (R97). -/
def execAndn (k : Ctl) (d a b : Reg) : State → Out :=
  xWord (.andn k d a b) k d 1 (fun s => s.x a &&& ~~~(s.x b))

/-- DIV (R97). -/
def execDiv (k : Ctl) (d a b : Reg) : State → Out :=
  xWord (.div k d a b) k d 20 (fun s => divOp (s.x a) (s.x b))

/-- DIVU (R97). -/
def execDivu (k : Ctl) (d a b : Reg) : State → Out :=
  xWord (.divu k d a b) k d 20 (fun s => divuOp (s.x a) (s.x b))

/-- REM (R97). -/
def execRem (k : Ctl) (d a b : Reg) : State → Out :=
  xWord (.rem k d a b) k d 20 (fun s => remOp (s.x a) (s.x b))

/-- REMU (R97). -/
def execRemu (k : Ctl) (d a b : Reg) : State → Out :=
  xWord (.remu k d a b) k d 20 (fun s => remuOp (s.x a) (s.x b))

/-- SLT (R97). -/
def execSlt (k : Ctl) (d a b : Reg) : State → Out :=
  xWord (.slt k d a b) k d 1 (fun s => wordOfBool (decide ((s.x a).toInt < (s.x b).toInt)))

/-- SLTU (R97). -/
def execSltu (k : Ctl) (d a b : Reg) : State → Out :=
  xWord (.sltu k d a b) k d 1 (fun s => wordOfBool (decide ((s.x a).toNat < (s.x b).toNat)))

/-- ORN: a OR NOT b (R97). -/
def execOrn (k : Ctl) (d a b : Reg) : State → Out :=
  xWord (.orn k d a b) k d 1 (fun s => s.x a ||| ~~~(s.x b))

/-! ### UNX (R98) -/

/-- CLZ (R98). -/
def execClz (k : Ctl) (d a : Reg) : State → Out :=
  xWord (.clz k d a) k d 1 (fun s => clzOp (s.x a))

/-- CTZ (R98). -/
def execCtz (k : Ctl) (d a : Reg) : State → Out :=
  xWord (.ctz k d a) k d 1 (fun s => ctzOp (s.x a))

/-- POPC (R98). -/
def execPopc (k : Ctl) (d a : Reg) : State → Out :=
  xWord (.popc k d a) k d 1 (fun s => popcOp (s.x a))

/-- BREV (R98). -/
def execBrev (k : Ctl) (d a : Reg) : State → Out :=
  xWord (.brev k d a) k d 1 (fun s => brevOp (s.x a))

/-- ABS (R98). -/
def execAbs (k : Ctl) (d a : Reg) : State → Out :=
  xWord (.abs k d a) k d 1 (fun s => absOp (s.x a))

/-- SXB (R98). -/
def execSxb (k : Ctl) (d a : Reg) : State → Out :=
  xWord (.sxb k d a) k d 1 (fun s => sxOp 8 (s.x a))

/-- SXH (R98). -/
def execSxh (k : Ctl) (d a : Reg) : State → Out :=
  xWord (.sxh k d a) k d 1 (fun s => sxOp 16 (s.x a))

/-- SXW (R98). -/
def execSxw (k : Ctl) (d a : Reg) : State → Out :=
  xWord (.sxw k d a) k d 1 (fun s => sxOp 32 (s.x a))

/-! ### Immediates (R99, R100) -/

/-- ADDI (R99). -/
def execAddi (k : Ctl) (d a : Reg) (i : BitVec 9) : State → Out :=
  xWord (.addi k d a i) k d 1 (fun s => s.x a + simm i)

/-- ANDI (R99). -/
def execAndi (k : Ctl) (d a : Reg) (i : BitVec 9) : State → Out :=
  xWord (.andi k d a i) k d 1 (fun s => s.x a &&& simm i)

/-- ORI (R99). -/
def execOri (k : Ctl) (d a : Reg) (i : BitVec 9) : State → Out :=
  xWord (.ori k d a i) k d 1 (fun s => s.x a ||| simm i)

/-- XORI (R99). -/
def execXori (k : Ctl) (d a : Reg) (i : BitVec 9) : State → Out :=
  xWord (.xori k d a i) k d 1 (fun s => s.x a ^^^ simm i)

/-- SLTI (R99). -/
def execSlti (k : Ctl) (d a : Reg) (i : BitVec 9) : State → Out :=
  xWord (.slti k d a i) k d 1 (fun s => wordOfBool (decide ((s.x a).toInt < (simm i).toInt)))

/-- SLTIU (R99). -/
def execSltiu (k : Ctl) (d a : Reg) (i : BitVec 9) : State → Out :=
  xWord (.sltiu k d a i) k d 1 (fun s => wordOfBool (decide ((s.x a).toNat < (simm i).toNat)))

/-- SHLI (R99). -/
def execShli (k : Ctl) (d a : Reg) (n : BitVec 6) : State → Out :=
  xWord (.shli k d a n) k d 1 (fun s => shlOp (s.x a) (zimm n))

/-- SHRI (R99). -/
def execShri (k : Ctl) (d a : Reg) (n : BitVec 6) : State → Out :=
  xWord (.shri k d a n) k d 1 (fun s => shrOp (s.x a) (zimm n))

/-- SARI (R99). -/
def execSari (k : Ctl) (d a : Reg) (n : BitVec 6) : State → Out :=
  xWord (.sari k d a n) k d 1 (fun s => sarOp (s.x a) (zimm n))

/-- LI: x[d] ← sext(imm15) (R100). -/
def execLi (k : Ctl) (d : Reg) (i : BitVec 15) : State → Out :=
  xWord (.li k d i) k d 1 (fun _ => simm i)

/-- LSI: x[d] ← x[d] × 2^15 + imm15, reading its own destination (R100). -/
def execLsi (k : Ctl) (d : Reg) (i : BitVec 15) : State → Out :=
  xWord (.lsi k d i) k d 1 (fun s => s.x d * 32768 + zimm i)

/-! ### ADRX and SEL (R101 to R104) -/

/-- ADDS1: a + b × 2^1 (R101). -/
def execAdds1 (k : Ctl) (d a b : Reg) : State → Out :=
  xWord (.adds1 k d a b) k d 1 (fun s => s.x a + s.x b * 2)

/-- ADDS2: a + b × 2^2 (R101). -/
def execAdds2 (k : Ctl) (d a b : Reg) : State → Out :=
  xWord (.adds2 k d a b) k d 1 (fun s => s.x a + s.x b * 4)

/-- ADDS3: a + b × 2^3 (R101). -/
def execAdds3 (k : Ctl) (d a b : Reg) : State → Out :=
  xWord (.adds3 k d a b) k d 1 (fun s => s.x a + s.x b * 8)

/-- ADDS4: a + b × 2^4 (R101). -/
def execAdds4 (k : Ctl) (d a b : Reg) : State → Out :=
  xWord (.adds4 k d a b) k d 1 (fun s => s.x a + s.x b * 16)

/-- BFX (R102). -/
def execBfx (k : Ctl) (d a b : Reg) : State → Out :=
  xWord (.bfx k d a b) k d 1 (fun s => bfxOp (s.x a) (s.x b))

/-- BFI, reading its own destination (R102). -/
def execBfi (k : Ctl) (d a b : Reg) : State → Out :=
  xWord (.bfi k d a b) k d 1 (fun s => bfiOp (s.x d) (s.x a) (s.x b))

/-- PTOX (R103). -/
def execPtox (k : Ctl) (d : Reg) (p : BitVec 4) : State → Out :=
  xWord (.ptox k d p) k d 1 (fun s => wordOfBool (s.p p.toNat))

/-- XTOP (R103). -/
def execXtop (k : Ctl) (p : BitVec 4) (a : Reg) : State → Out :=
  pWord (.xtop k p a) k anyStrand p (fun s => !(s.x a == 0))

/-- SEL: x[a] if p[n], else x[b] (R104). -/
def execSel (k : Ctl) (d a b : Reg) (p : BitVec 3) : State → Out :=
  xWord (.sel k d a b p) k d 1 (fun s => if s.p p.toNat then s.x a else s.x b)

/-! ### Compares, predicate logic, votes (R105, R106, R116) -/

/-- CMP (R105). -/
def execCmp (k : Ctl) (p : BitVec 4) (a b : Reg) (c : BitVec 3) (m : BitVec 2) : State → Out :=
  pWord (.cmp k p a b c m) k anyStrand p (fun s => predMode m (s.p p.toNat) (condOf c (s.x a) (s.x b)))

/-- CMPI (R105). -/
def execCmpi (k : Ctl) (p : BitVec 4) (a : Reg) (i : BitVec 6) (c : BitVec 3) (m : BitVec 2) : State → Out :=
  pWord (.cmpi k p a i c m) k anyStrand p (fun s => predMode m (s.p p.toNat) (condOf c (s.x a) (simm i)))

/-- PAND (R106). -/
def execPand (k : Ctl) (p q r : BitVec 4) : State → Out :=
  pWord (.pand k p q r) k anyStrand p (fun s => s.p q.toNat && s.p r.toNat)

/-- POR (R106). -/
def execPor (k : Ctl) (p q r : BitVec 4) : State → Out :=
  pWord (.por k p q r) k anyStrand p (fun s => s.p q.toNat || s.p r.toNat)

/-- PXOR (R106). -/
def execPxor (k : Ctl) (p q r : BitVec 4) : State → Out :=
  pWord (.pxor k p q r) k anyStrand p (fun s => s.p q.toNat ^^ s.p r.toNat)

/-- PANDN (R106). -/
def execPandn (k : Ctl) (p q r : BitVec 4) : State → Out :=
  pWord (.pandn k p q r) k anyStrand p (fun s => s.p q.toNat && !(s.p r.toNat))

/-- PNOT (R106). -/
def execPnot (k : Ctl) (p q r : BitVec 4) : State → Out :=
  pWord (.pnot k p q r) k anyStrand p (fun s => !(s.p q.toNat))

/-- PMOV (R106). -/
def execPmov (k : Ctl) (p q r : BitVec 4) : State → Out :=
  pWord (.pmov k p q r) k anyStrand p (fun s => s.p q.toNat)

/-- PSET (R106). -/
def execPset (k : Ctl) (p q r : BitVec 4) : State → Out :=
  pWord (.pset k p q r) k anyStrand p (fun _ => true)

/-- PCLR (R106). -/
def execPclr (k : Ctl) (p q r : BitVec 4) : State → Out :=
  pWord (.pclr k p q r) k anyStrand p (fun _ => false)

/-- VANY (R116). -/
def execVany (k : Ctl) (p : BitVec 4) (v : BitVec 3) : State → Out :=
  pWord (.vany k p v) k onlyX p (fun s => !(s.vp v.toNat == 0))

/-- VALL (R116). -/
def execVall (k : Ctl) (p : BitVec 4) (v : BitVec 3) : State → Out :=
  pWord (.vall k p v) k onlyX p (fun s => s.vp v.toNat == BitVec.allOnes 64)

/-- VNONE (R116). -/
def execVnone (k : Ctl) (p : BitVec 4) (v : BitVec 3) : State → Out :=
  pWord (.vnone k p v) k onlyX p (fun s => s.vp v.toNat == 0)

end Sys2Proof.Machine
end

