-- ==== Sys2Proof/Machine/Matrix.lean ====
section
/-! DEFINITION. The matrix engine: MWL, MMA, MDR, MAZ, MAS, MAR (R41 to R48, R165 to R178) and drain signatures (R352). -/

namespace Sys2Proof.Machine

/-! ### Scratchpad operands (R165) -/

/-- A scratchpad range reaches beyond the reservation (R165). -/
def State.spadFault (s : State) (lo n : Nat) : Option Flt :=
  let lim := s.ctx.spres * 65536
  if lo + n ≤ lim then none else some (.page, winAddr (max lim lo))

/-- The extent of rows at a base and pitch. -/
def extent (pitch rows bytes : Nat) : Nat := 32 * ((rows - 1) * pitch) + bytes

/-- A word of some range holds an uncorrectable error (R357). -/
def State.spadBad (s : State) (ranges : List (Nat × Nat)) : Option Flt :=
  s.bad.findSome? (fun b => match b with
    | .scratchpad id o =>
      if id == s.ctx.id && ranges.any (fun p => decide (p.1 < o / 4 * 4 + 4) && decide (o / 4 * 4 < p.1 + p.2)) then
        some (.eccUncorr, winAddr (o / 4 * 4))
      else none
    | _ => none)

/-- TADDR of R174: tile, row and column. -/
def accAddr (tile row col : Nat) : Word := BitVec.ofNat 64 (tile + 4 * row + 2 ^ 9 * col)

/-- An element of a tile below the given row and column holds an uncorrectable error (R357). -/
def State.accBad (s : State) (tile rows cols : Nat) : Option Flt :=
  s.bad.findSome? (fun b => match b with
    | .accumulator id t r c =>
      if id == s.ctx.id && t.toNat == tile && decide (r.toNat < rows) && decide (c.toNat < cols) then
        some (.eccUncorr, accAddr tile r.toNat c.toNat)
      else none
    | _ => none)

/-- A write of the elements below row and column clears what stood there. -/
def State.accCure (s : State) (tile rows cols : Nat) : State :=
  { s with bad := s.bad.filter (fun b => match b with
    | .accumulator id t r c => !(id == s.ctx.id && t.toNat == tile && decide (r.toNat < rows) && decide (c.toNat < cols))
    | _ => true) }

/-- The first fault of a list of checks. -/
def firstFlt : List (Option Flt) → Option Flt
  | [] => none
  | some f :: _ => some f
  | none :: fs => firstFlt fs

/-- The element words of a row of n elements (R139, R168). -/
def State.rowElems (s : State) (fmt off n : Nat) : List Nat :=
  let w := fmtWidth fmt
  let v := spadNat s.ctx.spad off (rowBytes fmt n)
  (List.range n).map (fun j => v / 2 ^ (w * j) % 2 ^ w)

/-- The block-scale bytes of an MXFP4 row; empty for other formats (R168). -/
def State.rowScales (s : State) (fmt off n : Nat) : List Nat :=
  if fmt = 7 ∨ fmt = 8 then
    (List.range ((n + 31) / 32)).map (fun b => spadNat s.ctx.spad (off + (n + 1) / 2 + b) 1)
  else []

/-- TILE is in the context's accumulator mask (R172). -/
def Ctx.hasTile (c : Ctx) (tile : Nat) : Bool := c.task.accmask.getLsbD tile

/-! ### MWL (R169 to R171, R180) -/

/-- Physical K capacity of a class (R168). -/
def classCap (cl : Nat) : Nat := if cl = 4 then 512 else 128

/-- The largest logical K (R170). -/
def kLimit (sparse cl : Nat) : Nat :=
  if sparse = 0 then classCap cl else if sparse = 1 then 48 * (classCap cl / 24) else 48 * (classCap cl / 12)

/-- Rows kept in a full group. -/
def keepOf (sparse : Nat) : Nat := if sparse = 1 then 24 else 12

/-- A group's mask obeys R171: `rest` is how many logical rows the group holds. -/
def maskOk (sparse : Nat) (m : Word) (rest : Nat) : Bool :=
  let n := (popcOp m).toNat
  if 48 ≤ rest then n == keepOf sparse && bitsOf m 63 48 == 0
  else decide (n ≤ keepOf sparse) && decide (m.toNat < 2 ^ rest)

/-- The logical rows a mask keeps, ascending, or the offending doubleword (R171). -/
def State.readMask (s : State) (sparse base k : Nat) : Except Nat (List Nat) :=
  let groups := (k + 47) / 48
  let dw (g : Nat) : Word := BitVec.ofNat 64 (spadNat s.ctx.spad (base + 8 * g) 8)
  match (List.range groups).find? (fun g => !(maskOk sparse (dw g) (k - 48 * g))) with
  | some g => .error (base + 8 * g)
  | none => .ok ((List.range groups).flatMap (fun g =>
      ((List.range 48).filter (fun i => (dw g).getLsbD i)).map (fun i => 48 * g + i)))

/-- Granules that ranges of bytes touch (R173). -/
def granulesOf (ranges : List (Nat × Nat)) : List Nat :=
  (List.range 24).filter (fun g => ranges.any (fun p => decide (p.1 < 65536 * g + 65536) && decide (65536 * g < p.1 + p.2)))

/-- Busy cycles of an MWL of a number of stored rows (R167). -/
def mwlTime (fmt rows : Nat) : Nat :=
  4 + (if mxClass fmt = 4 then (rows + 3) / 4 else rows) * (if mxClass fmt = 3 then 2 else 1)

/-- The weight made of stored rows. -/
def weightOf (k n fmt sparse : Nat) (kept : List Nat) (ent : Option (ScaleEnt × BitVec 5)) (rows scales : List (List Nat))
    (grans : List Nat) : Weight :=
  let put {α : Type} [DecidableEq α] (d : α) (f : Nat → α) (m : SMap α) (j : Nat) (xs : List Nat) : SMap α :=
    (List.range xs.length).foldl (fun m i => SMap.set d m (128 * j + i) (f (xs.getD i 0))) m
  { k := k, n := n, fmt := fmt, sparse := sparse, kept := kept, ent := ent,
    elems := (List.range rows.length).foldl (fun m j => put 0 (BitVec.ofNat 32) m j (rows.getD j [])) [],
    scales := (List.range scales.length).foldl (fun m j => put 0 (BitVec.ofNat 8) m j (scales.getD j [])) [],
    grans := grans }

/-- Install a weight: the array holds this context's (R169). -/
def State.loadWeight (s : State) (w : Weight) : State :=
  (s.mctx (fun c => { c with weight := some w })).mplate (fun p => { p with arrayOf := s.ctx.id })

/-- MWL from the scratchpad (R170, R171). -/
def mwlFromSpad (st : BitVec 256) (s : State) : Ran :=
  let k := fieldOf st 3
  let n := fieldOf st 4
  let base := 32 * fieldOf st 2
  let pitch := fieldOf st 5
  let sparse := fieldOf st 7
  let mbase := 32 * fieldOf st 8
  let mlen := 8 * ((k + 47) / 48)
  let mflt := if sparse = 0 then none else s.spadFault mbase mlen
  let mask : Except Nat (List Nat) :=
    if sparse = 0 then .ok (List.range k)
    else if mflt.isSome then .ok (List.range (k / 48 * keepOf sparse + min (k % 48) (keepOf sparse)))
    else s.readMask sparse mbase k
  let rows := match mask with | .ok l => l.length | .error _ => 1
  let entry : Except Flt (Nat × Option (ScaleEnt × BitVec 5)) :=
    if stHv st then
      let f1 := (s.operandFmt (stHnd st) (pitchRanges (fieldOf st 2) pitch rows 1)).getD 0
      (s.operandEntry (stHnd st) (pitchRanges (fieldOf st 2) pitch rows (rowBytes f1 n))).map
        (fun e => (e.fmt.toNat, some (e, BitVec.ofNat 5 (stHnd st))))
    else .ok (stFmt st, none)
  match entry with
  | .error f => .stop s f.1 f.2
  | .ok (fmt, ent) =>
    let bytes := rowBytes fmt n
    let ranges := pitchRanges (fieldOf st 2) pitch rows bytes
    if kLimit sparse (mxClass fmt) < k ∨ pitchOk rows pitch bytes = false then .stop s .illegal 0
    else match firstFlt [s.spadFault base (extent pitch rows bytes), mflt] with
      | some f => .stop s f.1 f.2
      | none =>
        match mask with
        | .error off => .stop s .illegal (winAddr off)
        | .ok kept =>
          match s.spadBad (ranges ++ (if sparse = 0 then [] else [(mbase, mlen)])) with
          | some f => .stop s f.1 f.2
          | none =>
            let offs := ranges.map (fun p => p.1)
            let w := weightOf k n fmt sparse kept ent (offs.map (fun o => s.rowElems fmt o n))
              (offs.map (fun o => s.rowScales fmt o n))
              (granulesOf (ranges ++ (if sparse = 0 then [] else [(mbase, mlen)])))
            .run (s.loadWeight w) (mwlTime fmt kept.length) (fun r => r)

/-- MWL from the transpose staging buffer: it waits until every block it needs has landed; the halves swap (R180).
Log entry 48 (DESIGN CHOICE). -/
def mwlFromStaging (st : BitVec 256) (s : State) : Ran :=
  let k := fieldOf st 3
  let n := fieldOf st 4
  let sparse := fieldOf st 7
  let mbase := 32 * fieldOf st 8
  let entry : Except Flt (Nat × Option (ScaleEnt × BitVec 5)) :=
    if stHv st then (s.operandEntry (stHnd st) []).map (fun e => (e.fmt.toNat, some (e, BitVec.ofNat 5 (stHnd st))))
    else .ok (stFmt st, none)
  match entry with
  | .error f => .stop s f.1 f.2
  | .ok (fmt, ent) =>
    if kLimit sparse (mxClass fmt) < k ∨ 128 < k ∨ 128 < n then .stop s .illegal 0
    else match (if sparse = 0 then none else s.spadFault mbase (8 * ((k + 47) / 48))) with
      | some f => .stop s f.1 f.2
      | none =>
        match (if sparse = 0 then .ok (List.range k) else s.readMask sparse mbase k : Except Nat (List Nat)) with
        | .error off => .stop s .illegal (winAddr off)
        | .ok kept =>
          let g := s.ctx.staging
          let blocks := (List.range ((k + 31) / 32)).flatMap (fun r => (List.range ((n + 31) / 32)).map (fun c => 4 * r + c))
          if blocks.any (fun b => !(g.landed.getLsbD b)) then .hold none
          else if blocks.any (fun b => !(decide (fmtWidth fmt = if g.esz.getLsbD b then 16 else 8))) then .stop s .illegal 0
          else
            let rows := (List.range kept.length).map (fun j =>
              (List.range n).map (fun c => (SMap.get 0 g.elems (128 * j + c)).toNat))
            let w := weightOf k n fmt sparse kept ent rows [] []
            let s := s.mctx (fun c => { c with staging := { Staging.blank with full := g.elems } })
            .run (s.loadWeight w) (mwlTime fmt kept.length) (fun r => r)

/-- The body of MWL (R170). -/
def mwlBody (s : State) (q : QEntry) : Ran :=
  if fbits q.stencil 1 1 1 = 1 then mwlFromStaging q.stencil s else mwlFromSpad q.stencil s

/-- MWL (R170). -/
def execMwl (s : State) : Out := commandRow .mxe .mwl mwlBody s

/-! ### MMA (R41 to R45, R48, R172, R173) -/

/-- The flags the accumulation of the matrix engine may set (R24, R38). -/
def accFlags : BitVec 6 := fNV ||| fOF ||| fRUF ||| fSINV

/-- One rounding of a cell: s ← acc_round(s + p) (R42). -/
def cellStep (a : Nat × BitVec 6) (p : NumFlag) : Nat × BitVec 6 :=
  let t := Num.add .rne (acc48.decodeIeee a.1) p.1
  let r := accRound t.1
  (r.1, a.2 ||| p.2 ||| t.2 ||| r.2)

/-- The exact sum of a group's products: a zero sum takes its sign from the terms alone (R43, R388). -/
def sumOf : List NumFlag → NumFlag
  | [] => (Num.zero, 0)
  | p :: ps => ps.foldl (fun a p => let t := Num.add .rne a.1 p.1; (t.1, a.2 ||| p.2 ||| t.2)) p

/-- Products in groups of four, summed exactly; a group that runs past the last product is padded with zero products, taken
as +0 (R43). Log entry 55 (DESIGN CHOICE). -/
def groupsOf4 (ps : List NumFlag) : List NumFlag :=
  (List.range ((ps.length + 3) / 4)).map (fun g =>
    let q := (ps.drop (4 * g)).take 4
    sumOf (q ++ List.replicate (4 - q.length) (Num.zero, 0)))

/-- The chain of one element over the products in ascending logical order (R42 to R44). -/
def chain (four rev : Bool) (ps : List NumFlag) : Nat × BitVec 6 :=
  let ps := if rev then ps.reverse else ps
  (if four then groupsOf4 ps else ps).foldl cellStep (0, 0)

/-- The chain of a four-product class takes its groups from the ascending order, whatever the direction (R43); under
sparsity the kept products are grouped in the direction of entry (R44). -/
def mmaChain (w : Weight) (four rev : Bool) (ps : List NumFlag) : Nat × BitVec 6 :=
  if four && rev && w.sparse == 0 then ((groupsOf4 ps).reverse).foldl cellStep (0, 0) else chain four rev ps

/-- Element (row j, column c) of the loaded weight. -/
def Weight.elem (w : Weight) (j c : Nat) : NumFlag :=
  decodeScaled w.fmt (SMap.get 0 w.elems (128 * j + c)).toNat (SMap.get 0 w.scales (128 * j + c / 32)).toNat

/-- The decoded elements of an A row at the logical rows a weight keeps. -/
def State.aRow (s : State) (w : Weight) (fmt off : Nat) : List NumFlag :=
  let els := s.rowElems fmt off w.k
  let scs := s.rowScales fmt off w.k
  w.kept.map (fun k => decodeScaled fmt (els.getD k 0) (scs.getD (k / 32) 0))

/-- One row of A against every column: the words of the chains (R42). -/
def mmaRow (w : Weight) (four rev : Bool) (a : List NumFlag) : List (Nat × BitVec 6) :=
  (List.range w.n).map (fun c =>
    mmaChain w four rev ((List.range a.length).map (fun j =>
      let x := a.getD j (.nan, 0)
      let y := w.elem j c
      let p := Num.mul x.1 y.1
      (p.1, x.2 ||| y.2 ||| p.2))))

/-- Put a row of chains into a tile: overwrite, or add the rescaled value (R45, R48). -/
def accRow (m : SMap (BitVec 48)) (t : Nat) (add : Option Int) (xs : List (Nat × BitVec 6)) : SMap (BitVec 48) × BitVec 6 :=
  (List.range xs.length).foldl (fun a j =>
    let x := xs.getD j (0, 0)
    let key := 128 * t + j
    match add with
    | none => (SMap.set 0 a.1 key (BitVec.ofNat 48 x.1), a.2 ||| x.2)
    | some sh =>
      let y := scale2 (acc48.decodeIeee x.1) sh
      let z := Num.add .rne (acc48.decodeIeee (SMap.get 0 a.1 key).toNat) y.1
      let r := accRound z.1
      (SMap.set 0 a.1 key (BitVec.ofNat 48 r.1), a.2 ||| x.2 ||| y.2 ||| z.2 ||| r.2)) (m, 0)

/-- The passes of an MMA over all rows of A (R172). -/
def State.mmaRows (s : State) (w : Weight) (four rev add : Bool) (fmt : Nat) (shift : Int) (first : SMap (BitVec 48))
    (offs : List Nat) : SMap (BitVec 48) × BitVec 6 :=
  (List.range offs.length).foldl (fun a i =>
    let xs := mmaRow w four rev (s.aRow w fmt (offs.getD i 0))
    let r := accRow a.1 (i % 128) (if i < 128 ∧ !add then none else some shift) xs
    (r.1, a.2 ||| r.2)) (first, 0)

/-- An operand's entry under its rows from unit `base` on, in two steps: the format that gives the rows their width, then the
tags of all they cover. A stale operand keeps that format for the checks that come before the latch (R166, R172). -/
def State.aEntry (s : State) (st : BitVec 256) (base pitch rows k : Nat) : Except Flt (Nat × Option ScaleEnt × Option Flt) :=
  if stHv st then
    match s.operandFmt (stHnd st) (pitchRanges base pitch rows 1) with
    | none => .error (.illegal, 0)
    | some f1 =>
      match s.operandEntry (stHnd st) (pitchRanges base pitch rows (rowBytes f1 k)) with
      | .error f => .ok (f1, none, some f)
      | .ok e => .ok (e.fmt.toNat, some e, none)
  else .ok (stFmt st, none, none)

/-- The shadow rows' value of an element whose primary value is v: the same chain (R46), on other physical rows, whose errors
are not the manual's to give. Log entry 19 (DESIGN CHOICE). -/
def State.shadowOf (s : State) (key : Nat) (v : BitVec 48) : BitVec 48 := v ^^^ Config.arrayError s.fresh key

/-- The first element in row-major order whose primary and shadow values differ, as TADDR names it (R46, R174). -/
def State.proofMismatch (s : State) (elems : SMap (BitVec 48)) (tile rows cols : Nat) : Option Word :=
  ((List.range rows).flatMap (fun t => (List.range cols).map (fun j => (t, j)))).findSome? (fun e =>
    let key := 128 * e.1 + e.2
    let v := SMap.get 0 elems key
    if s.shadowOf key v = v then none else some (accAddr tile e.1 e.2))

/-- The body of MMA (R172, R174). Log entry 19 (DESIGN CHOICE). -/
def mmaBody (s : State) (q : QEntry) : Ran :=
  let st := q.stencil
  let base := 32 * fieldOf st 2
  let m := fieldOf st 3
  let pitch := fieldOf st 4
  let rev := fbits st 5 3 3 == 1
  let add := fbits st 5 2 2 == 1
  let tile := fbits st 5 1 0
  let proof := fbits st 1 0 0
  match s.ctx.weight with
  | none => .stop s .illegal 0
  | some w =>
    if s.ctx.hasTile tile = false then .stop s .illegal 0
    else match s.aEntry st (fieldOf st 2) pitch m w.k with
      | .error f => .stop s f.1 f.2
      | .ok (fmt, ent, stale) =>
        let bytes := rowBytes fmt w.k
        let ranges := pitchRanges (fieldOf st 2) pitch m bytes
        let w2 := if mxClass fmt = 3 then 2 else 1
        if mxClass fmt ≠ mxClass w.fmt ∨ 8192 < m * w2 * (1 + proof) ∨ pitchOk m pitch bytes = false then .stop s .illegal 0
        else match s.spadFault base (extent pitch m bytes) with
          | some f => .stop s f.1 f.2
          | none =>
            if (granulesOf ranges).any (fun g => w.grans.any (fun h => g % 4 == h % 4)) then .stop s .mxBank (winAddr base)
            else match firstFlt [stale, s.spadBad ranges, if add then s.accBad tile (min m 128) w.n else none] with
              | some f => .stop s f.1 f.2
              | none =>
                let old := s.ctx.tiles.get tile
                let e : Int := (match ent with | some x => x.e | none => 0) + (match w.ent with | some x => x.1.e | none => 0)
                let tag : TileTag :=
                  if add then old.tag
                  else { e := e, verA := (ent.map (fun x => x.ver)).getD 0, verW := (w.ent.map (fun x => x.1.ver)).getD 0,
                         hndA := if ent.isSome then BitVec.ofNat 8 (stHnd st) else 0,
                         hndW := (w.ent.map (fun x => x.2.setWidth 8)).getD 0, tagged := ent.isSome || w.ent.isSome }
                let r := s.mmaRows w (decide (mxClass fmt = 4)) rev add fmt (e - tag.e) old.elems (ranges.map (fun p => p.1))
                let flags := r.2 &&& accFlags
                let reload := if s.plate.arrayOf = s.ctx.id then 0 else mwlTime w.fmt w.kept.length
                let bad := if proof = 1 then s.proofMismatch r.1 tile (min m 128) w.n else none
                let s := (s.mctx (fun c => { c with tiles := c.tiles.set tile { elems := r.1, tag := tag } })).accCure tile (min m 128) w.n
                let s := s.mplate (fun p => { p with arrayOf := s.ctx.id })
                .run s (256 + m * w2 * (1 + proof)) (fun t => { t with
                  input := reload, flags := flags,
                  fault := match bad with
                    | some a => some (.proofMismatch, a)
                    | none => if flags &&& fSINV ≠ 0 then some (.scaleInv, 0) else none })

/-- MMA (R172). -/
def execMma (s : State) : Out := commandRow .mxe .mma mmaBody s

/-! ### MDR (R47, R152 to R154, R175 to R177) -/

/-- One step of CRC-64, most significant bit first (R352). -/
def crcBit (c : BitVec 64) : BitVec 64 := if c.getLsbD 63 then (c <<< 1) ^^^ 0x42F0E1EBA9EA3693 else c <<< 1

/-- CRC-64 of a byte list from a running value. -/
def crcBytes (c : BitVec 64) (bs : List Byte) : BitVec 64 :=
  bs.foldl (fun c b => crcBit (crcBit (crcBit (crcBit (crcBit (crcBit (crcBit (crcBit (c ^^^ ((b.setWidth 64 : BitVec 64) <<< 56)))))))))) c

/-- The signature hash (R352). -/
def crc64 (bs : List Byte) : BitVec 64 := crcBytes (BitVec.allOnes 64) bs ^^^ BitVec.allOnes 64

/-- Two contributions added up. -/
def Quant.join (a b : Quant) : Quant :=
  { elems := a.elems ++ b.elems, scales := a.scales ++ b.scales, sat := a.sat + b.sat, flags := a.flags ||| b.flags,
    bins := b.bins.foldl (fun m e => SMap.set 0 m e.1 (SMap.get 0 m e.1 + e.2)) a.bins,
    zero := a.zero + b.zero, nan := a.nan + b.nan, ovf := a.ovf + b.ovf, unf := a.unf + b.unf }

/-- No elements. -/
def Quant.empty : Quant := { elems := [], scales := [], sat := 0, flags := 0, bins := [], zero := 0, nan := 0, ovf := 0, unf := 0 }

/-- Bytes of a row of converted elements (R139, R168). -/
def Quant.rowOf (q : Quant) (fmt : Nat) : List Byte :=
  let n := q.elems.length
  if fmt = 7 ∨ fmt = 8 then toBytes ((n + 1) / 2) (packElems 4 q.elems) ++ q.scales.map (fun b => BitVec.ofNat 8 b)
  else toBytes (rowBytes fmt n) (packElems (fmtWidth fmt) q.elems)

/-- Convert a row: scaled and block formats quantise; the others round under SAT (R47, R152, R153, R176). -/
def drainRow (fmt : Nat) (scaled sat : Bool) (mode : RMode) (rnd : Nat → Nat) (xs : List Num) : Quant :=
  if scaled ∨ fmt = 7 ∨ fmt = 8 then quantise fmt mode rnd xs
  else
    let l := (List.range xs.length).map (fun i => roundFmt fmt (xs.getD i .nan) mode sat (rnd i))
    { Quant.empty with elems := l.map (fun e => e.1), flags := l.foldl (fun f e => f ||| e.2) 0 }

/-- Read the doublewords of a tile dispatch entry, in COH memory, as a load of bound 0 (R313, R316). -/
def State.tdtEntry (s : State) (i : Nat) : Except Flt Got := s.memRead (s.ctx.task.tdt.toNat + 64 * i) 64 0 0 cohTarget

/-- The signature part of a drain: what is recorded, or the mismatch (R177, R352). -/
def State.signature (s : State) (q : QEntry) (bs : List Byte) : Option (Nat × SigSlot) × Option (Nat × Nat) :=
  let mode := fbits q.stencil 2 5 4
  let n := fbits q.stencil 9 7 0
  let h := crc64 bs
  let old := SMap.get SigSlot.blank s.ctx.sig n
  if mode = 1 then (some (n, { hash := h, bytes := BitVec.ofNat 32 bs.length, valid := true, esn := q.esn }), none)
  else if mode = 2 then
    (none, if old.valid ∧ old.bytes = BitVec.ofNat 32 bs.length ∧ old.hash = h then none else some (fbits q.stencil 2 1 0, n))
  else (none, none)

/-- Write the rows of a drain and tag them (R166, R176). -/
def State.drainWrite (s : State) (ranges : List (Nat × Nat)) (rows : List (List Byte)) (ver : Option (BitVec 16)) : State :=
  let s := (List.range rows.length).foldl (fun t i =>
    let p := ranges.getD i (0, 0)
    t.writePiece { va := winBase + p.1, len := p.2, tgt := .win p.1 } (ofBytes (rows.getD i [])) 0 true) s
  match ver with
  | some v => s.mctx (fun c => { c with tags := (rowsOf ranges).foldl (fun m r => SMap.set none m r (some v)) c.tags })
  | none => s

/-- What a drain makes and leaves once its destination is known: `strm` for a streamed one. -/
def State.drain (s : State) (q : QEntry) (fmt : Nat) (ent : Option ScaleEnt) (rec : Option (Nat × List Word))
    (strm : Option (List Word)) : Ran :=
  let tdt := s.ctx.task.tdt.toNat + 64 * fbits q.stencil 7 11 0
  let st := q.stencil
  let tile := fbits st 2 1 0
  let rows := fieldOf st 4
  let cols := fieldOf st 8
  let pitch := fieldOf st 5
  let t := s.ctx.tiles.get tile
  let mode := RMode.ofCode q.rmode.toNat
  let shift : Int := t.tag.e - (match ent with | some e => e.e | none => 0)
  let xsOf (r : Nat) : List Num := (List.range cols).map (fun j =>
    (acc48.decodeIeee (SMap.get 0 t.elems (128 * r + j)).toNat).scale shift)
  let rndOf (r i : Nat) : Nat := if mode = .sr then s.rnd (r * cols + i) else 0
  let qs := (List.range rows).map (fun r => drainRow fmt ent.isSome (fbits st 6 10 10 == 1) mode (rndOf r) (xsOf r))
  let all := qs.foldl Quant.join Quant.empty
  let bs := qs.map (fun x => x.rowOf fmt)
  let ranges := pitchRanges (fieldOf st 3) pitch rows (rowBytes fmt cols)
  let sig := s.signature q bs.flatten
  let tdi := if fbits st 7 12 12 = 1 then some (fbits st 7 11 0) else none
  let s := if strm.isSome then s else s.drainWrite ranges bs (ent.map (fun e => e.ver))
  let s := if mode = .sr ∧ takesStep fmt then s.stepLfsr (rows * cols) else s
  let ovf := match rec with
    | some (_, r) => (match s.tolerance r with | some tol => decide (tol < all.sat) | none => false)
    | none => false
  .run s (8 + rows * ((rowBytes fmt cols + 255) / 256)) (fun u => { u with
    flags := all.flags, sig := sig.1, mis := sig.2, tdi := tdi, strm := strm.map (fun d => (d ++ [BitVec.ofNat 64 (rowBytes fmt cols)], bs.flatten)),
    spans := if strm.isSome then [(tdt, 64)] else [],
    contrib := rec.map (fun r => all.contrib s.ctx.id r.1),
    fault := if ovf then some (.tensorOvf, BitVec.ofNat 64 all.sat) else none })

/-- The body of MDR (R175, R176). -/
def mdrBody (s : State) (q : QEntry) : Ran :=
  let st := q.stencil
  let tile := fbits st 2 1 0
  let rows := fieldOf st 4
  let cols := fieldOf st 8
  let base := 32 * fieldOf st 3
  let pitch := fieldOf st 5
  let strm := fbits st 2 2 2 == 1
  if s.ctx.hasTile tile = false then .stop s .illegal 0
  else
    let entry : Option (Nat × Option ScaleEnt × Option (Nat × List Word)) :=
      if stHv st then (s.resolveHandle (stHnd st)).map (fun r => ((recCur r.2).fmt.toNat, some (recCur r.2), some r))
      else some (stFmt st, none, none)
    match entry with
    | none => .stop s .illegal 0
    | some (fmt, ent, rec) =>
      let bytes := rowBytes fmt cols
      if !strm && !(pitchOk rows pitch bytes) then .stop s .illegal 0
      else match firstFlt [if strm then none else s.spadFault base (extent pitch rows bytes), s.accBad tile rows cols] with
        | some f => .stop s f.1 f.2
        | none =>
          if strm then
            match s.tdtEntry (fbits st 7 11 0) with
            | .error f => .stop s f.1 f.2
            | .ok (.wait _) => .hold (some (s.ctx.task.tdt + BitVec.ofNat 64 (64 * fbits st 7 11 0)))
            | .ok (.val s n _) => s.drain q fmt ent rec (some (dwsOf 8 n))
          else s.drain q fmt ent rec none

/-- MDR (R175, R176). -/
def execMdr (s : State) : Out := commandRow .mxe .mdr mdrBody s

/-! ### MAZ, MAS, MAR (R178) -/

/-- The body of MAZ. -/
def mazBody (s : State) (q : QEntry) : Ran :=
  let tile := fbits q.stencil 2 1 0
  if s.ctx.hasTile tile = false then .stop s .illegal 0
  else .run ((s.mctx (fun c => { c with tiles := c.tiles.set tile Tile.blank })).accCure tile 128 128) 128 (fun r => r)

/-- MAZ (R178). -/
def execMaz (s : State) : Out := commandRow .mxe .maz mazBody s

/-- The tag record of a tile: 32 bytes (R178). -/
def TileTag.image (g : TileTag) : List Byte :=
  toBytes 2 (g.e % 65536).toNat ++ toBytes 2 g.verA.toNat ++ toBytes 2 g.verW.toNat ++ [g.hndA, g.hndW] ++
    [if g.tagged then 1 else 0] ++ List.replicate 23 0

/-- The image of a tile: 98,304 bytes and its tag record (R178). -/
def Tile.image (t : Tile) : List Byte :=
  (List.range 16384).flatMap (fun i => toBytes 6 (SMap.get 0 t.elems i).toNat) ++ t.tag.image

/-- A tile from its image. -/
def tileOfImage (get : Nat → Nat → Nat) : Tile :=
  { elems := (List.range 16384).foldl (fun m i => SMap.set 0 m i (BitVec.ofNat 48 (get (6 * i) 6))) [],
    tag := { e := (BitVec.ofNat 16 (get 98304 2)).toInt, verA := BitVec.ofNat 16 (get 98306 2),
             verW := BitVec.ofNat 16 (get 98308 2), hndA := BitVec.ofNat 8 (get 98310 1),
             hndW := BitVec.ofNat 8 (get 98311 1), tagged := decide (get 98312 1 % 2 = 1) } }

/-- The body of MAS. -/
def masBody (s : State) (q : QEntry) : Ran :=
  let tile := fbits q.stencil 2 1 0
  let base := 32 * fieldOf q.stencil 3
  if s.ctx.hasTile tile = false then .stop s .illegal 0
  else match firstFlt [s.spadFault base 98336, s.accBad tile 128 128] with
    | some f => .stop s f.1 f.2
    | none =>
      .run (s.writePiece { va := winBase + base, len := 98336, tgt := .win base } (ofBytes (s.ctx.tiles.get tile).image) 0 true)
        392 (fun r => r)

/-- MAS (R178). -/
def execMas (s : State) : Out := commandRow .mxe .mas masBody s

/-- The body of MAR: reserved bytes of the tag record must be zero. -/
def marBody (s : State) (q : QEntry) : Ran :=
  let tile := fbits q.stencil 2 1 0
  let base := 32 * fieldOf q.stencil 3
  let get (off n : Nat) : Nat := spadNat s.ctx.spad (base + off) n
  if s.ctx.hasTile tile = false then .stop s .illegal 0
  else match firstFlt [s.spadFault base 98336, s.spadBad [(base, 98336)]] with
    | some f => .stop s f.1 f.2
    | none =>
      if get 98312 1 / 2 ≠ 0 ∨ get 98313 23 ≠ 0 then .stop s .illegal (winAddr (base + 98304))
      else .run ((s.mctx (fun c => { c with tiles := c.tiles.set tile (tileOfImage get) })).accCure tile 128 128) 392 (fun r => r)

/-- MAR (R178). -/
def execMar (s : State) : Out := commandRow .mxe .mar marBody s

end Sys2Proof.Machine
end

