-- ==== Sys2Proof/Machine/Transpose.lean ====
section
/-! DEFINITION. The transpose engine: XTR and XFW (R179, R180). A command reads its whole source at its start and lands
its bytes 96 cycles later. -/

namespace Sys2Proof.Machine

/-- Element (r, c) of a 32 × 32 tile of w-byte elements. -/
def State.tileElem (s : State) (base pitch w r c : Nat) : Nat := spadNat s.ctx.spad (32 * (base + r * pitch) + w * c) w

/-- Cycles a command holds its place: it lands and completes 96 cycles after its start (R180). -/
def txeTime : Nat := 97

/-- The body of XTR: element (c, r) of the destination from element (r, c) of the source. -/
def xtrBody (s : State) (q : QEntry) : Ran :=
  let st := q.stencil
  let src := fieldOf st 2
  let dst := fieldOf st 3
  let w := 2 ^ fieldOf st 4
  let sp := fieldOf st 5
  let dp := fieldOf st 6
  match firstFlt [s.spadFault (32 * src) (extent sp 32 (32 * w)), s.spadFault (32 * dst) (extent dp 32 (32 * w)),
      s.spadBad (pitchRanges src sp 32 (32 * w))] with
  | some f => .stop s f.1 f.2
  | none =>
    let row (c : Nat) : List Byte := (List.range 32).flatMap (fun r => toBytes w (s.tileElem src sp w r c))
    .run s txeTime (fun r => { r with
      land := (List.range 32).flatMap (fun c =>
        (List.range (32 * w)).map (fun i => (32 * (dst + c * dp) + i, (row c).getD i 0))) })

/-- XTR (R179). -/
def execXtr (s : State) : Out := commandRow .txe .xtr xtrBody s

/-- The body of XFW: the transposed tile lands in a block of the filling half of the staging buffer. -/
def xfwBody (s : State) (q : QEntry) : Ran :=
  let st := q.stencil
  let src := fieldOf st 2
  let w := 2 ^ fieldOf st 4
  let sp := fieldOf st 6
  let blk := fbits st 5 1 0 * 4 + fbits st 5 3 2
  match firstFlt [s.spadFault (32 * src) (extent sp 32 (32 * w)), s.spadBad (pitchRanges src sp 32 (32 * w))] with
  | some f => .stop s f.1 f.2
  | none =>
    let els := (List.range 1024).map (fun i => s.tileElem src sp w (i % 32) (i / 32))
    .run s txeTime (fun r => { r with block := some (fieldOf st 4, blk, els) })

/-- XFW (R179). -/
def execXfw (s : State) : Out := commandRow .txe .xfw xfwBody s

end Sys2Proof.Machine
end

