-- ==== Sys2Proof/Machine/Update.lean ====
section
/-! DEFINITION. The update engine: UAW, USM, UAX, UNS (R181, R182), on FP32 arrays of the scratchpad. -/

namespace Sys2Proof.Machine

/-- What a command's roundings share: the generator and the flags raised so far (R34, R38). -/
structure Rnd where
  lfsr  : BitVec 32
  flags : BitVec 6
  deriving DecidableEq, Repr

/-- A decoded operand, with the rounding state. -/
abbrev Calc (α : Type) := Rnd → α × Rnd

/-- rf (R182): round into FP32 under RMODE with SAT = 0; under SR one step of the generator. -/
def rf (mode : RMode) (x : NumFlag) : Calc Nat := fun r =>
  let l := if mode = .sr then lfsrStep r.lfsr else r.lfsr
  let w := fp32.round mode false l.toNat x.1
  (w.1, { lfsr := l, flags := r.flags ||| x.2 ||| w.2 })

/-- The value of an FP32 word. -/
def fval (w : Nat) : Num := fp32.decodeIeee w

/-- x + y with the flags of both. -/
def addNF (mode : RMode) (x y : NumFlag) : NumFlag :=
  let t := Num.add mode x.1 y.1
  (t.1, x.2 ||| y.2 ||| t.2)

/-- x × y with the flags of both. -/
def mulNF (x y : NumFlag) : NumFlag :=
  let t := Num.mul x.1 y.1
  (t.1, x.2 ||| y.2 ||| t.2)

/-- A plain operand. -/
def ex (x : Num) : NumFlag := (x, 0)

/-- x with its sign changed. -/
def negNF (x : NumFlag) : NumFlag := (x.1.neg, x.2)

/-- Format and width of the gradients (R181). -/
def gradFmt (st : BitVec 256) : Nat := fbits st 1 2 1
def gradWidth (st : BitVec 256) : Nat := if gradFmt st = 0 then 4 else 2

/-- Read a word of w bytes, index i of an array. -/
def arrGet (m : SMap Byte) (base w i : Nat) : Nat := spadNat m (base + w * i) w

/-- Write FP32 word v to index i of an array. Log entry 53 (DESIGN CHOICE). -/
def arrSet (m : SMap Byte) (base i v : Nat) : SMap Byte := writeBytes m (base + 4 * i) (toBytes 4 v)

/-- Two ranges meet, and not index by index. -/
def clash (a b : Nat × Nat) : Bool := !(a == b) && decide (a.1 < b.1 + b.2) && decide (b.1 < a.1 + a.2)

/-- Close an update: the written ranges land as computed, or, where ranges meet other than index by index, as undefined
bytes (R182). Log entry 53 (DESIGN CHOICE). -/
def State.updateDone (s : State) (m : SMap Byte) (wr rd : List (Nat × Nat)) (r : Rnd) (busy : Nat) : Ran :=
  let open_ := wr.any (fun a => (wr ++ rd).any (clash a))
  let free (p : Nat × Nat) : Nat :=
    ofBytes ((List.range p.2).map (fun i => (Config.freeWord s.fresh (2000 + p.1 + i)).setWidth 8))
  let s := wr.foldl (fun t p =>
    t.writePiece { va := winBase + p.1, len := p.2, tgt := .win p.1 } (if open_ then free p else spadNat m p.1 p.2) 0 true) s
  .run (s.mplate (fun p => { p with lfsr := r.lfsr })) busy (fun u => { u with flags := r.flags })

/-- The checks of an update over its ranges in ascending field number, then its work (R165, R357). -/
def State.updateCheck (s : State) (ranges rd : List (Nat × Nat)) (work : Rnd → Ran) : Ran :=
  match firstFlt (ranges.map (fun p => s.spadFault p.1 p.2) ++ [s.spadBad rd]) with
  | some f => .stop s f.1 f.2
  | none => work { lfsr := s.plate.lfsr, flags := 0 }

/-- Constants of a UAW (R182). -/
structure AdamW where
  lr : Num
  b1 : Num
  b2 : Num
  eps : Num
  wd : Num
  c1 : Num
  c2 : Num
  k1 : Num
  k2 : Num
  deriving DecidableEq, Repr

/-- The values a UAW rounds once per command. -/
def adamInit (mode : RMode) (h : Nat → Num) (r : Rnd) : AdamW × Rnd :=
  let pw (b : Num) : NumFlag := let p := Num.pow b (h 5); let o := oneMinus mode p.1; (o.1, p.2 ||| o.2)
  let c1 := rf mode (addNF mode (ex .one) (ex (h 1).neg)) r
  let c2 := rf mode (addNF mode (ex .one) (ex (h 2).neg)) c1.2
  let k1 := rf mode (pw (h 1)) c2.2
  let k2 := rf mode (pw (h 2)) k1.2
  ({ lr := h 0, b1 := h 1, b2 := h 2, eps := h 3, wd := h 4, c1 := fval c1.1, c2 := fval c2.1, k1 := fval k1.1,
     k2 := fval k2.1 }, k2.2)

/-- One element of a UAW: the new P, M and V. -/
def adamElem (mode : RMode) (a : AdamW) (p g m v : Num) (r : Rnd) : (Nat × Nat × Nat) × Rnd :=
  let m1 := rf mode (addNF mode (mulNF (ex a.b1) (ex m)) (mulNF (ex a.c1) (ex g))) r
  let v1 := rf mode (addNF mode (mulNF (ex a.b2) (ex v)) (mulNF (mulNF (ex a.c2) (ex g)) (ex g))) m1.2
  let q1 := rf mode (Num.div (fval m1.1) a.k1) v1.2
  let q2 := rf mode (Num.div (fval v1.1) a.k2) q1.2
  let rt := rf mode (Num.sqrt (fval q2.1)) q2.2
  let dn := rf mode (addNF mode (ex (fval rt.1)) (ex a.eps)) rt.2
  let qd := Num.div (fval q1.1) (fval dn.1)
  let d := rf mode (addNF mode qd (mulNF (ex a.wd) (ex p))) dn.2
  let p1 := rf mode (addNF mode (ex p) (negNF (mulNF (ex a.lr) (ex (fval d.1))))) d.2
  ((p1.1, m1.1, v1.1), p1.2)

/-- The body of UAW (R182). -/
def uawBody (s : State) (q : QEntry) : Ran :=
  let st := q.stencil
  let n := 64 * fieldOf st 6
  let base (i : Nat) : Nat := 32 * fieldOf st i
  let gw := gradWidth st
  let ps := [(base 2, 4 * n), (base 3, gw * n), (base 4, 4 * n), (base 5, 4 * n), (base 7, 64)]
  s.updateCheck ps ps (fun r =>
    let mode := RMode.ofCode q.rmode.toNat
    let a := adamInit mode (fun i => fval (arrGet s.ctx.spad (base 7) 4 i)) r
    let out := (List.range n).foldl (fun (t : SMap Byte × Rnd) i =>
      let g := (decodeFmt (gradFmt st) (arrGet t.1 (base 3) gw i)).1
      let e := adamElem mode a.1 (fval (arrGet t.1 (base 2) 4 i)) g (fval (arrGet t.1 (base 4) 4 i))
        (fval (arrGet t.1 (base 5) 4 i)) t.2
      (arrSet (arrSet (arrSet t.1 (base 2) i e.1.1) (base 4) i e.1.2.1) (base 5) i e.1.2.2, e.2)) (s.ctx.spad, a.2)
    s.updateDone out.1 [(base 2, 4 * n), (base 4, 4 * n), (base 5, 4 * n)] [(base 3, gw * n), (base 7, 64)] out.2
      (4 + fieldOf st 6 * 4))

/-- UAW (R181, R182). -/
def execUaw (s : State) : Out := commandRow .ude .uaw uawBody s

/-- One element of a USM: the new P and M. -/
def sgdElem (mode : RMode) (lr mu wd p g m : Num) (r : Rnd) : (Nat × Nat) × Rnd :=
  let m1 := rf mode (addNF mode (addNF mode (mulNF (ex mu) (ex m)) (ex g)) (mulNF (ex wd) (ex p))) r
  let p1 := rf mode (addNF mode (ex p) (negNF (mulNF (ex lr) (ex (fval m1.1))))) m1.2
  ((p1.1, m1.1), p1.2)

/-- The body of USM (R182). -/
def usmBody (s : State) (q : QEntry) : Ran :=
  let st := q.stencil
  let n := 64 * fieldOf st 6
  let base (i : Nat) : Nat := 32 * fieldOf st i
  let gw := gradWidth st
  let ps := [(base 2, 4 * n), (base 3, gw * n), (base 4, 4 * n), (base 7, 64)]
  s.updateCheck ps ps (fun r =>
    let mode := RMode.ofCode q.rmode.toNat
    let h (i : Nat) : Num := fval (arrGet s.ctx.spad (base 7) 4 i)
    let out := (List.range n).foldl (fun (t : SMap Byte × Rnd) i =>
      let g := (decodeFmt (gradFmt st) (arrGet t.1 (base 3) gw i)).1
      let e := sgdElem mode (h 0) (h 1) (h 2) (fval (arrGet t.1 (base 2) 4 i)) g (fval (arrGet t.1 (base 4) 4 i)) t.2
      (arrSet (arrSet t.1 (base 2) i e.1.1) (base 4) i e.1.2, e.2)) (s.ctx.spad, r)
    s.updateDone out.1 [(base 2, 4 * n), (base 4, 4 * n)] [(base 3, gw * n), (base 7, 64)] out.2 (4 + fieldOf st 6 * 3))

/-- USM (R181, R182). -/
def execUsm (s : State) : Out := commandRow .ude .usm usmBody s

/-- The body of UAX: D[i] ← rf(a × X[i] + b × Y[i]). -/
def uaxBody (s : State) (q : QEntry) : Ran :=
  let st := q.stencil
  let n := 64 * fieldOf st 6
  let base (i : Nat) : Nat := 32 * fieldOf st i
  let xs := (base 2, 4 * n)
  let ys := (base 3, 4 * n)
  let ds := (base 4, 4 * n)
  let hs := (base 7, 64)
  s.updateCheck [xs, ys, ds, hs] [xs, ys, hs] (fun r =>
    let mode := RMode.ofCode q.rmode.toNat
    let h (i : Nat) : Num := fval (arrGet s.ctx.spad (base 7) 4 i)
    let out := (List.range n).foldl (fun (t : SMap Byte × Rnd) i =>
      let e := rf mode (addNF mode (mulNF (ex (h 0)) (ex (fval (arrGet t.1 (base 2) 4 i))))
        (mulNF (ex (h 1)) (ex (fval (arrGet t.1 (base 3) 4 i))))) t.2
      (arrSet t.1 (base 4) i e.1, e.2)) (s.ctx.spad, r)
    s.updateDone out.1 [ds] [xs, ys, hs] out.2 (4 + fieldOf st 6 * 2))

/-- UAX (R181, R182). -/
def execUax (s : State) : Out := commandRow .ude .uax uaxBody s

/-- The tree of one group of 64 elements with itself, and the running sum (R149, R182). -/
def unsGroup (mode : RMode) (m : SMap Byte) (base i : Nat) (acc : Nat × Rnd) : Nat × Rnd :=
  let rnd (n : Nat) : Nat := if mode = .sr then (lfsrSteps (n + 1) acc.2.lfsr).toNat else 0
  let leaves := (List.range 64).map (fun j =>
    let x := fval (arrGet m base 4 (64 * i + j))
    Num.mul x x)
  let t := redTree (sumNode 0 mode rnd) 6 0 (leaves.map (fun x => (x.1, 0)))
  let g := (t.1.headD (Num.zero, 0)).1
  let flags := leaves.foldl (fun f x => f ||| x.2) (acc.2.flags ||| t.2)
  let l := if mode = .sr then lfsrSteps 63 acc.2.lfsr else acc.2.lfsr
  rf mode (addNF mode (ex (fval acc.1)) (ex g)) { lfsr := l, flags := flags }

/-- The body of UNS. -/
def unsBody (s : State) (q : QEntry) : Ran :=
  let st := q.stencil
  let cnt := fieldOf st 6
  let base (i : Nat) : Nat := 32 * fieldOf st i
  let addIn := fieldOf st 5 % 2 == 1
  let xs := (base 2, 256 * cnt)
  let ds := (base 4, 4)
  s.updateCheck [xs, ds] (if addIn then [xs, ds] else [xs]) (fun r =>
    let mode := RMode.ofCode q.rmode.toNat
    let m := s.ctx.spad
    let out := (List.range cnt).foldl (fun a i => unsGroup mode m (base 2) i a) (if addIn then arrGet m (base 4) 4 0 else 0, r)
    s.updateDone (arrSet m (base 4) 0 out.1) [ds] (if base 2 = base 4 then [] else [xs]) out.2 (4 + cnt))

/-- UNS (R181, R182). -/
def execUns (s : State) : Out := commandRow .ude .uns unsBody s

end Sys2Proof.Machine
end

