-- ==== Sys2Proof/Machine/Copy.lean ====
section
/-! DEFINITION. The copy engine: CPY in its three modes, CPG, CPS, CPM, CPL and CPZ (R183 to R188), with postmarks
(R223, R228, R229) and byte-barrier arrivals (R185). -/

namespace Sys2Proof.Machine

/-! ### Memory side, line by line (R184) -/

/-- How a part of a copy ended. -/
inductive Go (α : Type) where
  | ok (s : State) (a : α)
  | wait (addr : Word)
  | stop (s : State) (c : Cause) (addr : Word)

/-- Go on from a part that is done. -/
def Go.bind {α β : Type} (g : Go α) (f : State → α → Go β) : Go β :=
  match g with
  | .ok s a => f s a
  | .wait a => .wait a
  | .stop s c a => .stop s c a

/-- Do one item after another. -/
def goList {α β : Type} (f : State → β → α → Go α) : State → List β → α → Go α
  | s, [], a => .ok s a
  | s, x :: xs, a => (f s x a).bind (fun s a => goList f s xs a)

/-- The 128-byte lines of a virtual range: first byte, length, offset in the range. -/
def lineParts (va n : Nat) : List (Nat × Nat × Nat) := (linesOf va n).map (fun l => (l.1 * 128 + l.2.1, l.2.2.1, l.2.2.2))

/-- The line of an address: what TADDR names when it fails (R184). -/
def lineAddr (va : Nat) : Word := BitVec.ofNat 64 (va / 128 * 128)

/-- An engine reads a part of one line (R184, R279). -/
def State.engLine (s : State) (va n sb rh : Nat) : Go (List Byte) :=
  match s.memRead va n sb rh memTarget with
  | .error (c, _) => .stop s c (lineAddr va)
  | .ok (.wait _) => .wait (lineAddr va)
  | .ok (.val s v _) => .ok s (toBytes n v)

/-- An engine reads a range, line by line. -/
def State.engRead (s : State) (va n sb rh : Nat) : Go (List Byte) :=
  goList (fun s l bs => (s.engLine l.1 l.2.1 sb rh).bind (fun s b => .ok s (bs ++ b))) s (lineParts va n) []

/-- An engine writes a range, line by line; the lines before a failing one stay written. -/
def State.engWrite (s : State) (va rh : Nat) (bs : List Byte) : Go Unit :=
  goList (fun s l _ =>
    match s.memWrite l.1 l.2.1 (ofBytes ((bs.drop l.2.2).take l.2.1)) rh true memTarget with
    | .error (c, _) => .stop s c (lineAddr l.1)
    | .ok s => .ok s ()) s (lineParts va bs.length) ()

/-- Write bytes into the scratchpad: their rows lose their tags (R166). -/
def State.putSpad (s : State) (off : Nat) (bs : List Byte) : State :=
  s.writePiece { va := winBase + off, len := bs.length, tgt := .win off } (ofBytes bs) 0 true

/-- Bytes of the scratchpad. -/
def State.getSpad (s : State) (off n : Nat) : List Byte := (List.range n).map (fun i => SMap.get 0 s.ctx.spad (off + i))

/-- A copy ended: its busy time is open (R167). -/
def Go.ran {α : Type} (g : Go α) (f : α → Running → Running) : Ran :=
  match g with
  | .ok s a => .run s (1 + Config.cpeCycles s.fresh) (f a)
  | .wait a => .hold (some a)
  | .stop s c a => .stop s c a

/-! ### Byte barriers (R185) -/

/-- The barrier of BBREG, checked as BBPOST checks its own: physical address and region, or the fault. -/
def State.barrierOf (s : State) (q : QEntry) : Except Cause (State × Option (Nat × Nat)) :=
  if fbits q.stencil 7 5 0 = 0 then .ok (s, none)
  else
    let va := q.regb.toNat
    if va % 16 ≠ 0 then .error .misalign
    else match s.resolve va 16 .atomic atomicTarget with
      | .error (c, _) => .error c
      | .ok (s, ps) =>
        match ps with
        | { tgt := .mem x, .. } :: _ => .ok (s, some (x.pa, x.region))
        | _ => .error .page

/-- A copy that may count at a barrier: `n` is the number of bytes it adds. -/
def withBarrier (s : State) (q : QEntry) (n : Nat) (f : State → (Running → Running) → Ran) : Ran :=
  match s.barrierOf q with
  | .error c => .stop s c q.regb
  | .ok (s, b) => f s (fun r => { r with bbar := b.map (fun p => (p.1, p.2, n)) })

/-! ### Blocks and postmarks (R223, R228, R229) -/

/-- The tensor offset of an address (R223). -/
def recOffset (r : List Word) (va : Nat) : Nat :=
  let base := if bitOf (r.getD 7 0) 0 then recBits r 7 56 12 * 4096 else va / 65536 * 65536
  (BitVec.ofNat 64 va - BitVec.ofNat 64 base).toNat

/-- The entry a block's postmark resolves to, or POSTMARK_STALE with the block's address (R184, R228). -/
def State.blockEntry (s : State) (r : List Word) (va sb : Nat) : Go ScaleEnt :=
  match s.postmark r (recOffset r va / 4096) sb with
  | .error (c, a) => .stop s c a
  | .ok (.wait _) => .wait (lineAddr (recPtab r + recOffset r va / 8192))
  | .ok (.val s pm _) =>
    match recPostmark r pm with
    | none => .stop s .postmarkStale (BitVec.ofNat 64 (va / 4096 * 4096))
    | some e => if e.admitted then .ok s e else .stop s .illegal 0

/-- The engine effects of the context, which a postmark write follows (R229). -/
def State.engSet (s : State) : RelSet :=
  fun t => t.1 == s.ctx.id.toNat && t.2.1 == 4 && decide (t.2.2 ≤ s.ctx.ecount + 1)

/-- Write the postmark of a block at the table's bank ALU, after the block's bytes are performed at device scope; dropped
at or past PTLEN (R228, R229). -/
def State.putPostmark (s : State) (r : List Word) (va : Nat) (ver : BitVec 16) : Go Unit :=
  let b := recOffset r va / 4096
  if recPtlen r ≤ b then .ok s ()
  else
    let s := s.releaseSet 2 s.engSet
    let ea := recPtab r + b / 2
    match s.resolve ea 1 .store cohTarget with
    | .error (c, a) => .stop s c a
    | .ok (s, ps) =>
      match ps with
      | { tgt := .mem x, .. } :: _ =>
        let nib := ver.toNat % 16
        .ok (s.bankOwn x.pa 1 x.region (fun v => if b % 2 = 0 then v / 16 * 16 + nib else v % 16 + 16 * nib)) ()
      | _ => .stop s .page (BitVec.ofNat 64 ea)

/-! ### CPY, raw and PM (R183, R184) -/

/-- Fields of a CPY. -/
def cpySpad (st : BitVec 256) : Nat := 32 * fieldOf st 3
def cpyLen (st : BitVec 256) : Nat := 32 * fieldOf st 4
def cpyOut (st : BitVec 256) : Bool := fbits st 5 0 0 == 1
def cpySb (st : BitVec 256) : Nat := fbits st 6 5 2
def cpyRh (st : BitVec 256) : Nat := fbits st 6 1 0

/-- The watchpoint a copy's memory side meets (R366). -/
def State.copyWatch (s : State) (out : Bool) (va n : Nat) : Option (Nat × Bool × Word) :=
  s.watched (if out then .engWrite else .engRead) va n

/-- Copy memory to the scratchpad, line by line. -/
def State.copyIn (s : State) (st : BitVec 256) (va sp n : Nat) : Go Unit :=
  goList (fun s l _ => (s.engLine l.1 l.2.1 (cpySb st) (cpyRh st)).bind (fun s b => .ok (s.putSpad (sp + l.2.2) b) ())) s
    (lineParts va n) ()

/-- The body of a raw CPY. Log entry 15 (DESIGN CHOICE). -/
def cpyBody (s : State) (q : QEntry) : Ran :=
  let st := q.stencil
  let va := q.rega.toNat
  let sp := cpySpad st
  let n := cpyLen st
  withBarrier s q n (fun s bb =>
    match firstFlt [s.spadFault sp n, if cpyOut st then s.spadBad [(sp, n)] else none] with
    | some f => .stop s f.1 f.2
    | none =>
      let w := s.copyWatch (cpyOut st) va n
      (if cpyOut st then s.engWrite va (cpyRh st) (s.getSpad sp n) else s.copyIn st va sp n).ran (fun _ r =>
        { bb r with watch := w, spans := [(va, n)] }))

/-- CPY, raw (R183, R184). -/
def execCpy (s : State) : Out := commandRow .cpe .cpy cpyBody s

/-- The 4 KiB blocks that [va, va + n) meets: first byte in the range, length, offset in the range. -/
def blockParts (va n : Nat) : List (Nat × Nat × Nat) :=
  (List.range (n / 4096 + 2)).filterMap (fun i =>
    let lo := max va ((va / 4096 + i) * 4096)
    let hi := min (va + n) ((va / 4096 + i + 1) * 4096)
    if lo < hi then some (lo, hi - lo, lo - va) else none)

/-- Tag one row of the scratchpad. -/
def State.setTag (s : State) (row : Nat) (v : Option (BitVec 16)) : State :=
  s.mctx (fun c => { c with tags := SMap.set none c.tags row v })

/-- PM, memory to scratchpad: the block's entry is resolved before its bytes are written, and its row takes the version. -/
def State.pmIn (s : State) (st : BitVec 256) (r : List Word) (sp : Nat) (b : Nat × Nat × Nat) : Go Unit :=
  (s.blockEntry r b.1 (cpySb st)).bind (fun s e =>
    (s.copyIn st b.1 (sp + b.2.2) b.2.1).bind (fun s _ => .ok (s.setTag ((sp + b.2.2) / 4096) (some e.ver)) ()))

/-- PM, scratchpad to memory: the block's bytes, then its postmark: the row's tag, or the current entry. -/
def State.pmOut (s : State) (st : BitVec 256) (r : List Word) (sp : Nat) (b : Nat × Nat × Nat) : Go Unit :=
  (s.engWrite b.1 (cpyRh st) (s.getSpad (sp + b.2.2) b.2.1)).bind (fun s _ =>
    s.putPostmark r b.1 ((SMap.get none s.ctx.tags ((sp + b.2.2) / 4096)).getD (recCur r).ver))

/-- The virtual ranges a copy with postmarks holds translations of. -/
def copySpans (r : List Word) (va n : Nat) : List (Nat × Nat) :=
  [(va, n), (recPtab r + recOffset r va / 8192, n / 8192 + 1)]

/-- The body of a CPY with PM. -/
def cpyPmBody (s : State) (q : QEntry) : Ran :=
  let st := q.stencil
  let va := q.rega.toNat
  let sp := cpySpad st
  let n := cpyLen st
  withBarrier s q n (fun s bb =>
    match s.resolveHandle (fbits st 5 6 2) with
    | none => .stop s .illegal 0
    | some (_, r) =>
      if va % 4096 ≠ 0 then .stop s .misalign q.rega
      else match firstFlt [s.spadFault sp n, if cpyOut st then s.spadBad [(sp, n)] else none] with
        | some f => .stop s f.1 f.2
        | none =>
          let w := s.copyWatch (cpyOut st) va n
          (goList (fun s b _ => if cpyOut st then s.pmOut st r sp b else s.pmIn st r sp b) s (blockParts va n) ()).ran
            (fun _ u => { bb u with watch := w, spans := copySpans r va n }))

/-- CPY with PM (R183, R184). -/
def execCpyPm (s : State) : Out := commandRow .cpe .cpyPm cpyPmBody s

/-! ### CPY with CV (R184, R152 to R154) -/

/-- Elements of a 4 KiB block of a format (R27, R31). -/
def perBlock (fmt : Nat) : Nat :=
  if fmt = 6 then 5460 else if fmt = 7 ∨ fmt = 8 then 8192 else 4096 * 8 / fmtWidth fmt

/-- The elements in the memory bytes of a format (R27, R31). -/
def unpackMem (fmt : Nat) (bs : List Byte) : List Nat :=
  if fmt = 6 then
    (List.range (bs.length / 3)).flatMap (fun g =>
      let v := ofBytes ((bs.drop (3 * g)).take 3)
      (List.range 4).map (fun i => v / 64 ^ i % 64))
  else if fmt = 7 ∨ fmt = 8 then bs.flatMap (fun b => [b.toNat % 16, b.toNat / 16])
  else
    let w := fmtWidth fmt / 8
    (List.range (bs.length / w)).map (fun i => ofBytes ((bs.drop (w * i)).take w))

/-- The memory bytes of a block's elements; GF6 writes its pad byte as 0 (R27, R31). -/
def packMem (fmt : Nat) (els : List Nat) : List Byte :=
  if fmt = 6 then
    (List.range (els.length / 4)).flatMap (fun g => toBytes 3 (packElems 6 ((els.drop (4 * g)).take 4))) ++ [0]
  else if fmt = 7 ∨ fmt = 8 then toBytes (els.length / 2) (packElems 4 els)
  else els.flatMap (fun e => toBytes (fmtWidth fmt / 8) e)

/-- The alignment rules of a CV-in range in a format. -/
def cvAligned (fmt va n : Nat) : Bool :=
  if fmt = 6 then decide (va % 4096 = 0) && decide (n % 4096 = 0)
  else if fmt = 7 ∨ fmt = 8 then decide (va % 16 = 0)
  else decide (va % (fmtWidth fmt / 8) = 0)

/-- Elements that memory bytes of a format hold. -/
def cvCount (fmt len : Nat) : Nat :=
  if fmt = 6 then len / 3 * 4 else if fmt = 7 ∨ fmt = 8 then 2 * len else len / (fmtWidth fmt / 8)

/-- The entries of the blocks of a CV-in range, with their parts, in ascending order; a range that breaks a format's
alignment raises MISALIGN. -/
def State.cvEntries (s : State) (st : BitVec 256) (r : List Word) (va n : Nat) :
    Go (List ((Nat × Nat × Nat) × ScaleEnt)) :=
  goList (fun s b l => (s.blockEntry r b.1 (cpySb st)).bind (fun s e =>
    if cvAligned e.fmt.toNat va n then .ok s (l ++ [(b, e)]) else .stop s .misalign (BitVec.ofNat 64 va))) s
    (blockParts va n) []

/-- What a conversion leaves: flags, the next place in the scratchpad and the scale bytes it read. -/
structure CvAcc where
  at_   : Nat
  flags : BitVec 6
  /-- The scale bytes read: virtual address and length (R258). -/
  arr   : List (Nat × Nat)
  deriving DecidableEq, Repr

/-- Convert one block into SFMT and write it densely; each element takes one step of the generator under SR (R34). -/
def State.cvInBlock (s : State) (st : BitVec 256) (mode : RMode) (r : List Word) (be : (Nat × Nat × Nat) × ScaleEnt)
    (a : CvAcc) : Go CvAcc :=
  let fmt := be.2.fmt.toNat
  let sfmt := fbits st 8 3 0
  (s.engRead be.1.1 be.1.2.1 (cpySb st) (cpyRh st)).bind (fun s raw =>
    let at_ := (recSarr r + recOffset r be.1.1 / 16, be.1.2.1 / 16)
    (if fmt = 7 ∨ fmt = 8 then s.engRead at_.1 at_.2 (cpySb st) (cpyRh st) else .ok s []).bind (fun s sc =>
      let els := unpackMem fmt raw
      let rnd (i : Nat) : Nat := if mode = .sr then s.rnd i else 0
      let out := (List.range els.length).map (fun i =>
        let x := decodeScaled fmt (els.getD i 0) (sc.getD (i / 32) 0).toNat
        let o := roundFmt sfmt (x.1.scale be.2.e) mode false (rnd i)
        (o.1, o.2 ||| x.2))
      let bs := out.flatMap (fun o => toBytes (fmtWidth sfmt / 8) o.1)
      let s := (if mode = .sr then s.stepLfsr els.length else s).putSpad a.at_ bs
      .ok s { at_ := a.at_ + bs.length, flags := a.flags ||| flagsOf out,
              arr := if fmt = 7 ∨ fmt = 8 then at_ :: a.arr else a.arr }))

/-- The body of a CPY with CV, memory to scratchpad. -/
def cvIn (s : State) (q : QEntry) (r : List Word) (bb : Running → Running) : Ran :=
  let st := q.stencil
  let va := q.rega.toNat
  let sp := cpySpad st
  let n := cpyLen st
  let mode := RMode.ofCode q.rmode.toNat
  ((s.cvEntries st r va n).bind (fun s es =>
    let bytes := es.foldl (fun m e => m + cvCount e.2.fmt.toNat e.1.2.1 * (fmtWidth (fbits st 8 3 0) / 8)) 0
    match s.spadFault sp bytes with
    | some f => .stop s f.1 f.2
    | none => goList (fun s e a => s.cvInBlock st mode r e a) s es { at_ := sp, flags := 0, arr := [] })).ran (fun a u =>
      { bb u with flags := a.flags, watch := s.copyWatch false va n, spans := a.arr ++ copySpans r va n,
                  fault := if a.flags &&& fSINV ≠ 0 then some (.scaleInv, 0) else none })

/-- Quantise one block under the latched entry, write it, its scales and its postmark. -/
def State.cvOutBlock (s : State) (st : BitVec 256) (mode : RMode) (r : List Word) (sp : Nat) (i : Nat) (va : Nat)
    (a : Quant) : Go Quant :=
  let e := recCur r
  let fmt := e.fmt.toNat
  let sfmt := fbits st 8 3 0
  let w := fmtWidth sfmt / 8
  let per := perBlock fmt
  let xs := (List.range per).map (fun j =>
    ((decodeFmt sfmt (spadNat s.ctx.spad (sp + (i * per + j) * w) w)).1).scale (-e.e))
  let rnd (j : Nat) : Nat := if mode = .sr then s.rnd j else 0
  let x := quantise fmt mode rnd xs
  let s := if mode = .sr ∧ takesStep fmt then s.stepLfsr per else s
  (s.engWrite va (cpyRh st) (packMem fmt x.elems)).bind (fun s _ =>
    (if x.scales.isEmpty then .ok s ()
     else s.engWrite (recSarr r + recOffset r va / 4096 * 256) (cpyRh st) (x.scales.map (fun b => BitVec.ofNat 8 b))).bind
      (fun s _ => (s.putPostmark r va e.ver).bind (fun s _ =>
        .ok s { (a.join x) with elems := [], scales := [] })))

/-- The scale bytes a CV-out writes: those of its blocks, in an MXFP4 format (R258). -/
def cvOutArr (r : List Word) (va n : Nat) : List (Nat × Nat) :=
  if (recCur r).fmt.toNat = 7 ∨ (recCur r).fmt.toNat = 8 then [(recSarr r + recOffset r va / 4096 * 256, n / 4096 * 256)] else []

/-- The body of a CPY with CV, scratchpad to memory: as VQNT, one contribution, and TENSOR_OVF after completion. -/
def cvOut (s : State) (q : QEntry) (pa : Nat) (r : List Word) (bb : Running → Running) : Ran :=
  let st := q.stencil
  let va := q.rega.toNat
  let sp := cpySpad st
  let n := cpyLen st
  let mode := RMode.ofCode q.rmode.toNat
  let len := n / 4096 * perBlock (recCur r).fmt.toNat * (fmtWidth (fbits st 8 3 0) / 8)
  if va % 4096 ≠ 0 ∨ n % 4096 ≠ 0 then .stop s .misalign q.rega
  else match firstFlt [s.spadFault sp len, s.spadBad [(sp, len)]] with
    | some f => .stop s f.1 f.2
    | none =>
      let id := s.ctx.id
      let tol := s.tolerance r
      (goList (fun s i a => s.cvOutBlock st mode r sp i (va + 4096 * i) a) s (List.range (n / 4096)) Quant.empty).ran
        (fun x u => { bb u with
          flags := x.flags, contrib := some (x.contrib id pa), watch := s.copyWatch true va n, spans := cvOutArr r va n ++ copySpans r va n,
          fault := match tol with
            | some t => if t < x.sat then some (.tensorOvf, BitVec.ofNat 64 x.sat) else none
            | none => none })

/-- The body of a CPY with CV. -/
def cpyCvBody (s : State) (q : QEntry) : Ran :=
  withBarrier s q (cpyLen q.stencil) (fun s bb =>
    match s.resolveHandle (fbits q.stencil 5 6 2) with
    | none => .stop s .illegal 0
    | some (pa, r) => if cpyOut q.stencil then cvOut s q pa r bb else cvIn s q r bb)

/-- CPY with CV (R183, R184). -/
def execCpyCv (s : State) : Out := commandRow .cpe .cpyCv cpyCvBody s

/-! ### CPG and CPS (R186) -/

/-- Size of an element. -/
def elemSize (st : BitVec 256) : Nat := 2 ^ (fbits st 5 2 0 + 2)

/-- The global address of element i. -/
def State.elemAddr (s : State) (q : QEntry) (i : Nat) : Nat :=
  (q.rega + BitVec.ofNat 64 (spadNat s.ctx.spad (32 * fieldOf q.stencil 8 + 4 * i) 4 * elemSize q.stencil)).toNat

/-- The body of CPG and CPS: `move` takes element i, in ascending i, at the address its index gives when its turn comes: a
command's later reads see its own scratchpad writes (R161, R186). Log entry 15 (DESIGN CHOICE). -/
def gatherBody (out : Bool) (move : State → QEntry → Nat → Nat → Go Unit) (s : State) (q : QEntry) : Ran :=
  let st := q.stencil
  let cnt := fieldOf st 4
  let n := cnt * elemSize st
  let sp := cpySpad st
  let ix := 32 * fieldOf st 8
  withBarrier s q n (fun s bb =>
    match firstFlt [s.spadFault sp n, s.spadFault ix (4 * cnt), s.spadBad ((ix, 4 * cnt) :: (if out then [(sp, n)] else []))] with
    | some f => .stop s f.1 f.2
    | none =>
      (goList (fun s i done =>
        let a := s.elemAddr q i
        if a % elemSize st ≠ 0 then .stop s .misalign (BitVec.ofNat 64 a)
        else (move s q i a).bind (fun s _ => .ok s (done ++ [a]))) s (List.range cnt) []).ran
        (fun done r => { bb r with watch := done.findSome? (fun a => s.copyWatch out a (elemSize st)),
                                   spans := done.map (fun a => (a, elemSize st)) }))

/-- CPG gathers, element by element. -/
def cpgBody : Body := gatherBody false (fun s q i a =>
  (s.engRead a (elemSize q.stencil) (cpySb q.stencil) (cpyRh q.stencil)).bind (fun s bs =>
    .ok (s.putSpad (cpySpad q.stencil + i * elemSize q.stencil) bs) ()))

/-- CPG (R186). -/
def execCpg (s : State) : Out := commandRow .cpe .cpg cpgBody s

/-- CPS scatters, in ascending i. -/
def cpsBody : Body := gatherBody true (fun s q i a =>
  s.engWrite a (cpyRh q.stencil) (s.getSpad (cpySpad q.stencil + i * elemSize q.stencil) (elemSize q.stencil)))

/-- CPS (R186). -/
def execCps (s : State) : Out := commandRow .cpe .cps cpsBody s

/-! ### CPM (R187) -/

/-- Change a context that exists, in focus or not. -/
def State.mctxOf (s : State) (id : BitVec 32) (f : Ctx → Ctx) : State :=
  match s.ctxOf id with
  | none => s
  | some c => s.putCtx (f c)

/-- The words of a range take a full/empty bit. -/
def Ctx.fillBits (c : Ctx) (off n : Nat) (v : Bool) : Ctx :=
  { c with fe := (List.range (n / 4)).foldl (fun m i => SMap.set false m (off / 4 + i) v) c.fe }

/-- Each row written takes the tag of the source row of its last byte (R166, R187). -/
def copyTags (src dst : SMap (Option (BitVec 16))) (sp off n : Nat) : SMap (Option (BitVec 16)) :=
  (rowsOf [(off, n)]).foldl (fun m r =>
    let last := min (off + n) (4096 * (r + 1)) - 1
    SMap.set none m r (SMap.get none src ((sp + last - off) / 4096))) dst

/-- The destination of a CPM stands on another die whose step moves its rows: what comes in is held (R264). -/
def State.cpmHeld (s : State) (q : QEntry) : Bool :=
  match s.ctxOf (BitVec.ofNat 32 (bitsOf q.rega 63 32)) with
  | some d => d.die != s.ctx.die && s.stepMoves d.die
  | none => false

/-- The body of CPM. -/
def cpmBody (s : State) (q : QEntry) : Ran :=
  if s.cpmHeld q then .hold none
  else
  let sp := cpySpad q.stencil
  let n := cpyLen q.stencil
  let off := bitsOf q.rega 31 0
  let id := BitVec.ofNat 32 (bitsOf q.rega 63 32)
  if off % 32 ≠ 0 then .stop s .misalign q.rega
  else match s.ctxOf id with
    | none => .stop s .page q.rega
    | some d =>
      if d.space.asid ≠ s.ctx.space.asid then .stop s .prot q.rega
      else match firstFlt [s.spadFault sp n, if d.spres * 65536 < off + n then some (.page, BitVec.ofNat 64 off) else none,
          s.spadBad [(sp, n)]] with
        | some f => .stop s f.1 f.2
        | none =>
          let bs := s.getSpad sp n
          let tags := s.ctx.tags
          let s := s.mctx (fun c => c.fillBits sp n false)
          let s := s.mctxOf id (fun c => ({ c with
            spad := writeBytes c.spad off bs, tags := copyTags tags c.tags sp off n }).fillBits off n true)
          let s := { s with bad := s.bad.filter (fun b => match b with
            | .scratchpad i o => !(i == id && decide (off ≤ o / 4 * 4) && decide (o / 4 * 4 + 4 ≤ off + n))
            | _ => true) }
          (Go.ok s ()).ran (fun _ r => r)

/-- CPM (R187). -/
def execCpm (s : State) : Out := commandRow .cpe .cpm cpmBody s

/-! ### CPL and CPZ (R188) -/

/-- Ask for one line; a line that cannot be had is passed over. -/
def State.askLine (s : State) (va : Nat) : State :=
  match s.resolve (va / 128 * 128) 128 .load memTarget with
  | .error _ => s
  | .ok (t, ps) =>
    match ps with
    | { tgt := .mem x, .. } :: _ =>
      if x.typ.toNat < 2 ∧ isCarved x.pa = false then
        t.l2Access (dieOfPlate t.plate.id) (x.pa / 128) 0 (x.typ == 1) x.region
      else s
    | _ => s

/-- The body of CPL: never faults. Log entry 15 (DESIGN CHOICE). -/
def cplBody (s : State) (q : QEntry) : Ran :=
  let va := q.rega.toNat
  let n := cpyLen q.stencil
  (Go.ok ((lineParts va n).foldl (fun t l => t.askLine l.1) s) ()).ran (fun _ r => { r with spans := [(va, n)] })

/-- CPL (R188). -/
def execCpl (s : State) : Out := commandRow .cpe .cpl cplBody s

/-- The body of CPZ: zeros; full/empty bits stay, row tags go. -/
def cpzBody (s : State) (q : QEntry) : Ran :=
  let sp := cpySpad q.stencil
  let n := cpyLen q.stencil
  match s.spadFault sp n with
  | some f => .stop s f.1 f.2
  | none => (Go.ok (s.putSpad sp (List.replicate n 0)) ()).ran (fun _ r => r)

/-- CPZ (R188). -/
def execCpz (s : State) : Out := commandRow .cpe .cpz cpzBody s

end Sys2Proof.Machine
end

