-- ==== Sys2Proof/Machine/Power.lean ====
section
/-! DEFINITION. The power-grant arbiter of a die (R275 to R278, R209): the window of the current-step limit, grants and
bookings, and deferred returns. -/

namespace Sys2Proof.Machine

/-- Cycles of die d in n microseconds at its point. Log entry 39 (DESIGN CHOICE). -/
def State.micros (s : State) (d n : Nat) : Nat := n * clockMhz (s.die d).point

/-- What an entry of the window adds to up − down, or to down − up. -/
def netOf (up : Bool) (e : Nat × Nat × Nat) : Int := if up then (e.2.1 : Int) - e.2.2 else (e.2.2 : Int) - e.2.1

/-- The largest sum of up − down, or of down − up, over this cycle and any number of the 63 before it. A unit more in this
cycle adds to each of these sums, and while nothing more happens a window that begins later ends in one of them (R278). -/
def Die.peak (t : Die) (now : Nat) (up : Bool) : Int :=
  let old := (t.window.filter (fun e => decide (now < e.1 + 64) && decide (e.1 < now))).map (netOf up)
  let here := (t.window.filter (fun e => e.1 == now)).foldl (fun a e => a + netOf up e) 0
  here + (old.reverse.foldl (fun (a : Int × Int) x => (max a.1 (a.2 + x), a.2 + x)) (0, 0)).1

/-- Units that the first bound still allows in this cycle, and the second. -/
def Die.roomUp (t : Die) (now : Nat) : Int := 128 - t.peak now true
def Die.roomDn (t : Die) (now : Nat) : Int := 128 - t.peak now false

/-- Add to this cycle's entry of the window, and drop those that have left it. -/
def Die.windowAdd (t : Die) (now up dn : Nat) : Die :=
  let old := t.window.filter (fun e => decide (now < e.1 + 64))
  { t with window :=
      if old.any (fun e => e.1 == now) then old.map (fun e => if e.1 = now then (e.1, e.2.1 + up, e.2.2 + dn) else e)
      else old ++ [(now, up, dn)] }

/-- A request of n units fits the budget and the bound (R275, R278). -/
def Die.fits (t : Die) (now n : Nat) : Bool := decide (t.units + n ≤ t.budget) && decide ((n : Int) ≤ t.roomUp now)

/-- Hold n more units. -/
def Die.take (t : Die) (now n : Nat) : Die := { t.windowAdd now n 0 with units := t.units + n }

/-! ### Grants (R160, R209, R278) -/

/-- A request to the arbiter: a queue head of an engine, or a PWREQ. -/
inductive Ask where
  | head (plate e : Nat) (id : BitVec 32) (units : Nat)
  | book (plate : Nat) (id : BitVec 32) (units : Nat)
  deriving DecidableEq, Repr

def Ask.plate : Ask → Nat
  | .head p _ _ _ => p
  | .book p _ _ => p

def Ask.units : Ask → Nat
  | .head _ _ _ u => u
  | .book _ _ u => u

/-- The requests of plate p, engine heads first. -/
def State.asksOf (s : State) (p : Nat) : List Ask :=
  let pl := s.plateOf p
  pl.asks.map (fun a => Ask.head p a.1 a.2.1 a.2.2) ++
    pl.places.toList.filterMap (fun id => (s.ctxOf id).bind (fun c => match c.asked with
      | some n => if c.granted ∨ c.booking.isSome = true then none else some (Ask.book p id n)
      | none => none))

/-- The plates of a die in the order its arbiter takes them: ascending, after the plate last granted, wrapping. -/
def Die.askOrder (t : Die) : List Nat :=
  let first := match t.lastPlate with | some p => p % 128 + 1 | none => 0
  (List.range 128).map (fun i => 128 * t.id + (first + i) % 128)

/-- Grant one request that fits. -/
def State.grantOne (s : State) (d : Nat) (a : Ask) : State :=
  let now := s.cycle
  if (s.die d).fits now a.units then
    let s := s.mdie d (fun t => { t.take now a.units with lastPlate := some a.plate })
    match a with
    | .head p e id u => s.putPlate { (s.plateOf p) with grants := (s.plateOf p).grants ++ [(e, id, u)] }
    | .book _ id u =>
      match s.ctxOf id with
      | some c => s.putCtx { c with granted := true, booking := some { size := u, used := 0 } }
      | none => s
  else s

/-- Some request waits on die d. -/
def State.wantsGrant (s : State) (d : Nat) : Bool := ((s.die d).askOrder).any (fun p => !(s.asksOf p).isEmpty)

/-- POWER_GRANT: the arbiter takes the cycle's requests in order and grants each that fits; heads ask again (R278).
Log entry 54 (UNVERIFIED). -/
def execPowerGrant (die : BitVec 2) (s : State) : Out :=
  let d := die.toNat
  let order := (s.die d).askOrder
  let asks := order.flatMap s.asksOf
  let s := order.foldl (fun t p => if (t.plateOf p).asks.isEmpty then t else t.putPlate { (t.plateOf p) with asks := [] }) s
  .next (asks.foldl (fun t a => t.grantOne d a) s)

/-! ### Returns (R278) -/

/-- Units die d may free in this cycle. -/
def Die.returnable (t : Die) (now : Nat) : Nat := min t.deferred (t.roomDn now).toNat

/-- UNIT_RETURN: units that came back are free again as far as the second bound allows (R278). -/
def execUnitReturn (die : BitVec 2) (s : State) : Out :=
  let now := s.cycle
  .next (s.mdie die.toNat (fun t =>
    let n := t.returnable now
    { t.windowAdd now 0 n with units := t.units - n, deferred := t.deferred - n }))

end Sys2Proof.Machine
end

