-- ==== Sys2Proof/Machine/Task.lean ====
section
/-! DEFINITION. Task records (R207, R322 to R324), their acceptance (R325 to R327), conditions (R326) and continuations
(R202, R337). -/

namespace Sys2Proof.Machine

/-! ### The record (R322, R324) -/

/-- The declarations of a record, one pair of doublewords each; none when one breaks R324. -/
def parseIns (spg : Nat) : List (Word × Word) → Option (List Input)
  | [] => some []
  | (a, b) :: rest =>
    let spad := bitsOf a 31 16
    let len := bitsOf a 63 32
    if bitsOf a 7 4 ≠ 0 then none
    else match bitsOf a 3 0 with
      | 0 => if a = 0 ∧ b = 0 then (parseIns spg rest).map (fun l => .none :: l) else none
      | 1 => if a = 1 ∧ b.toNat % 8 = 0 then (parseIns spg rest).map (fun l => .flag b :: l) else none
      | 2 => if a = 2 ∧ b.toNat % 16 = 0 then (parseIns spg rest).map (fun l => .barrier b :: l) else none
      | 3 =>
        if len = 0 ∨ 49152 < len then none
        else if bitOf a 8 then
          match rest with
          | (c, d) :: rest =>
            if c = 0 ∧ bitsOf a 15 14 ≠ 3 ∧ 32 * spad < spg * 65536 then
              (parseIns spg rest).map (fun l =>
                .stageCv spad len b d (BitVec.ofNat 5 (bitsOf a 13 9)) (BitVec.ofNat 2 (bitsOf a 15 14)) :: .none :: l)
            else none
          | [] => none
        else if bitsOf a 15 9 = 0 ∧ 32 * (spad + len) ≤ spg * 65536 then
          (parseIns spg rest).map (fun l => .stage spad len b :: l)
        else none
      | _ => none

/-- Reserved bits of the first doublewords of a record: doubleword, high and low bit. -/
def recordReserved : List (Nat × Nat × Nat) :=
  [(0, 63, 57), (1, 63, 57), (2, 3, 3), (2, 63, 11), (3, 7, 5), (3, 15, 12), (3, 63, 24), (4, 14, 10), (4, 63, 16), (5, 0, 0)]

/-- Parse the 32 doublewords of a record; none in the cases of R207 and R323 that its own words show. -/
def parseTask (dws : List Word) : Option TaskRec :=
  let dw (i : Nat) : Word := dws.getD i 0
  let cmask := dw 5
  let spg := bitsOf (dw 3) 4 0
  let named := (List.range 63).filter (fun i => bitOf cmask (i + 1))
  let ins := if cmask = 0 then parseIns spg ((List.range 10).map (fun n => (dw (12 + 2 * n), dw (13 + 2 * n)))) else some []
  let xs := if cmask = 0 then (List.range 4).map (fun i => (i + 1, dw (8 + i)))
    else (List.range named.length).map (fun j => (named.getD j 0 + 1, dw (12 + j)))
  if recordReserved.any (fun r => decide (bitsOf (dw r.1) r.2.1 r.2.2 ≠ 0)) ∨ bitsOf (dw 2) 9 8 = 3 ∨ 24 < spg ∨
      (dw 0).toNat % 16 ≠ 0 ∨ (dw 1).toNat % 32 ≠ 0 ∨ 64 < bitsOf (dw 3) 23 16 ∨ 20 < named.length then none
  else ins.map (fun l =>
    { code := dw 0, stb := dw 1, prio := bitsOf (dw 2) 2 0, queue := bitsOf (dw 2) 7 4, mode := bitsOf (dw 2) 9 8,
      waitcap := bitOf (dw 2) 10, spg := spg, accmask := BitVec.ofNat 4 (bitsOf (dw 3) 11 8), power := bitsOf (dw 3) 23 16,
      domain := BitVec.ofNat 10 (bitsOf (dw 4) 9 0), dv := bitOf (dw 4) 15, cmask := cmask, rings := dw 6, tdt := dw 7,
      xs := xs, ins := l })

/-- A stencil of the block names an MXE operation that uses a tile (R207). -/
def usesTile (sts : List (BitVec 256)) : Bool :=
  sts.any (fun st => fbits st 0 15 12 == 0 && decide (1 ≤ fbits st 0 11 8) && decide (fbits st 0 11 8 ≤ 5))

/-- The queue of a record is bound, and its domain exists and is open to the queue's address space (R323, R325). -/
def State.recordFits (s : State) (d : Nat) (t : TaskRec) : Bool :=
  match SMap.get none (s.die d).bind t.queue with
  | none => false
  | some sp => !t.dv || (match s.domain t.domain with
    | some v => v.asid == sp.asid
    | none => false)

/-- What a spawner in U mode may not ask for (R207). Log entry 46 (DESIGN CHOICE). -/
def spawnDenied (sp : Space) (own : Nat) (t : TaskRec) : Bool :=
  sp.priv == .u && (t.mode == 1 || t.mode == 2 || decide (own < t.prio))

/-! ### Capacity (R263, R265) -/

/-- The plates of a die that are bound (R11). -/
def State.platesOf (s : State) (d : Nat) : List Plate :=
  s.allPlates.filter (fun p => dieOfPlate p.id == d && p.bound.isSome)

/-- The point against which dispatches of a die are judged: the lower one from a downward step's first cycle (R264). -/
def State.judgePoint (s : State) (d : Nat) : Nat :=
  match (s.die d).step with
  | some p => min p.target (s.die d).point
  | none => (s.die d).point

/-- The largest SPCAP of a die's plates. -/
def State.maxSpcap (s : State) (d : Nat) : Nat :=
  (s.platesOf d).foldl (fun m p => max m (p.spcap (s.judgePoint d))) 0

/-- A task ends without ever becoming a context. -/
def State.failTask (s : State) (d : Nat) (status : BitVec 32) : State := s.journal d 3 2 status 0 0 []

/-! ### Conditions (R326) -/

/-- Translate an address for the scheduler: a walk that leaves nothing in a TLB; COH or carved memory alone will do. -/
def State.schedAddr (s : State) (sp : Space) (va : Word) : Option Nat :=
  let v := va.toNat
  if 2 ^ 57 ≤ v ∨ inWindow v = true then none
  else match s.walk v [48, 39, 30, 21, 16] (bitsOf sp.root 46 12 * 4096) with
    | .error _ => none
    | .ok (pte, size) =>
      let e : TlbEnt := { asid := sp.asid, va := v / size * size, size := size, pte := pte }
      match e.target v with
      | .error _ => none
      | .ok x => if x.typ = 0 ∨ isCarved x.pa = true then some x.pa else none

/-- A condition holds: 0 a doubleword is non-zero, 1 a byte barrier has DONE. -/
def State.condHolds (s : State) (c : Nat × Nat) : Bool :=
  if c.1 = 0 then !(s.memDw c.2 == 0) else bitOf (s.memDw (c.2 + 8)) 49

/-- The conditions of a record, or none when an address fails. -/
def State.conditions (s : State) (sp : Space) (ins : List Input) : Option (List (Nat × Nat)) :=
  ins.foldl (fun acc i => acc.bind (fun l => match i with
    | .flag a => (s.schedAddr sp a).map (fun pa => l ++ [(0, pa)])
    | .barrier a => (s.schedAddr sp a).map (fun pa => l ++ [(1, pa)])
    | _ => some l)) (some [])

/-! ### Acceptance (R325 to R327) -/

/-- A queue of a die is full: QUEUED and READY tasks count (R325). -/
def State.queueFull (s : State) (d q : Nat) : Bool := decide (256 ≤ (SMap.get [] (s.die d).queues q).length)

/-- Append a task to its queue; its ring table registers with the die's fabric engine (R308, R325). -/
def State.putTask (s : State) (d : Nat) (t : TaskRec) (addr : Word) (wait : List (Nat × Nat)) (near : Option Nat) : State :=
  let k : Task := { task := t, addr := addr, seq := s.jseq, st := if wait.isEmpty then .ready else .queued, wait := wait,
                    since := s.cycle, near := near }
  let sp := (SMap.get none (s.die d).bind t.queue).getD Space.blank
  s.mdie d (fun e => { e with
    queues := SMap.set [] e.queues t.queue (SMap.get [] e.queues t.queue ++ [k]),
    rings := if t.rings = 0 then e.rings else e.rings ++ [{ seq := k.seq, owner := .task d sp, table := t.rings }] })

/-- Accept a valid record: ACCEPT, then the queue, or its end when no plate can hold it or a condition's address fails. It
answers the ACCEPT entry's sequence number (R207, R265, R326, R327). -/
def State.acceptTask (s : State) (d : Nat) (t : TaskRec) (addr : Word) (source : Nat) (near : Option Nat) : State × Nat :=
  let seq := s.jseq
  let s := s.journal d 1 source 0 addr 0 []
  let sp := (SMap.get none (s.die d).bind t.queue).getD Space.blank
  if s.maxSpcap d < t.spg ∧ t.waitcap = false then (s.failTask d 0x80000002, seq)
  else match s.conditions sp t.ins with
    | none => (s.failTask d 0x80000104, seq)
    | some cs => (s.putTask d t addr (cs.filter (fun c => !(s.condHolds c))) near, seq)

/-! ### TASK_READY and CONTINUATION_ENQUEUE -/

/-- Some condition a queued task of die d waits for holds. -/
def State.readyDue (s : State) (d : Nat) : Bool :=
  (s.die d).queues.any (fun q => q.2.any (fun t => t.st == .queued && t.wait.any s.condHolds))

/-- Conditions that hold are met; a task with none left is READY (R326). -/
def State.meetConditions (s : State) (t : Task) : Task :=
  if t.st = .queued then
    let w := t.wait.filter (fun c => !(s.condHolds c))
    if w.isEmpty then { t with wait := [], st := .ready, since := s.cycle } else { t with wait := w }
  else t

/-- TASK_READY (R326). -/
def execTaskReady (die : BitVec 2) (s : State) : Out :=
  .next (s.mdie die.toNat (fun e => { e with queues := e.queues.map (fun q => (q.1, q.2.map s.meetConditions)) }))

/-- The first continuation whose event holds and whose queue has room (R202). -/
def State.continDue (s : State) : Option Contin :=
  s.contins.find? (fun c => s.condHolds (c.kind, c.addr) && !(s.queueFull c.die c.task.queue))

/-- CONTINUATION_ENQUEUE: the record of a continuation is enqueued as a new task (R202, R337). -/
def execContinuationEnqueue (s : State) : Out :=
  .next (match s.continDue with
    | none => s
    | some c => (({ s with contins := s.contins.erase c }).acceptTask c.die c.task 0 2 none).1)

end Sys2Proof.Machine
end

