-- ==== Sys2Proof/Machine/System.lean ====
section
/-! DEFINITION. The words of 09: stencil slots and guards (R205, R206), phases and domains (R196 to R198), byte barriers
(R200, R201), continuations and remote enqueue (R202, R203), tasks, power and counters (R207 to R210), CSRs (R211), traps
and system words (R215 to R220). -/

namespace Sys2Proof.Machine

/-! ### Stencil slots and guards (R205, R206) -/

/-- A whole slot is written: an error planted in it is gone. -/
def State.cureSlot (s : State) (n : Reg) : State :=
  { s with bad := s.bad.filter (fun b => match b with | .stencil id m => !(id == s.ctx.id && m == n) | _ => true) }

/-- The effect of STLD. -/
def stldRes (k : Ctl) (slot a : Reg) (s : State) : Res :=
  let va := s.x a
  let pc := s.addrOf s.ctx.cur
  if va.toNat % 32 ≠ 0 then .trap .misalign va
  else match s.memRead va.toNat 32 0 0 anyTarget with
    | .error (c, addr) => .trap c addr
    | .ok (.wait _) => s.staleWait va
    | .ok (.val t v hit) =>
      let t := (t.setSlot slot.toNat (BitVec.ofNat 256 v) 10).cureSlot slot
      match t.watched .load va.toNat 32 with
      | some w => afterWatch (some w) pc t 10
      | none =>
        if hit then .done t 10
        else
          let me := t.ctx.cur
          .later (t.mctx (fun c => { c with
            flight := c.flight ++ [{ strand := me, atomic := false, arr := .none, qp := k.qp, qn := k.qn,
                                     clk := (t.strand me).clk, left := 10 }] }))

/-- STLD (R205). -/
def execStld (k : Ctl) (slot a : Reg) (s : State) : Out :=
  .next (s.issue (.stld k slot a) k anyStrand false noCheck (stldRes k slot a))

/-- STWR (R205). -/
def execStwr (k : Ctl) (slot a : Reg) (f : BitVec 4) (s : State) : Out :=
  .next (s.issue (.stwr k slot a f) k anyStrand false noCheck (fun s =>
    let n := 16 * f.toNat
    let w := (s.slotNow slot.toNat).toNat
    let v := bitsOf (s.x a) 15 0
    .done (s.setSlot slot.toNat (BitVec.ofNat 256 (w / 2 ^ (n + 16) * 2 ^ (n + 16) + v * 2 ^ n + w % 2 ^ n)) 1) 1))

/-- STRD (R205); within the bound of a slot's write its value is open (R68). -/
def execStrd (k : Ctl) (d slot : Reg) (f : BitVec 4) (s : State) : Out :=
  .next (s.issue (.strd k d slot f) k anyStrand false noCheck (fun s =>
    if s.slotBad slot then .trap .eccUncorr s.anyAddr
    else
      let v := if s.early (.stencil slot.toNat) then bitsOf (Config.freeWord s.fresh 700) 15 0
        else fieldOf (s.slot slot.toNat) f.toNat
      .done (s.setX d (BitVec.ofNat 64 v) 2) 2))

/-- GSET resolves a guard and sets the event latch (R206, R219). -/
def execGset (k : Ctl) (g : BitVec 4) (a : Reg) (s : State) : Out :=
  .next (s.issue (.gset k g a) k anyStrand false noCheck (fun s =>
    let v := !(s.x a == 0)
    .done (s.mctx (fun c => { c with g := SMap.set none c.g g.toNat (some v), latch := true })) 1))

/-- GCLR (R206). -/
def execGclr (k : Ctl) (g : BitVec 4) (s : State) : Out :=
  .next (s.issue (.gclr k g) k anyStrand false noCheck (fun s =>
    .done (s.mctx (fun c => { c with g := SMap.set none c.g g.toNat none })) 1))

/-! ### Phases and domains (R196 to R198) -/

/-- Whether an ESN was queued no later than another. -/
def upto (e last : BitVec 32) : Bool := decide ((last - e).toNat < 2 ^ 31)

/-- A started command of the context has not completed, among those queued up to an ESN. -/
def State.runningUpto (s : State) (last : BitVec 32) : Bool :=
  s.plate.running.toList.any (fun q => q.any (fun r => r.ctx == s.ctx.id && decide (0 < r.left) && upto r.ent.esn last))

/-- A command that a boundary waits for has not completed: those that cannot start before the boundary are left out (R196).
Log entry 18 (DESIGN CHOICE). -/
def State.phaseBusy (s : State) (last : BitVec 32) : Bool :=
  s.runningUpto last || s.ctx.held.toList.any (fun h => h.any (fun f => !f.after && upto f.ent.esn last)) ||
  s.ctx.queues.toList.any (fun q => (q.takeWhile (fun e => !(s.ctx.tagHolds e))).any (fun e => upto e.esn last))

/-- No command of the context is queued or in flight, nor stands faulted before its completion (R164, R208).
Log entry 18 (DESIGN CHOICE). -/
def State.drained (s : State) : Bool :=
  s.ctx.held.toList.all (fun h => h.all (fun f => f.after)) && s.ctx.queues.toList.all (fun q => q.isEmpty) &&
  !(s.plate.running.toList.any (fun q => q.any (fun r => r.ctx == s.ctx.id && decide (0 < r.left))))

/-- Arrive for the boundary that ends the phase: after release(device) (R196). -/
def State.arriveNow (s : State) : State :=
  let s := s.release 2
  (s.arrive s.ctx.csr.dmrDom s.ctx.id).mcsr (fun c => { c with dmr := setBits c.dmr 14 14 1 })

/-- The boundary has completed for the context: the phase count, and acquire(device) (R196). -/
def State.phaseDone (s : State) : State :=
  (s.mcsr (fun c => { c with phcnt := c.phcnt + 1, dmr := setBits c.dmr 14 14 0 })).acquire 2

/-- The effect of PHASE and PHWT: `limit` is PHWT's, and `res` writes its status. -/
def phaseRes (limit : State → Option Nat) (res : State → Nat → State) (s : State) : Res :=
  if s.ctx.csr.dmrV = false then .trap .illegal 0
  else if s.ctx.csr.dmrArr = false ∧ s.phaseBusy s.before = true then .wait s .barrier false
  else
    let t := if s.ctx.csr.dmrArr then s else s.arriveNow
    if t.boundarySeen then .done (res t.phaseDone 0) 1
    else match limit s with
      | some n => if n ≤ s.waited then .done (res t 1) 1 else .wait t .barrier false
      | none => .wait t .barrier false

/-- PHASE (R196). -/
def execPhase (k : Ctl) (s : State) : Out :=
  .next (s.issue (.phase k) k onlyC false noCheck (phaseRes (fun _ => none) (fun s _ => s)))

/-- PHWT (R196). -/
def execPhwt (k : Ctl) (d a : Reg) (s : State) : Out :=
  .next (s.issue (.phwt k d a) k onlyC false noCheck
    (phaseRes (fun s => some (s.x a).toNat) (fun s v => s.setX d (BitVec.ofNat 64 v) 1)))

/-- The domain of a join exists and is open to the context's address space (R197). -/
def State.joinable (s : State) (d : BitVec 10) : Bool :=
  match s.domain d with
  | some v => v.asid == s.ctx.space.asid
  | none => false

/-- A registered join waits until it takes effect; then DMR, PHCNT and acquire(device) (R197). -/
def State.joinWait (s : State) (d : BitVec 10) : Res :=
  if s.joinSeen d then .done ((s.takeJoin d).acquire 2) 1 else .wait s .barrier false

/-- DMJOIN (R197). -/
def execDmjoin (k : Ctl) (a : Reg) (s : State) : Out :=
  .next (s.issue (.dmjoin k a) k onlyC false noCheck (fun s =>
    match s.ctx.joining with
    | some d => s.joinWait d
    | none =>
      let d := BitVec.ofNat 10 (bitsOf (s.x a) 9 0)
      if s.ctx.csr.dmrV ∨ 1024 ≤ (s.x a).toNat ∨ s.joinable d = false then .trap .illegal s.anyAddr
      else ((s.registerJoin d s.ctx.id).mctx (fun c => { c with joining := some d })).joinWait d))

/-- DMLEAVE (R198). -/
def execDmleave (k : Ctl) (s : State) : Out :=
  .next (s.issue (.dmleave k) k onlyC false noCheck (fun s =>
    if s.ctx.csr.dmrV = false then .trap .illegal s.anyAddr else .done (s.release 2).withdraw 1))

/-! ### Byte barriers (R200, R201) -/

/-- BBPOST: POSTED, PV and the check of R199, at the bank ALU. -/
def barrierPost (n v : Nat) : Nat := barrierCheck (v / 2 ^ 113 * 2 ^ 113 + 2 ^ 112 + n * 2 ^ 64 + v % 2 ^ 64)

/-- The effect of BBPOST: its pushes land with the bank ALU's answer. -/
def bbpostRes (k : Ctl) (a b : Reg) (s : State) : Res :=
  let va := s.x a
  let n := s.x b
  if bitsOf n 63 48 ≠ 0 then .trap .illegal s.anyAddr
  else if va.toNat % 16 ≠ 0 then .trap .misalign va
  else match s.resolve va.toNat 16 .atomic atomicTarget with
    | .error (c, addr) => .trap c addr
    | .ok (s, ps) =>
      match ps with
      | { tgt := .mem x, .. } :: _ =>
        let t := s.barrierUpdate x.pa x.region (barrierPost n.toNat)
        let me := t.ctx.cur
        .later (t.mctx (fun c => { c with
          flight := c.flight ++ [{ strand := me, atomic := false, arr := .none, qp := k.qp, qn := k.qn,
                                   clk := (t.strand me).clk, left := 8 }] }))
      | _ => .trap .page va

/-- BBPOST (R200). -/
def execBbpost (k : Ctl) (a b : Reg) (s : State) : Out :=
  .next (s.issue (.bbpost k a b) k onlyC false noCheck (bbpostRes k a b))

/-- The effect of BBWT. -/
def bbwtRes (d a b : Reg) (s : State) : Res :=
  let va := s.x a
  let limit := (s.x b).toNat
  if va.toNat % 16 ≠ 0 then .trap .misalign va
  else match s.resolve va.toNat 16 .atomic atomicTarget with
    | .error (c, addr) => .trap c addr
    | .ok (t, ps) =>
      match ps with
      | { tgt := .mem x, .. } :: _ =>
        let hi := t.memDw (x.pa + 8)
        if bitOf hi 49 then
          (if bitOf hi 50 then .after ((t.setX d 2 1).acquire 2) .bbOverrun va else .done ((t.setX d 0 1).acquire 2) 1)
        else if limit ≤ s.waited then .done (t.setX d 1 1) 1
        else .wait t .barrier false
      | _ => .trap .page va

/-- BBWT (R201). -/
def execBbwt (k : Ctl) (d a b : Reg) (s : State) : Out :=
  .next (s.issue (.bbwt k d a b) k onlyC false noCheck (bbwtRes d a b))

/-! ### WAITC and REQ (R202, R203) -/

/-- WAITC in an apart stream or a RUN context is ILLEGAL (R202). -/
def waitcPlace (s : State) : Option Cause := if s.ctx.lockstep = false ∨ s.ctx.task.mode = 0 then some .illegal else none

/-- The effect of WAITC. -/
def waitcRes (a b : Reg) (s : State) : Res :=
  let ev := s.x a
  let kind := bitsOf ev 3 0
  let va := setBits ev 3 0 0
  let mask := setBits (s.x b) 0 0 0
  if 1 < kind ∨ 16 < (popcOp mask).toNat then .trap .illegal s.anyAddr
  else match s.resolve va.toNat 8 .atomic atomicTarget with
    | .error (c, addr) => .trap c addr
    | .ok (s, ps) =>
      match ps with
      | { tgt := .mem x, .. } :: _ =>
        if s.drained then .leave s (.waitc kind x.pa mask (nextPc (s.strand .c).pc 16 (s.strand .c).xfer none).1)
        else .wait (s.mctx (fun c => { c with ending := true })) .dep false
      | _ => .trap .page va

/-- WAITC (R202). -/
def execWaitc (k : Ctl) (a b : Reg) (s : State) : Out :=
  .next (s.issue (.waitc k a b) k onlyC false waitcPlace (waitcRes a b))

/-- An engine of another context takes no more commands (R16, R180). -/
def State.destFull (s : State) (c : Ctx) (e : Engine) : Bool :=
  let queued := (c.queues.get e.num).length
  let inFlight := ((s.plateOf c.plate).running.get e.num).countP (fun r => r.ctx == c.id && decide (0 < r.left))
  decide (queueDepth e ≤ queued) || (e == .txe && decide (8 ≤ queued + inFlight))

/-- The effect of REQ. -/
def reqRes (a b : Reg) (s : State) : Res :=
  let dst := s.x a
  let va := s.x b
  let off := va.toNat - winBase
  let pc := s.addrOf s.ctx.cur
  if va.toNat % 64 ≠ 0 then .trap .misalign va
  else if inWindow va.toNat = false ∨ s.ctx.spres * 65536 ≤ off then .trap .page va
  else match s.ctxOf (BitVec.ofNat 32 (bitsOf dst 31 0)) with
    | none => .trap .page dst
    | some c =>
      let st := BitVec.ofNat 256 (spadNat s.ctx.spad off 32)
      let flags := spadNat s.ctx.spad (off + 48) 16
      let e := engineOf st
      let qp := flags % 2 == 1
      let qn := flags / 2 % 2 == 1
      if c.space.asid ≠ s.ctx.space.asid then .trap .prot dst
      else if s.eccFault { va := va.toNat, len := 64, tgt := .win off } false then .trap .eccUncorr va
      else if stencilOk st = false ∨ 4 ≤ flags then .trap .illegal s.anyAddr
      else
        let s := if (s.strand s.ctx.cur).mark then s else s.release 2
        let limit := bitsOf s.ctx.csr.reqto 31 0
        if s.destFull c e then
          (if limit ≠ 0 ∧ limit ≤ s.waited then .trap .qfullTimeout dst else .wait s .qfull true)
        else if c.canPush .c qp qn = false then .wait s .token true
        else
          let c := (s.ctxOf c.id).getD c
          let q : QEntry :=
            { stencil := st, rega := BitVec.ofNat 64 (spadNat s.ctx.spad (off + 32) 8),
              regb := BitVec.ofNat 64 (spadNat s.ctx.spad (off + 40) 8), esn := c.esn + 1, rmode := 0,
              spc := setBits pc 63 57 0, sstr := 0, qp := qp, qn := qn, armed := false, clk := Clock.zero,
              views := c.view, stamped := s.fresh }
          .done (s.putCtx ({ c with
            esn := q.esn, queues := c.queues.set e.num (c.queues.get e.num ++ [q]) }.owe .c qp qn)) 1

/-- REQ (R203). -/
def execReq (k : Ctl) (a b : Reg) (s : State) : Out :=
  .next (s.issue (.req k a b) k onlyC false noCheck (reqRes a b))

/-! ### Tasks, power and counters (R207 to R210) -/

/-- A record is valid for a spawner (R207, R323, R325). Log entry 46 (DESIGN CHOICE). -/
def State.spawnable (s : State) (t : Option TaskRec) (uses : Bool) : Bool :=
  match t with
  | none => false
  | some t => !(t.accmask == 0 && uses) && !(spawnDenied s.ctx.space s.ctx.task.prio t) && s.recordFits s.ctx.die t

/-- Read the stencil block of a record, where R207 asks for it: whether it names an operation that uses a tile. -/
def State.readBlock (s : State) (dws : List Word) : Except Flt Got :=
  let stb := bitsOf (dws.getD 1 0) 56 0
  if bitsOf (dws.getD 3 0) 11 8 = 0 ∧ stb ≠ 0 ∧ stb % 32 = 0 then s.memRead stb 2048 0 0 anyTarget
  else .ok (.val s 0 true)

/-- TSPAWN once its record is read: release, judgement, the wait for room, acceptance. -/
def tspawnAccept (d : Reg) (va : Word) (dws : List Word) (block : Nat) (s : State) : Res :=
  let s := if (s.strand s.ctx.cur).mark then s else s.release 2
  let t := parseTask dws
  let uses := usesTile ((List.range 64).map (fun i => BitVec.ofNat 256 (block / 2 ^ (256 * i))))
  if s.spawnable t uses = false then .done (s.setX d 2 1) 1
  else match t with
    | none => .done (s.setX d 2 1) 1
    | some t =>
      let limit := bitsOf s.ctx.csr.reqto 31 0
      if s.queueFull s.ctx.die t.queue then
        (if limit ≠ 0 ∧ limit ≤ s.waited then .done (s.setX d 1 1) 1 else .wait s .qfull false)
      else
        let r := s.acceptTask s.ctx.die t va 1 (some s.ctx.plate)
        .done (r.1.setX d (BitVec.ofNat 64 (r.2 * 256)) 1) 1

/-- The effect of TSPAWN. -/
def tspawnRes (d a : Reg) (s : State) : Res :=
  let va := s.x a
  if va.toNat % 256 ≠ 0 then .trap .misalign va
  else if inWindow va.toNat then .trap .page va
  else match s.memRead va.toNat 256 0 0 memTarget with
    | .error (c, addr) => .trap c addr
    | .ok (.wait _) => s.staleWait va
    | .ok (.val s v _) =>
      match s.readBlock (dwsOf 32 v) with
      | .error (c, addr) => .trap c addr
      | .ok (.wait _) => s.staleWait va
      | .ok (.val s w _) => tspawnAccept d va (dwsOf 32 v) w s

/-- TSPAWN (R207). -/
def execTspawn (k : Ctl) (d a : Reg) (s : State) : Out :=
  .next (s.issue (.tspawn k d a) k onlyC false noCheck (tspawnRes d a))

/-- TEND (R208). -/
def execTend (k : Ctl) (a : Reg) (s : State) : Out :=
  .next (s.issue (.tend k a) k onlyC false noCheck (fun s =>
    let s := s.mctx (fun c => { c with ending := true })
    if s.drained then .leave s (.tend (BitVec.ofNat 32 (bitsOf (s.x a) 31 0))) else .wait s .dep false))

/-- The effect of PWREQ: the request stands with the arbiter until it answers or REQTO passes. -/
def pwreqRes (d a : Reg) (s : State) : Res :=
  let n := (s.x a).toNat
  let limit := bitsOf s.ctx.csr.reqto 31 0
  let past (s : State) (v : Word) : Res :=
    .done ((s.mctx (fun c => { c with asked := none, granted := false })).setX d v 1) 1
  if s.ctx.granted then past s 0
  else if s.ctx.asked = none ∧ s.ctx.booking.isSome = true then .trap .illegal s.anyAddr
  else if n = 0 ∨ 64 < n then past s 1
  else if limit ≠ 0 ∧ limit ≤ s.waited then past s 2
  else .wait (s.mctx (fun c => { c with asked := some n })) .grant false

/-- PWREQ (R209). -/
def execPwreq (k : Ctl) (d a : Reg) (s : State) : Out :=
  .next (s.issue (.pwreq k d a) k onlyC false noCheck (pwreqRes d a))

/-- PWREL (R209). Log entry 43 (DEDUCED). -/
def execPwrel (k : Ctl) (s : State) : Out :=
  .next (s.issue (.pwrel k) k onlyC false noCheck (fun s => .done s.giveBooking 1))

/-- ACCR: the slots charged so far (R210). -/
def execAccr (k : Ctl) (d : Reg) (c : BitVec 4) (s : State) : Out :=
  .next (s.issue (.accr k d c) k anyStrand false noCheck (fun s =>
    .done (s.setX d (BitVec.ofNat 64 (SMap.get 0 s.ctx.acct c.toNat)) 2) 2))

/-- ESNR (R210). -/
def execEsnr (k : Ctl) (d : Reg) (s : State) : Out :=
  .next (s.issue (.esnr k d) k anyStrand false noCheck (fun s => .done (s.setX d (s.ctx.esn.setWidth 64) 2) 2))

/-! ### CSR access (R88 to R90, R211) -/

/-- The assigned CSR numbers (R88). -/
def csrListed (n : Nat) : Bool :=
  [0x000, 0x001, 0x002, 0x003, 0x004, 0x008, 0x009, 0x00A, 0x00B, 0x00C, 0x00D, 0x00E, 0x010, 0x011, 0x020, 0x021, 0x022,
   0x023, 0x024, 0x025, 0x026, 0x030, 0x031, 0x032, 0x040, 0x041, 0x050, 0x051, 0x070, 0x071].contains n

/-- The checks of a CSR word: the number, then privilege for a write (R89, R90). -/
def csrCheck (n : Nat) (w : Bool) (s : State) : Option Cause :=
  if csrListed n = false then some .illegal
  else if w ∧ s.ctx.space.priv = .u ∧ (n = 0x040 ∨ n = 0x041) then some .priv
  else none

/-- Banks of the register cache that RBPM turns off write their dirty lines back (R67). -/
def State.banksOff (s : State) (was : Csrs) : State :=
  ((List.range 16).filter (fun b => s.ctx.csr.bankMode b == 2 && !(was.bankMode b == 2))).foldl State.bankOff s

/-- A word of the issuing strand acts on CSR n: FSTAT holds the flags its tokens cover (R38, R59). Log entry 32 (DEDUCED). -/
def State.joined (s : State) (n : Nat) : State := if n = 0x00E then s.mctx (fun c => c.joinSeen c.cur) else s

/-- A CSR write: a reserved result is ILLEGAL and the CSR keeps its value (R39, R211). -/
def csrPut (n : Nat) (v : Word) (s : State) : Res :=
  let s := s.joined n
  match s.ctx.csr.write n v with
  | none => .trap .illegal s.anyAddr
  | some c =>
    let t := (if c = s.ctx.csr then s else s.noteCsr n (s.csrRead n) 1).mcsr (fun _ => c)
    .done (if n = 0x00D then t.notePend .versel 1 0 else if n = 0x030 then t.banksOff s.ctx.csr else t) 1

/-- CSR n as a word of the issuing strand sees it: another strand's write is seen through a token (R96), VERSEL as the bound of
its last write allows (R150, R211). -/
def State.csrSeen (s : State) (n : Nat) : Word :=
  if n = 0x00D ∧ s.early .versel then (s.versel).setWidth 64 else s.csrAs n ((s.joined n).csrRead n)

/-- CSRR (R211). -/
def execCsrr (k : Ctl) (d : Reg) (c : BitVec 9) (s : State) : Out :=
  .next (s.issue (.csrr k d c) k anyStrand false (csrCheck c.toNat false) (fun s => .done (s.setX d (s.csrSeen c.toNat) 2) 2))

/-- CSRW (R211). -/
def execCsrw (k : Ctl) (a : Reg) (c : BitVec 9) (s : State) : Out :=
  .next (s.issue (.csrw k a c) k anyStrand false (csrCheck c.toNat true) (fun s => csrPut c.toNat (s.x a) s))

/-- CSRS: a W1C field is cleared by a bit of 1 (R211). -/
def execCsrs (k : Ctl) (c : BitVec 9) (a : Reg) (s : State) : Out :=
  .next (s.issue (.csrs k c a) k anyStrand false (csrCheck c.toNat true) (fun s =>
    csrPut c.toNat (if c = 0x071 then s.x a else s.csrSeen c.toNat ||| s.x a) s))

/-- CSRC: a W1C field stays (R211). -/
def execCsrc (k : Ctl) (c : BitVec 9) (a : Reg) (s : State) : Out :=
  .next (s.issue (.csrc k c a) k anyStrand false (csrCheck c.toNat true) (fun s =>
    csrPut c.toNat (if c = 0x071 then 0 else s.csrSeen c.toNat &&& ~~~(s.x a)) s))

/-! ### Traps and system words (R215 to R220) -/

/-- ERET without a trap being handled, or apart, is ILLEGAL (R91, R215). -/
def eretPlace (s : State) : Option Cause := if s.ctx.csr.act = false ∨ s.ctx.lockstep = false then some .illegal else none

/-- ERET (R215). -/
def execEret (k : Ctl) (s : State) : Out :=
  .next (s.issue (.eret k) k onlyC true eretPlace (fun s => .leave s .eret))

/-- TRAP (R216). -/
def execTrap (k : Ctl) (i : BitVec 15) (s : State) : Out :=
  .next (s.issue (.trap k i) k anyStrand false noCheck (fun s => .after s .swtrap (zimm i)))

/-- A privileged word in U mode (R90). -/
def privOnly (s : State) : Option Cause := if s.ctx.space.priv = .u then some .priv else none

/-- [a, a + n) and [b, b + m) meet. -/
def meets (a n b m : Nat) : Bool := decide (a < b + m) && decide (b < a + n)

/-- A retention register caught by a TLBI (R259): its range leaves the L2, it is released, and RETAIN_LOST is logged. -/
def State.loseRetn (s : State) (d n : Nat) : State :=
  let r := (s.die d).retnOf n
  let inside (e : L2Line) : Bool := decide (r.lo ≤ e.line * 128) && decide (e.line * 128 < r.hi)
  let gone := (s.die d).l2.filter inside
  let s := s.mdie d (fun t => { t with l2 := t.l2.filter (fun e => !(inside e)) })
  let s := gone.foldl (fun t e => t.l2Out d e) s
  (s.mdie d (fun t => t.unpin n)).journal d 8 1 0 r.vbase 0
    [BitVec.ofNat 64 d, BitVec.ofNat 64 n, r.asid.setWidth 64, r.vbase]

/-- What a TLBI of [va, va + n) does on every plate and die (R217, R258, R259). -/
def State.shootdown (s : State) (asid : BitVec 12) (va n : Nat) : State :=
  let stale (e : TlbEnt) : Bool := e.asid == asid && meets e.va e.size va n
  let keep (l : List TlbEnt) : List TlbEnt := l.filter (fun e => !(stale e))
  let s := s.mapPlates (fun p => { p with tlb := keep p.tlb })
  let s := { s with dies := s.dies.map (fun (t : Die) => { t with tlb := keep t.tlb }) }
  let s := s.flushAll (fun _ l => l.asid == asid && meets l.vpage l.vsize va n)
  (List.range 4).foldl (fun t d => (List.range 8).foldl (fun t i =>
    let r := (t.die d).retnOf i
    if r.v && r.asid == asid && meets (r.vbase.toNat / 128 * 128) (r.hi - r.lo) va n then t.loseRetn d i else t) t) s

/-- The virtual ranges a started command holds translations of: what its body touched and the barrier it found (R185, R258). -/
def Running.touched (r : Running) : List (Nat × Nat) :=
  if r.bbar.isSome then (r.ent.regb.toNat, 16) :: r.spans else r.spans

/-- An engine command of the address space still holds a translation of the range (R258). -/
def State.spanHeld (s : State) (asid : BitVec 12) (va n : Nat) : Bool :=
  s.allPlates.any (fun p => p.running.toList.any (fun q => q.any (fun r =>
    decide (0 < r.left) && r.asid == asid && r.touched.any (fun e => meets e.1 e.2 va n))))

/-- TLBI (R217). -/
def execTlbi (k : Ctl) (a b : Reg) (s : State) : Out :=
  .next (s.issue (.tlbi k a b) k onlyC false privOnly (fun s =>
    let va := (s.x a).toNat
    let n := (s.x b).toNat
    let asid := s.ctx.space.asid
    if n = 0 then .done s 1
    else
      let t := if (s.strand s.ctx.cur).mark then s else s.shootdown asid va n
      if t.spanHeld asid va n then .wait t .dmem false else .done t 1))

/-- FENCEI: the plate's instruction-cache lines go (R218). -/
def execFencei (k : Ctl) (s : State) : Out :=
  .next (s.issue (.fencei k) k onlyC false noCheck (fun s => .done (s.mplate (fun p => { p with icache := [] })) 1))

/-- WFE (R219). -/
def execWfe (k : Ctl) (s : State) : Out :=
  .next (s.issue (.wfe k) k onlyC false noCheck (fun s =>
    if s.ctx.latch then .done (s.mctx (fun c => { c with latch := false })) 1 else .wait s .idle false))

/-- HALT (R220). -/
def execHalt (k : Ctl) (s : State) : Out :=
  .next (s.issue (.halt k) k onlyC false privOnly (fun s => .leave s (.halt [0, 0, 0, 0])))

end Sys2Proof.Machine
end

