-- ==== Sys2Proof/Machine/Words.lean ====
section
/-! DEFINITION. A word as one of a group (R53): the meaning of each word, as a function that a bundle and a waiting word's
next attempt apply. -/

namespace Sys2Proof.Machine

/-- The state a meaning answers. -/
def outState (o : Out) (s : State) : State :=
  match o with
  | .next t => t
  | .fault _ => s
  | .refused _ => s

/-- Perform a word on the strand that has the turn; an event is no word. -/
def runWord (i : Instr) (s : State) : State :=
  match i with
  | .add k d a b => outState (execAdd k d a b s) s
  | .sub k d a b => outState (execSub k d a b s) s
  | .and k d a b => outState (execAnd k d a b s) s
  | .or k d a b => outState (execOr k d a b s) s
  | .xor k d a b => outState (execXor k d a b s) s
  | .shl k d a b => outState (execShl k d a b s) s
  | .shr k d a b => outState (execShr k d a b s) s
  | .sar k d a b => outState (execSar k d a b s) s
  | .mul k d a b => outState (execMul k d a b s) s
  | .mulh k d a b => outState (execMulh k d a b s) s
  | .mulhu k d a b => outState (execMulhu k d a b s) s
  | .min k d a b => outState (execMin k d a b s) s
  | .max k d a b => outState (execMax k d a b s) s
  | .minu k d a b => outState (execMinu k d a b s) s
  | .maxu k d a b => outState (execMaxu k d a b s) s
  | .andn k d a b => outState (execAndn k d a b s) s
  | .div k d a b => outState (execDiv k d a b s) s
  | .divu k d a b => outState (execDivu k d a b s) s
  | .rem k d a b => outState (execRem k d a b s) s
  | .remu k d a b => outState (execRemu k d a b s) s
  | .slt k d a b => outState (execSlt k d a b s) s
  | .sltu k d a b => outState (execSltu k d a b s) s
  | .orn k d a b => outState (execOrn k d a b s) s
  | .clz k d a => outState (execClz k d a s) s
  | .ctz k d a => outState (execCtz k d a s) s
  | .popc k d a => outState (execPopc k d a s) s
  | .brev k d a => outState (execBrev k d a s) s
  | .abs k d a => outState (execAbs k d a s) s
  | .sxb k d a => outState (execSxb k d a s) s
  | .sxh k d a => outState (execSxh k d a s) s
  | .sxw k d a => outState (execSxw k d a s) s
  | .addi k d a i => outState (execAddi k d a i s) s
  | .andi k d a i => outState (execAndi k d a i s) s
  | .ori k d a i => outState (execOri k d a i s) s
  | .xori k d a i => outState (execXori k d a i s) s
  | .shli k d a n => outState (execShli k d a n s) s
  | .shri k d a n => outState (execShri k d a n s) s
  | .sari k d a n => outState (execSari k d a n s) s
  | .slti k d a i => outState (execSlti k d a i s) s
  | .sltiu k d a i => outState (execSltiu k d a i s) s
  | .li k d i => outState (execLi k d i s) s
  | .lsi k d i => outState (execLsi k d i s) s
  | .adds1 k d a b => outState (execAdds1 k d a b s) s
  | .adds2 k d a b => outState (execAdds2 k d a b s) s
  | .adds3 k d a b => outState (execAdds3 k d a b s) s
  | .adds4 k d a b => outState (execAdds4 k d a b s) s
  | .bfx k d a b => outState (execBfx k d a b s) s
  | .bfi k d a b => outState (execBfi k d a b s) s
  | .ptox k d p => outState (execPtox k d p s) s
  | .xtop k p a => outState (execXtop k p a s) s
  | .sel k d a b p => outState (execSel k d a b p s) s
  | .cmp k p a b c m => outState (execCmp k p a b c m s) s
  | .cmpi k p a i c m => outState (execCmpi k p a i c m s) s
  | .pand k p q r => outState (execPand k p q r s) s
  | .por k p q r => outState (execPor k p q r s) s
  | .pxor k p q r => outState (execPxor k p q r s) s
  | .pandn k p q r => outState (execPandn k p q r s) s
  | .pnot k p q r => outState (execPnot k p q r s) s
  | .pmov k p q r => outState (execPmov k p q r s) s
  | .pset k p q r => outState (execPset k p q r s) s
  | .pclr k p q r => outState (execPclr k p q r s) s
  | .bpt k n o => outState (execBpt k n o s) s
  | .bpr k n a => outState (execBpr k n a s) s
  | .jtab k a b => outState (execJtab k a b s) s
  | .btox k d n => outState (execBtox k d n s) s
  | .jd k n p g e l => outState (execJd k n p g e l s) s
  | .lps k a src => outState (execLps k a src s) s
  | .lbr k n => outState (execLbr k n s) s
  | .lcr k d => outState (execLcr k d s) s
  | .lcw k a => outState (execLcw k a s) s
  | .vany k p v => outState (execVany k p v s) s
  | .vall k p v => outState (execVall k p v s) s
  | .vnone k p v => outState (execVnone k p v s) s
  | .ld k d a src h z => outState (execLd k d a src h z s) s
  | .ldp k d a src h z => outState (execLdp k d a src h z s) s
  | .st k c a h z => outState (execSt k c a h z s) s
  | .stp k c a h z => outState (execStp k c a h z s) s
  | .ldacq k d a c => outState (execLdacq k d a c s) s
  | .strel k c a b => outState (execStrel k c a b s) s
  | .ldfe k d a => outState (execLdfe k d a s) s
  | .stfe k a b => outState (execStfe k a b s) s
  | .ldf k d a => outState (execLdf k d a s) s
  | .stf k a b => outState (execStf k a b s) s
  | .fepr k p a => outState (execFepr k p a s) s
  | .feset k a b => outState (execFeset k a b s) s
  | .fence k m c => outState (execFence k m c s) s
  | .rpub k a => outState (execRpub k a s) s
  | .rview k d a => outState (execRview k d a s) s
  | .cwbr k a b => outState (execCwbr k a b s) s
  | .cinvr k a b => outState (execCinvr k a b s) s
  | .cpin k n a b => outState (execCpin k n a b s) s
  | .cunpin k n => outState (execCunpin k n s) s
  | .pref k a => outState (execPref k a s) s
  | .aadd k d a b => outState (execAadd k d a b s) s
  | .amax k d a b => outState (execAmax k d a b s) s
  | .amin k d a b => outState (execAmin k d a b s) s
  | .aand k d a b => outState (execAand k d a b s) s
  | .aor k d a b => outState (execAor k d a b s) s
  | .axor k d a b => outState (execAxor k d a b s) s
  | .aswp k d a b => outState (execAswp k d a b s) s
  | .afadd k d a b => outState (execAfadd k d a b s) s
  | .acas k d a b => outState (execAcas k d a b s) s
  | .acasW k d a b => outState (execAcasW k d a b s) s
  | .vadd k d a b => outState (execVadd k d a b s) s
  | .vsub k d a b => outState (execVsub k d a b s) s
  | .vmul k d a b => outState (execVmul k d a b s) s
  | .vfma k d a b => outState (execVfma k d a b s) s
  | .vmax k d a b => outState (execVmax k d a b s) s
  | .vmin k d a b => outState (execVmin k d a b s) s
  | .vfms k d a b => outState (execVfms k d a b s) s
  | .vabd k d a b => outState (execVabd k d a b s) s
  | .viadd k d a b => outState (execViadd k d a b s) s
  | .visub k d a b => outState (execVisub k d a b s) s
  | .vimul k d a b => outState (execVimul k d a b s) s
  | .vand k d a b => outState (execVand k d a b s) s
  | .vor k d a b => outState (execVor k d a b s) s
  | .vxor k d a b => outState (execVxor k d a b s) s
  | .vshl k d a b => outState (execVshl k d a b s) s
  | .vshr k d a b => outState (execVshr k d a b s) s
  | .vneg k d a => outState (execVneg k d a s) s
  | .vabs k d a => outState (execVabs k d a s) s
  | .vrcp k d a => outState (execVrcp k d a s) s
  | .vrsq k d a => outState (execVrsq k d a s) s
  | .vex2 k d a => outState (execVex2 k d a s) s
  | .vlg2 k d a => outState (execVlg2 k d a s) s
  | .vflr k d a => outState (execVflr k d a s) s
  | .vmov k d a => outState (execVmov k d a s) s
  | .vcvt k d a t src u => outState (execVcvt k d a t src u s) s
  | .vcmp k p a b c => outState (execVcmp k p a b c s) s
  | .vsel k d a b => outState (execVsel k d a b s) s
  | .vprm k d a b => outState (execVprm k d a b s) s
  | .vbc k d a => outState (execVbc k d a s) s
  | .vext k d a b => outState (execVext k d a b s) s
  | .vins k d a b => outState (execVins k d a b s) s
  | .vrot k d a b => outState (execVrot k d a b s) s
  | .vzip k d a b => outState (execVzip k d a b s) s
  | .vuzp k d a b => outState (execVuzp k d a b s) s
  | .vradd k d a => outState (execVradd k d a s) s
  | .vrmax k d a => outState (execVrmax k d a s) s
  | .vrmin k d a => outState (execVrmin k d a s) s
  | .vdot k d a b => outState (execVdot k d a b s) s
  | .vramx k d a => outState (execVramx k d a s) s
  | .vqnt k d a h => outState (execVqnt k d a h s) s
  | .vdq k d a h => outState (execVdq k d a h s) s
  | .vhist k a h => outState (execVhist k a h s) s
  | .vscx k d a h => outState (execVscx k d a h s) s
  | .mdbind k a h => outState (execMdbind k a h s) s
  | .mdclose k h => outState (execMdclose k h s) s
  | .mdread k d a h => outState (execMdread k d a h s) s
  | .mdset k a h => outState (execMdset k a h s) s
  | .mdpm k d a h => outState (execMdpm k d a h s) s
  | .mdwait k a h => outState (execMdwait k a h s) s
  | .stld k src a => outState (execStld k src a s) s
  | .stwr k src a f => outState (execStwr k src a f s) s
  | .strd k d src f => outState (execStrd k d src f s) s
  | .gset k g a => outState (execGset k g a s) s
  | .gclr k g => outState (execGclr k g s) s
  | .phase k => outState (execPhase k s) s
  | .phwt k d a => outState (execPhwt k d a s) s
  | .dmjoin k a => outState (execDmjoin k a s) s
  | .dmleave k => outState (execDmleave k s) s
  | .bbpost k a b => outState (execBbpost k a b s) s
  | .bbwt k d a b => outState (execBbwt k d a b s) s
  | .waitc k a b => outState (execWaitc k a b s) s
  | .req k a b => outState (execReq k a b s) s
  | .tspawn k d a => outState (execTspawn k d a s) s
  | .tend k a => outState (execTend k a s) s
  | .pwreq k d a => outState (execPwreq k d a s) s
  | .pwrel k => outState (execPwrel k s) s
  | .accr k d c => outState (execAccr k d c s) s
  | .esnr k d => outState (execEsnr k d s) s
  | .csrr k d c => outState (execCsrr k d c s) s
  | .csrw k a c => outState (execCsrw k a c s) s
  | .csrs k c a => outState (execCsrs k c a s) s
  | .csrc k c a => outState (execCsrc k c a s) s
  | .eret k => outState (execEret k s) s
  | .tlbi k a b => outState (execTlbi k a b s) s
  | .fencei k => outState (execFencei k s) s
  | .wfe k => outState (execWfe k s) s
  | .halt k => outState (execHalt k s) s
  | .trap k i => outState (execTrap k i s) s
  | .stamp tk slot fsel val => outState (execStamp tk slot fsel val s) s
  | .guardDiscard _ | .powerGrant _ | .unitReturn _ | .commandCompletion _ | .rd _ _ | .wr _ _ | .atMsg _ _ | .inv _ _
  | .dataMsg _ _ | .ack _ _ | .conflict _ _ | .retry _ _ | .linkDown _ | .boundaryComplete _ | .regionPush _
  | .ringPoll _ | .heldFireRetry _ | .taskReady _ | .taskDispatch _ | .preempt _ | .downwardStep _ | .upwardStep _
  | .thermalBudgetLower _ | .thermalStep _ | .thermalTrip _ | .scrub _ | .dumpRecord _ | .dumpMarker _ _
  | .hbmTraining _ | .rowTesting _ | .plateBinding _ | .correctedErrorEvent _ _ | .msixVectorFire _ | .remap _
  | .atomicReply | .loadResultLand | .bundleIssue | .join | .mwl | .mma | .mdr | .maz | .mas | .mar | .xtr | .xfw
  | .uaw | .usm | .uax | .uns | .cpy | .cpyPm | .cpyCv | .cpg | .cps | .cpm | .cpl | .cpz | .histogramUpdate
  | .iterationClose | .recordStore | .boundaryRelease | .phwtTimeout | .bbwtDone | .bbwtTimeout | .qfullTimeout
  | .tspawnTimeout | .pwreqTimeout | .staleTimeout | .allreduce | .reducescatter | .allgather | .broadcast | .agree
  | .barrier | .collectiveComplete | .fireCopy | .fireSum | .fireMax | .continuationEnqueue | .traceSample | .enqueue
  | .functionLevelReset | .powerOnReset | .cycleCharge | .write _ _ | .reduce _ _ | .readRequest _ _ | .readReply _ _
  | .control _ _ | .flipMarker _ _ | .link _ _ | .stop _ _ | .go _ _ | .replay _ _ | .info _ | .attest _ _
  | .fwLoad _ _ | .fwCommit _ | .queueSet _ _ _ _ _ _ _ _ | .domainCreate _ _ _ _ _ _ _ | .regionSet _ _ _
  | .policySet _ _ _ | .carve _ _ _ | .retnGrant _ _ _ _ _ | .fatSet _ _ _ _ _ | .fatArm _ _ _ _ | .devidSet _ _
  | .opSet _ _ _ | .budget _ _ _ | .rowmapRead _ _ _ _ | .eventRead _ _ _ _ | .kill _ _ | .thaw _ _ | .thawMode1 _ _
  | .acctRead _ _ _ _ | .imageMove _ _ _ _ | .dbgSet _ _ _ | .dbgResume _ _ _ _ | .dbgTrace _ _ _ _ _ _
  | .dbgInject _ _ _ | .dump _ _ _ _ | .dumpRead _ _ _ _ | .hqTailWrite _ _ | .controlPageWrite _ _ | .softError _ => s

end Sys2Proof.Machine
end

