-- ==== Sys2Proof/Machine/Bundle.lean ====
section
/-! DEFINITION. Lock-step: the issue of a bundle (R53, R54, R66, R67, R129, R194, R341, R387); apart strands; the join
(R55); and the ends of the waits of words that have issued (R194, R196, R197, R201, R203, R204, R207, R209, R291). -/

namespace Sys2Proof.Machine

/-! ### The words of a bundle -/

/-- A slot of a bundle: its strand, its bits, and what they decode to. -/
structure SlotWord where
  strand : Strand
  bits   : BitVec 32
  instr  : Option Instr
  deriving DecidableEq, Repr

/-- Words of strand S that act on memory words, which act before strand L's (R125, R127, R128, R129). -/
def isMemWord : Instr → Bool
  | .st _ _ _ _ _ => true
  | .stp _ _ _ _ _ => true
  | .strel _ _ _ _ => true
  | .stfe _ _ _ => true
  | .stf _ _ _ => true
  | .fepr _ _ _ => true
  | .feset _ _ _ => true
  | _ => false

/-- The order in which the slots of a bundle act: S before L when S holds a memory word (R129). -/
def slotOrder (s3 : Option Instr) : List Strand :=
  match s3 with
  | some i => if isMemWord i then [.c, .s, .l, .x] else [.c, .l, .x, .s]
  | none => [.c, .l, .x, .s]

/-- Fetch the four words of the bundle (R53). -/
def State.fetchBundle (s : State) : List Strand → List SlotWord → Except (Option (Cause × Word)) (State × List SlotWord)
  | [], ws => .ok (s, ws)
  | k :: ks, ws =>
    match s.fetchWord (s.addrOf k) with
    | .wait => .error none
    | .fault c a => .error (some (c, a))
    | .word t w => t.fetchBundle ks (ws ++ [{ strand := k, bits := w, instr := wordOf w }])

/-- The word of a strand. -/
def slotOf (ws : List SlotWord) (k : Strand) : SlotWord := (ws.find? (fun w => w.strand == k)).getD { strand := k, bits := 0, instr := none }

/-! ### Performing the slots -/

/-- How a slot's word ended. -/
abbrev SlotEnd := Strand × Event

/-- Perform one slot: a word that decodes to nothing is ILLEGAL (R82, R92); one that is over stands still. -/
def State.runSlot (s : State) (w : SlotWord) : State :=
  let s := s.mctx (fun c => { c with cur := w.strand })
  match w.instr with
  | some i => runWord i { s with event := .none }
  | none => { s with event := .trapped w.strand .illegal s.anyAddr w.bits false }

/-- Perform slots in order, each in the state the ones before it left. -/
def State.runSlots (s : State) (ws : List SlotWord) : List Strand → List SlotEnd → State × List SlotEnd
  | [], es => (s, es)
  | k :: ks, es =>
    if (s.strand k).past then s.runSlots ws ks es
    else
      let t := (s.runSlot (slotOf ws k)).bump
      t.runSlots ws ks (es ++ [(k, t.event)])

/-- The lowest slot whose word has a before-effect fault, or an after-effect fault. -/
def faultOf (es : List SlotEnd) (late : Bool) : Option (Strand × Cause × Word × BitVec 32) :=
  [Strand.c, .l, .x, .s].findSome? (fun k => es.findSome? (fun e => match e.2 with
    | .trapped j c a w b => if j = k ∧ b = late then some (k, c, a, w) else none
    | _ => none))

/-- The slots that cannot issue, with the cause of each. -/
def stallsOf (es : List SlotEnd) : List (Strand × Slot) :=
  es.filterMap (fun e => match e.2 with | .stalled k c => some (k, c) | _ => none)

/-- The slots whose word waits, with the cause of each; whether the other words must wait with one. -/
def waitsOf (es : List SlotEnd) : List (Strand × Slot) :=
  es.filterMap (fun e => match e.2 with | .waiting k c _ => some (k, c) | _ => none)

def holdsOthers (es : List SlotEnd) : Bool :=
  es.any (fun e => match e.2 with
    | .waiting _ _ h => h
    | .jumped _ _ _ => true
    | .left _ _ => true
    | .trapped _ _ _ _ _ => true
    | _ => false)

/-- The transfer the bundle's C word makes. -/
def jumpOf (es : List SlotEnd) : Option (Word × Nat) :=
  es.findSome? (fun e => match e.2 with | .jumped _ t n => some (t, n) | _ => none)

/-- What a word that leaves the stream does. -/
def leaveOf (es : List SlotEnd) : Option Leave :=
  es.findSome? (fun e => match e.2 with | .left _ l => some l | _ => none)

/-- SY = 0 in slot 0 splits the strands after the bundle (R54). -/
def splits (ws : List SlotWord) : Bool := !((slotOf ws .c).bits.getLsbD 21)

/-! ### What the slots are charged (R340, R341) -/

/-- The first of some causes in the order of R341. -/
def firstCause (cs : List Slot) : Option Slot :=
  cs.foldl (fun b c => match b with
    | none => some c
    | some d => if c.rank < d.rank then some c else some d) none

/-- Charge every slot of the bundle one cause. Log entry 45 (DESIGN CHOICE). -/
def State.chargeAll (s : State) (c : Slot) : State := [Strand.c, .l, .x, .s].foldl (fun t k => t.slotFor k c) s

/-- A slot that could issue but is held takes the first cause of the slots that hold the bundle (R341). -/
def State.chargeHeld (s : State) (holding : List (Strand × Slot)) : State :=
  match firstCause (holding.map (fun h => h.2)) with
  | none => s
  | some c => [Strand.c, .l, .x, .s].foldl (fun t k =>
      match holding.find? (fun h => h.1 == k) with
      | some h => t.slotFor k h.2
      | none => t.slotFor k c) s

/-! ### BUNDLE_ISSUE -/

/-- A REQ that has issued and waits gives back its issue step when the bundle faults (R93, R387). -/
def State.unissueReq (s : State) (i : Option Instr) : State :=
  match i with
  | some (.req k _ _) => if (s.strand .c).mark then (s.mctx (fun c => { c with cur := .c })).unissue k else s
  | _ => s

/-- A before-effect fault of slot k: the bundle is without effect and its four slots are charged TRAP (R93, R387). -/
def State.bundleFault (s : State) (ws : List SlotWord) (k : Strand) (c : Cause) (a : Word) (w : BitVec 32) : State :=
  let s := (s.unissueReq (slotOf ws .c).instr).chargeAll .trap
  s.enterTrap (excOf k c a (s.addrOf k) w)

/-- Some slot cannot issue: the whole bundle stays (R53). -/
def State.bundleStall (s : State) (stalls : List (Strand × Slot)) : State :=
  (stalls.foldl (fun (t : State) (e : Strand × Slot) =>
    (t.mctx (fun c => { c with cur := e.1 })).hold e.2 (e.2 == .stale)) s).chargeHeld stalls

/-- An after-effect fault of slot k is delivered: past the bundle, whose strand k then stands at its next word, or at the bundle,
with the pending transfer `was` it began with (R110, R214, R387); a bundle that its C word halts is halted in the handler (R220).
Log entry 57 (DESIGN CHOICE). -/
def State.bundleTrap (s : State) (ws : List SlotWord) (es : List SlotEnd) (was : Option (Word × Nat)) (k : Strand) (c : Cause)
    (a : Word) (w : BitVec 32) : State :=
  let past := s.advanceBundle (jumpOf es) (splits ws)
  let s := if c.namesNext then past.enterTrap (excOf k c a (past.strand k).pc w)
    else (s.mstrand .c (fun t => { t with xfer := was })).enterTrapPast (excOf k c a (s.addrOf k) w) (past.strand .c).xfer
  match leaveOf es with
  | some (.halt d) => if s.ctx.life = .resident then s.haltCtx d else s
  | _ => s

/-- The context is over with this bundle. -/
def endsHere (es : List SlotEnd) : Bool :=
  match leaveOf es with
  | some (.tend _) => true
  | some (.waitc _ _ _ _) => true
  | _ => false

/-- Every word has issued: the bundle is over, unless one waits (R53, R54, R110, R194, R387). -/
def State.bundleEnd (s : State) (ws : List SlotWord) (es : List SlotEnd) (was : Option (Word × Nat)) : State :=
  let split := splits ws
  match (if endsHere es then none else faultOf es true) with
  | some (k, c, a, w) => s.bundleTrap ws es was k c a w
  | none =>
    let s := s.advanceBundle (jumpOf es) split
    match leaveOf es with
    | some l => s.finishLeave l
    | none => s

/-- The slots were charged ISSUE in the cycle a wait ends only where no other slot held them (R341). -/
def State.chargeEnd (s : State) (es : List SlotEnd) : State :=
  let causes := es.map (fun e => (e.1, s.ctx.slots.get e.1.num))
  s.chargeHeld (causes.filter (fun e => !(e.2 == .issue)))

/-! ### Issue groups (R66, R67, R242, R269) -/

/-- Registers a word reads; a stamp reads those its captured stencil names (R66, R70). -/
def State.readsOf (s : State) (i : Instr) : List RegRef :=
  match i with
  | .stamp _ slot fsel val => (stencilRegs (stampOf (s.slot slot.toNat) fsel val)).map RegRef.x
  | i => i.reads

/-- The address register of a word of L or S that reaches the scratchpad or the L1 (R121, R125, R128). -/
def addressReg : Instr → Option Reg
  | .ld _ _ a _ _ _ => some a
  | .ldp _ _ a _ _ _ => some a
  | .st _ _ a _ _ => some a
  | .stp _ _ a _ _ => some a
  | .ldfe _ _ a => some a
  | .stfe _ a _ => some a
  | .ldf _ _ a => some a
  | .stf _ a _ => some a
  | .fepr _ _ a => some a
  | .feset _ a _ => some a
  | _ => none

/-- The bank of the unified array at byte y of granule g (R242). -/
def arrayBank (g y : Nat) : Nat := 8 * (g % 4) + y / 256 % 8

/-- The bank that a word of strand k reaches: a window byte's, or its L1 line's (R242, R244). -/
def State.memBank (s : State) (k : Strand) (i : Instr) : Option Nat :=
  (addressReg i).map (fun a =>
    let va := ((s.mctx (fun c => { c with cur := k })).x a).toNat
    if inWindow va then arrayBank (s.ctx.base + (va - winBase) / 65536) (va - winBase)
    else match s.xlate s.ctx.space.asid s.ctx.space.root va with
      | .ok (_, x) => arrayBank (l1Place s.plate.s (x.pa / 128)).1 (x.pa / 128 % 32 * 128)
      | .error _ => arrayBank 31 0)

/-- Some engine of the plate in focus is busy. -/
def State.engineBusy (s : State) : Bool :=
  s.plate.running.toList.any (fun q => q.any (fun r => r.begun && r.input == 0 && decide (0 < r.left)))

/-- Cycles that the L and S words of a group wait for banks of the unified array: S behind L on one bank; behind the engines,
whose accesses the manual gives no schedule of, an open number (R242). Log entry 17 (DESIGN CHOICE). -/
def State.arrayTime (s : State) (g : List (Strand × Instr)) : Nat :=
  let bank (k : Strand) : Option Nat := (g.find? (fun e => e.1 == k)).bind (fun e => s.memBank k e.2)
  let own := match bank .l, bank .s with
    | some a, some b => if a = b then 1 else 0
    | _, _ => 0
  own + (if s.engineBusy && ((bank .l).isSome || (bank .s).isSome) then (Config.freeWord s.fresh 1021).toNat % 65536 else 0)

/-- Cycles that a group waits for the write queues: each bank's queue holds four results and lands one a cycle (R66).
Log entry 17 (DESIGN CHOICE). -/
def State.queueTime (s : State) (writes : List RegRef) : Nat :=
  let banks := writes.filterMap s.bankOf
  banks.foldl (fun m b => max m (SMap.get 0 s.plate.wq b + banks.countP (fun x => x == b) - 5)) 0

/-- The context in focus issues nothing for n cycles, this one included. -/
def State.holdAll (s : State) (n : Nat) (c : Slot) (ported : Bool) : State :=
  s.mctx (fun t => { t with hold := n, holdFor := c, ported := ported })

/-- The banks a group names wake; an off bank's lines come back from their backing areas (R67). -/
def State.wakeRegs (s : State) (refs : List RegRef) : State :=
  let off := (refs.filterMap s.lineOf).filter (fun l => s.ctx.csr.bankMode (l % 16) == 2)
  (off.foldl State.fetchReg s).wakeBanks refs

/-- What makes an issue group wait before it issues, with its charge: banks that wake, lines that the register cache lacks, then
the ports, write queues and array banks together (R66, R67, R242, R269, R341). Log entry 17 (DESIGN CHOICE).
Log entry 59 (DESIGN CHOICE). -/
def State.groupWait (s : State) (g : List (Strand × Instr)) : Option (Slot × State) :=
  let reads := g.flatMap (fun e => s.readsOf e.2)
  let writes := g.flatMap (fun e => e.2.writes)
  let refs := reads ++ writes
  let n := s.wakeTime refs
  if s.ctx.ported then none
  else if n ≠ 0 then some (.wake, (s.wakeRegs refs).holdAll n .wake false)
  else
    let missing := s.regMisses refs
    if missing.isEmpty = false then
      some (.dmem, (missing.foldl State.fetchReg s).holdAll (1 + (Config.freeWord s.fresh 1022).toNat % 65536) .dmem false)
    else
      let m := max (s.portTime reads) (s.queueTime writes)
      let b := s.arrayTime g
      if m ≠ 0 then some (.bankport, s.holdAll (max m b) .bankport true)
      else if b ≠ 0 then some (.dmem, s.holdAll b .dmem true)
      else none

/-- A group issues: its lines are used and its results enter the write queues (R60, R66). -/
def State.groupIssue (s : State) (g : List (Strand × Instr)) : State :=
  let writes := g.flatMap (fun e => e.2.writes)
  (s.useRegs (g.flatMap (fun e => s.readsOf e.2)) writes).mplate (fun p => { p with
    wq := (writes.filterMap s.bankOf).foldl (fun m b => SMap.set 0 m b (SMap.get 0 m b + 1)) p.wq })

/-- The words of a bundle with their strands. -/
def groupOf (ws : List SlotWord) : List (Strand × Instr) := ws.filterMap (fun w => w.instr.map (fun i => (w.strand, i)))

/-- Issue the bundle of the context in focus from the words fetched. Log entry 51 (DESIGN CHOICE). -/
def State.issueBundle (s : State) (ws : List SlotWord) : State :=
  let order := slotOrder (slotOf ws .s).instr
  let fresh := !(order.any (fun k => (s.strand k).mark || (s.strand k).past))
  let s := { s with window := s.ctx.p }
  let r := ({ s with bundle := true }).runSlots ws order []
  let es := r.2
  let close (t : State) : State := { t with bundle := false, event := .none, window := [] }
  let issued (t : State) : State := if fresh then t.groupIssue (groupOf ws) else t
  match faultOf es false with
  | some (k, c, a, w) => close (s.bundleFault ws k c a w)
  | none =>
    if (stallsOf es).isEmpty = false then close (s.bundleStall (stallsOf es))
    else match (if fresh then s.groupWait (groupOf ws) else none) with
      | some (c, t) => close (t.chargeAll c)
      | none =>
        if (waitsOf es).isEmpty then close (((issued r.1).chargeEnd es).bundleEnd ws es (s.strand .c).xfer)
        else
          let waiting := (waitsOf es).map (fun e => e.1)
          let t := if holdsOthers es then (({ issued s with bundle := true }).runSlots ws (order.filter (fun k => waiting.contains k)) []).1
            else es.foldl (fun (t : State) (e : SlotEnd) =>
              if waiting.contains e.1 then t else t.mstrand e.1 (fun u => { u with past := true, mark := false })) (issued r.1)
          close (t.chargeHeld (waitsOf es))

/-- Fetch and issue the bundle at the context's pc: MISALIGN of the pc, judged before PAGE and PROT, and faults of the fetch are
slot 0's (R92). Log entry 66 (DESIGN CHOICE). -/
def State.bundleStep (s : State) : State :=
  let s := s.bump
  let pc := (s.strand .c).pc
  if pc.toNat % 16 ≠ 0 then (s.chargeAll .trap).enterTrap (excOf .c .misalign pc pc 0)
  else match s.fetchBundle [.c, .l, .x, .s] [] with
    | .error none => s.chargeAll .ifetch
    | .error (some (c, a)) => (s.chargeAll .trap).enterTrap (excOf .c c a pc 0)
    | .ok (s, ws) => s.issueBundle ws

/-- A context in lock-step may issue its bundle. -/
def State.inLockstep (s : State) : Bool := s.ctx.lockstep && s.ctx.life == .resident && !(s.ctx.id == 0)

/-- BUNDLE_ISSUE (R53). -/
def execBundleIssue (s : State) : Out := .next (if s.inLockstep then s.bundleStep else s)

/-! ### Apart strands (R55) -/

/-- Fetch the word at the pc of strand k, for its issue: the instruction and the state the fetch leaves, or the state in
which the fetch or the decoding has failed (R92). Log entry 66 (DESIGN CHOICE). -/
def State.apartWord (s : State) (k : Strand) : Except State (State × Instr) :=
  let s := (s.mctx (fun c => { c with cur := k })).bump
  let pc := (s.strand k).pc
  let trap (t : State) (c : Cause) (a : Word) (w : BitVec 32) : State :=
    (t.note k .trap (.trapped k c a w false)).enterTrap (excOf k c a pc w)
  if pc.toNat % 4 ≠ 0 then .error (trap s .misalign pc 0)
  else match s.fetchWord pc with
    | .wait => .error (s.slotFor k .ifetch)
    | .fault c a => .error (trap s c a 0)
    | .word t w =>
      match wordOf w with
      | none => .error (trap t .illegal t.anyAddr w)
      | some i => .ok (t, i)

/-- Issue strand k of a context in apart mode. -/
def State.apartStep (s : State) (k : Strand) : State :=
  match s.apartWord k with
  | .error t => t
  | .ok (t, i) => runWord i t

/-- How strand k's word would end, were its turn now. -/
def State.trial (s : State) (k : Strand) : Event := (({ s with event := .none }).apartStep k).event

/-- The word of strand k raises a precise fault or leaves the stream. -/
def Event.parts : Event → Bool
  | .trapped _ _ _ _ _ => true
  | .left _ _ => true
  | _ => false

/-- A precise fault that freezes the context is delivered before any other (R349). -/
def State.freezes (s : State) (e : Event) : Bool :=
  match e with
  | .trapped _ c _ _ _ => c == .prot || s.ctx.csr.act
  | _ => false

/-- The words that were put off because they trap or leave act last in their cycle: those that end the context, or raise no fault,
take their effect; of those that fault the one that R349 chooses is delivered, unless an engine fault that freezes is, and the
others are dropped, charged TRAP (R93, R208, R349, R387). -/
def State.runLate (s : State) (engineFirst : Bool) : State :=
  let ends := s.late.map (fun k => (k, s.trial k))
  match ends.find? (fun e => match e.2 with | .left _ (.tend _) => true | .left _ (.waitc _ _ _ _) => true | _ => false) with
  | some e => s.apartStep e.1
  | none =>
    let faults := ends.filter (fun e => match e.2 with | .trapped _ _ _ _ _ => true | _ => false)
    let s := (ends.filter (fun e => !(faults.contains e))).foldl (fun t e => t.apartStep e.1) s
    match (if engineFirst then none else (faults.filter (fun e => s.freezes e.2) ++ faults).head?) with
    | some e => s.apartStep e.1
    | none => s

/-- All four strands of a context in apart mode have executed a join word (R55). -/
def State.joinDue (s : State) : Bool :=
  !s.ctx.lockstep && s.ctx.life == .resident && s.ctx.strands.toList.all (fun (t : StrandSt) => t.joined)

/-- JOIN: pending results land, and lock-step resumes at C's b0 (R55). -/
def execJoin (s : State) : Out :=
  .next (if s.joinDue = false then s
    else
      let pc := (s.strand .c).b.q0
      s.landAll.mctx (fun c => { c with
        lockstep := true, ported := false,
        strands := c.strands.map (fun (t : StrandSt) =>
          { t with pc := pc, xfer := none, joined := false, mark := false, since := none, past := false }) }))

/-- The words that the strands of a context in apart mode issue together in this cycle (R66). -/
def State.issuers (s : State) : List (Strand × Instr) :=
  [Strand.c, .l, .x, .s].filterMap (fun k =>
    if (s.strand k).joined ∨ (s.strand k).mark = true ∨ s.ctx.ending = true then none
    else match s.apartWord k with
      | .error _ => none
      | .ok (_, i) => match s.trial k with
        | .issued _ => some (k, i)
        | .jumped _ _ _ => some (k, i)
        | .waiting _ _ _ => some (k, i)
        | .left _ _ => some (k, i)
        | _ => none)

/-- The issue group of an apart cycle: it waits as a whole, or it may issue (R66, R67). -/
def State.groupTurn (s : State) : State :=
  if s.ctx.ported then { s.mctx (fun c => { c with ported := false }) with grouped := true }
  else match s.groupWait s.issuers with
    | some (_, t) => t
    | none => { s.groupIssue s.issuers with grouped := true }

/-- The bundle at the context's pc raises a precise fault (R387). -/
def State.bundleTraps (s : State) : Bool :=
  if (s.strand .c).pc.toNat % 16 ≠ 0 then true
  else match s.fetchBundle [.c, .l, .x, .s] [] with
    | .error none => false
    | .error (some _) => true
    | .ok (t, ws) =>
      let es := (({ t with bundle := true, window := t.ctx.p }).runSlots ws (slotOrder (slotOf ws .s).instr) []).2
      (faultOf es false).isSome || (faultOf es true).isSome

/-! ### The ends of waits (R194) -/

/-- The word of strand k goes on: its bundle's, or its own. -/
def State.resumeWait (s : State) (k : Strand) : State := if s.ctx.lockstep then s.bundleStep else s.apartStep k

/-- The word of strand C has issued and waits. -/
def State.waitingC (s : State) : Option Instr :=
  if (s.strand .c).mark ∧ s.ctx.life = .resident then (s.mctx (fun c => { c with cur := .c })).wordAt .c else none

/-- Strand C waits in PHASE, PHWT or DMJOIN and its boundary has reached the die (R196, R197). -/
def State.boundaryReady (s : State) : Bool :=
  match s.waitingC with
  | some (.phase _) => s.ctx.csr.dmrArr && s.boundarySeen
  | some (.phwt _ _ _) => s.ctx.csr.dmrArr && s.boundarySeen
  | some (.dmjoin _ _) => s.ctx.joining.any s.joinSeen
  | _ => false

/-- The join of a context's creation has taken effect (R328). -/
def State.creationJoin (s : State) : Option (BitVec 10) :=
  match s.ctx.joining with
  | some d => if (s.strand .c).mark = false ∧ s.ctx.csr.act = false ∧ s.joinSeen d = true then some d else none
  | none => none

/-- BOUNDARY_RELEASE: the completion releases the waiting word, or the first word of a context created with DV = 1 (R196,
R197, R328). -/
def execBoundaryRelease (s : State) : Out :=
  .next (match s.creationJoin with
    | some d => (s.takeJoin d).acquire 2
    | none => if s.boundaryReady then s.resumeWait .c else s)

/-- The issue cycles that C's waiting word has waited (R196, R201, R204). -/
def State.waitedC (s : State) : Nat := (s.mctx (fun c => { c with cur := .c })).waited

/-- REQTO of the context in focus has passed for C's waiting word (R204). -/
def State.reqtoPassed (s : State) : Bool :=
  let n := bitsOf s.ctx.csr.reqto 31 0
  decide (n ≠ 0) && decide (n ≤ s.waitedC)

/-- A register as strand C reads it. -/
def State.xOfC (s : State) (r : Reg) : Word := (s.mctx (fun c => { c with cur := .c })).x r

/-- PHWT_TIMEOUT (R196). -/
def execPhwtTimeout (s : State) : Out :=
  .next (match s.waitingC with
    | some (.phwt _ _ a) => if (s.xOfC a).toNat ≤ s.waitedC then s.resumeWait .c else s
    | _ => s)

/-- DONE of the byte barrier that C's BBWT waits for (R201). -/
def State.barrierDone (s : State) (a : Reg) : Bool :=
  match (s.mctx (fun c => { c with cur := .c })).resolve (s.xOfC a).toNat 16 .atomic atomicTarget with
  | .ok (t, { tgt := .mem x, .. } :: _) => bitOf (t.memDw (x.pa + 8)) 49
  | _ => false

/-- BBWT_DONE (R201). -/
def execBbwtDone (s : State) : Out :=
  .next (match s.waitingC with
    | some (.bbwt _ _ a _) => if s.barrierDone a then s.resumeWait .c else s
    | _ => s)

/-- BBWT_TIMEOUT (R201). -/
def execBbwtTimeout (s : State) : Out :=
  .next (match s.waitingC with
    | some (.bbwt _ _ a b) => if s.barrierDone a = false ∧ (s.xOfC b).toNat ≤ s.waitedC then s.resumeWait .c else s
    | _ => s)

/-- QFULL_TIMEOUT: a REQ passes REQTO (R203, R204). -/
def execQfullTimeout (s : State) : Out :=
  .next (match s.waitingC with
    | some (.req _ _ _) => if s.reqtoPassed then s.resumeWait .c else s
    | _ => s)

/-- TSPAWN_TIMEOUT (R204, R207). -/
def execTspawnTimeout (s : State) : Out :=
  .next (match s.waitingC with
    | some (.tspawn _ _ _) => if s.reqtoPassed then s.resumeWait .c else s
    | _ => s)

/-- PWREQ_TIMEOUT (R204, R209). -/
def execPwreqTimeout (s : State) : Out :=
  .next (match s.waitingC with
    | some (.pwreq _ _ _) => if s.reqtoPassed then s.resumeWait .c else s
    | _ => s)

/-- A strand waits for a push of a STALL region, and STALETO has passed (R290, R291). -/
def State.staleStrand (s : State) : Option Strand :=
  let n := bitsOf s.ctx.csr.staleto 31 0
  if n = 0 ∨ s.ctx.life ≠ .resident then none
  else [Strand.c, .l, .x, .s].find? (fun k =>
    !(s.strand k).mark && (match (s.strand k).since with | some c0 => decide (n ≤ s.cycle - c0) | none => false))

/-- STALE_TIMEOUT (R291): the waiting read is judged once more; a copy still not pushed raises the fault. -/
def execStaleTimeout (s : State) : Out :=
  .next (match s.staleStrand with
    | some k => s.resumeWait k
    | none => s)

end Sys2Proof.Machine
end

