-- ==== Sys2Proof/Machine/Coherence.lean ====
section
/-! DEFINITION. The home directory's messages between dies (R298 to R300) and the pushes of STALL regions (R290). -/

namespace Sys2Proof.Machine

/-! ### Channels (R300, R371) -/

/-- A message or flit reaches a die: one that has recorded and holds the channel open logs it (R371). -/
def State.logArrival (s : State) (d : Nat) (c : Chan) (m : Logged) : State :=
  match s.dump with
  | none => s
  | some p =>
    if p.recorded.any (fun r => r.1 == d) ∧ p.closed.contains (d, c) = false then
      { s with dump := some { p with logs := p.logs ++ [(d, c, m)] } }
    else s

/-- Take a message that has reached its die off the link (R371). -/
def State.takeMsg (s : State) (src dst : Nat) (m : Msg) : State :=
  let e := lastHop src dst
  (s.logArrival dst (.die (BitVec.ofNat 2 e) (BitVec.ofNat 2 m.chan)) (.msg m)).mlink e dst
    (fun l => l.take { src := src, dst := dst, msg := m })

/-- Drop a message between two dies wherever it stands: on its links or in the home's queue. -/
def State.dropMsg (s : State) (src dst : Nat) (m : Msg) : State :=
  let p : Packet := { src := src, dst := dst, msg := m }
  ((s.mlink (lastHop src dst) dst (fun l => l.take p)).mlink src (hopOf src dst) (fun l => l.take p)).mdie dst
    (fun t => { t with waitq := t.waitq.erase (src, m) })

/-- The die between passes on the first message of a link's channel that is on its way to another die; it does not enter the
die's L2 (R10). -/
def State.forwardOne (s : State) (a b ch : Nat) : State :=
  match (s.linkOf a b).skid.find? (fun p => p.msg.chan == ch) with
  | some p =>
    if p.dst = b then s
    else ((s.logArrival b (.die (BitVec.ofNat 2 a) (BitVec.ofNat 2 ch)) (.msg p.msg)).mlink a b (fun l => l.take p)).mlink b p.dst
      (fun l => l.push p)
  | none => s

/-- Every die passes on what it stands between, one message of each channel of each edge a cycle (R10). -/
def State.forwardAll (s : State) : State :=
  [0, 1, 2, 3].foldl (fun (t : State) (a : Nat) => (neighbours a).foldl (fun (t : State) (b : Nat) =>
    [0, 1, 2].foldl (fun (t : State) (ch : Nat) => t.forwardOne a b ch) t) t) s

/-! ### Transactions of a line (R299) -/

/-- The home still waits for an answer to an INV of a line: the line is busy (R299). -/
def State.lineBusy (s : State) (line : Nat) : Bool :=
  let h := homeDie (line * 128)
  (List.range 4).any (fun d => !(d == h) &&
    ((s.msgs h d).contains (.inv line) || (s.msgs d h).any (fun m => m == .ack line none || m == .conflict line)))

/-- A request for a line waits at the home: for the line, or behind an earlier one (R299). -/
def State.mustWait (s : State) (h line : Nat) : Bool := s.lineBusy line || (s.die h).waitq.any (fun e => e.2.line == line)

/-- The queue of a line's slice is full: it holds 64 (R299). -/
def Die.sliceFull (t : Die) (line : Nat) : Bool :=
  decide (64 ≤ (t.waitq.filter (fun e => sliceOf e.2.line == sliceOf line)).length)

/-- The first request of die a in its home's queues that waits no more: its line is free, and none for it came earlier. -/
def State.queued (s : State) (a h : Nat) : Option Msg :=
  let q := (s.die h).waitq
  (q.find? (fun e => e.1 == a && !(s.lineBusy e.2.line) && q.find? (fun f => f.2.line == e.2.line) == some e)).map (fun e => e.2)

/-- The request of die a that home h looks at next: from a queue, or off the link; the Bool tells the first. -/
def State.request (s : State) (a h : Nat) : Option (Bool × Msg) :=
  match s.queued a h with
  | some m => some (true, m)
  | none => (s.oldest a h 0).map (fun m => (false, m))

/-- The slice of a line is being copied by a step of its home die: an access from another die is held (R273). -/
def State.sliceCopied (s : State) (h line : Nat) : Bool :=
  match (s.die h).step with
  | some r => r.moving && r.wait != 0 && (s.die h).sliceMoves (s.die h).point r.target (sliceOf line)
  | none => false

/-- Serve a request, or let it wait in its slice's queue; a full queue leaves it on the link, and the channel stops (R299, R301). -/
def State.serve (s : State) (a h : Nat) (r : Bool × Msg) (f : State → State) : State :=
  if s.sliceCopied h r.2.line then s
  else if r.1 then f (s.mdie h (fun t => { t with waitq := t.waitq.erase (a, r.2) }))
  else if s.mustWait h r.2.line then
    (if (s.die h).sliceFull r.2.line then s else (s.takeMsg a h r.2).mdie h (fun t => { t with waitq := t.waitq ++ [(a, r.2)] }))
  else f (s.takeMsg a h r.2)

/-- A request of a die is held by a copy of the slice it is for (R273). -/
def State.copyStopped (s : State) (d : Nat) : Bool :=
  ((List.range 4).filter (fun h => !(h == d))).any (fun h => match s.request d h with
    | some r => s.sliceCopied h r.2.line
    | none => false)

/-- A request of a die is held on its link by the full queue of a slice, or by a copy (R273, R299). -/
def State.reqStopped (s : State) (d : Nat) : Bool :=
  s.copyStopped d || ((List.range 4).filter (fun h => !(h == d))).any (fun h => match s.oldest d h 0 with
    | some m => s.mustWait h m.line && (s.die h).sliceFull m.line
    | none => false)

/-- An ACK that a die is owed: at once, or when the INVs of the transaction are answered (R299). -/
def State.owe (s : State) (h a line : Nat) (m : Msg) : State :=
  if s.lineBusy line then
    s.mdie h (fun t =>
      let e := (t.dir.find? (fun e => e.line == line)).getD { line := line, sharers := 0, owed := [] }
      { t with dir := { e with owed := e.owed ++ [(a, m)] } :: t.dir.filter (fun e => !(e.line == line)) })
  else s.send h a m

/-- The last INV of a line is answered: the ACKs owed go out (R299). -/
def State.answered (s : State) (h line : Nat) : State :=
  if s.lineBusy line then s
  else match (s.die h).dir.find? (fun e => e.line == line) with
    | some e =>
      let s := s.mdie h (fun t =>
        let rest := t.dir.filter (fun e => !(e.line == line))
        { t with dir := if e.sharers = 0 then rest else { e with owed := [] } :: rest })
      e.owed.foldl (fun t o => t.send h o.1 o.2) s
    | none => s

/-- RD at its home: the home's own L2 holds every line another die may hold, so it takes the line; its bit is set and DATA goes
back. A line no way of which can be taken is given for this one read (R238, R298). Log entry 58 (DESIGN CHOICE). -/
def State.serveRd (s : State) (h a line hint region : Nat) : State :=
  let s := s.l2Touch h line 0 false region
  if (s.die h).l2.any (fun e => e.line == line) then
    (s.setSharers line (s.sharers line ||| BitVec.ofNat 4 (2 ^ a))).send h a (.data line hint region)
  else s.send h a (.data line 3 region)

/-- WR or AT at its home: performed, unless it has been, and its ACK (R137, R292, R298, R299). -/
def State.serveWr (s : State) (h a : Nat) (m : Msg) : State :=
  let r := s.perform m
  r.1.owe h a m.line (match r.2 with
    | .atom _ _ _ _ _ who (some v) => .ack m.line (some (who, v))
    | _ => .ack m.line none)

/-! ### The rows -/

/-- RD: the home replies DATA and sets the sharer bit, once the line is free (R298, R299). -/
def execRd (src dst : BitVec 2) (s : State) : Out :=
  .next (match s.request src.toNat dst.toNat with
    | some (q, .rd line hint region) =>
      s.serve src.toNat dst.toNat (q, .rd line hint region) (fun t => t.serveRd dst.toNat src.toNat line hint region)
    | _ => s)

/-- WR: the home merges the bytes, recalls every sharer, and replies ACK once they have answered (R292, R298, R299). -/
def execWr (src dst : BitVec 2) (s : State) : Out :=
  .next (match s.request src.toNat dst.toNat with
    | some (q, .wr line data mask poison plate region done) =>
      s.serve src.toNat dst.toNat (q, .wr line data mask poison plate region done) (fun t =>
        t.serveWr dst.toNat src.toNat (.wr line data mask poison plate region done))
    | _ => s)

/-- AT: the home recalls every sharer, the bank ALU acts, and the home replies (R137, R298). -/
def execAtMsg (src dst : BitVec 2) (s : State) : Out :=
  .next (match s.request src.toNat dst.toNat with
    | some (q, .atom addr op operand expected region who old) =>
      s.serve src.toNat dst.toNat (q, .atom addr op operand expected region who old) (fun t =>
        t.serveWr dst.toNat src.toNat (.atom addr op operand expected region who old))
    | _ => s)

/-- INV: the die drops its L2 copy; it answers ACK, or CONFLICT when its own RD is outstanding (R298, R299). -/
def execInv (src dst : BitVec 2) (s : State) : Out :=
  let h := src.toNat
  let d := dst.toNat
  .next (match s.oldest h d 1 with
    | some (.inv line) =>
      let out := s.rdOut d line
      let s := (s.takeMsg h d (.inv line)).mdie d (fun t => { t with l2 := t.l2.filter (fun e => !(e.line == line && !e.swm)) })
      s.send d h (if out then .conflict line else .ack line none)
    | _ => s)

/-- DATA lands at the die that asked: its L2 takes the clean copy, as the reuse hint says (R122, R298). -/
def execDataMsg (src dst : BitVec 2) (s : State) : Out :=
  let d := dst.toNat
  .next (match s.oldest src.toNat d 2 with
    | some (.data line hint region) =>
      let s := s.takeMsg src.toNat d (.data line hint region)
      if hint = 3 ∨ (s.die d).l2.any (fun e => e.line == line) = true then s
      else (s.l2Insert d (s.l2Fresh line hint false region)).getD s
    | _ => s)

/-- The reply of an atomic reaches its die (R137, R298). -/
def State.atomDone (s : State) (who : AtomOf) (v : Nat) : State :=
  match s.ctxOf who.1 with
  | some c => s.putCtx { c with flight := c.flight.map (fun f => if f.wait && f.tag == who.2 then f.reply v else f) }
  | none => s

/-- ACK reaches the home, whose transaction may now be answered, or the die that wrote, where a WR is performed at die and device
scope with it and an AT brings its reply (R298, R299). -/
def execAck (src dst : BitVec 2) (s : State) : Out :=
  .next (match s.oldest src.toNat dst.toNat 2 with
    | some (.ack line old) =>
      let s := s.takeMsg src.toNat dst.toNat (.ack line old)
      match old with
      | some (who, v) => s.atomDone who v
      | none => if homeDie (line * 128) = dst.toNat then s.answered dst.toNat line else s
    | _ => s)

/-- The RD of a line that a die's home has not served: on the link, or in the home's queue. -/
def State.rdWaits (s : State) (d h line : Nat) : Option Msg :=
  (((s.die h).waitq.filter (fun e => e.1 == d)).map (fun e => e.2) ++ s.msgs d h).find? (fun m => match m with
    | .rd l _ _ => l == line
    | _ => false)

/-- CONFLICT: an RD that the home has not served loses: it is dropped, and RETRY has the die send it again; one that it has answered
won, and the home sends INV again once the DATA has landed (R299). -/
def execConflict (src dst : BitVec 2) (s : State) : Out :=
  let d := src.toNat
  let h := dst.toNat
  .next (match s.oldest d h 2 with
    | some (.conflict line) =>
      match s.rdWaits d h line with
      | some (.rd l hint region) =>
        (((s.takeMsg d h (.conflict line)).dropMsg d h (.rd l hint region)).send h d (.retry line hint region)).answered h line
      | _ =>
        if (s.msgs h d).any (fun m => match m with | .data l _ _ => l == line | _ => false) then s
        else (s.takeMsg d h (.conflict line)).send h d (.inv line)
    | _ => s)

/-- RETRY: the die sends the RD again (R299). -/
def execRetry (src dst : BitVec 2) (s : State) : Out :=
  let h := src.toNat
  let d := dst.toNat
  .next (match s.oldest h d 2 with
    | some (.retry line hint region) => (s.takeMsg h d (.retry line hint region)).send d h (.rd line hint region)
    | _ => s)

/-! ### Pushes of STALL regions (R290) -/

/-- A plate's line takes a push: new data under its dirty bytes when the line was written, and the stamp; a mark yields to a
stamp later than the copy's own only (R282, R290). -/
def L1Line.push (l : L1Line) (n : BitVec 16) (lines : List Nat) (data : Line) : L1Line :=
  { l with
    data := if lines.contains l.line then lineMerge data l.data l.dirty else l.data,
    stamp := if l.marked then newer n l.stamp else n, marked := l.marked && !(newer n l.stamp == n && !(n == l.stamp)) }

/-- REGION_PUSH: the oldest push of a region reaches the plates that hold its lines (R290). Log entry 35 (DESIGN CHOICE). -/
def execRegionPush (r : BitVec 8) (s : State) : Out :=
  .next (match s.pushes.find? (fun p => p.1 == r.toNat) with
    | none => s
    | some p =>
      ({ s with pushes := s.pushes.erase p }).mapPlates (fun q => { q with
        l1 := q.l1.map (fun (l : L1Line) => if l.typ == 0 && s.effRegion l.region == p.1 then l.push p.2.1 p.2.2 (s.memLine l.line) else l) }))

end Sys2Proof.Machine
end

