-- ==== Sys2Proof/Machine/Fabric.lean ====
section
/-! DEFINITION. Amibuley links (R301, R302), fabric addresses and their remapping (R303, R304), frozen peers (R360, R362)
and the completion of boundaries at the barrier tree's root (R305). -/

namespace Sys2Proof.Machine

/-! ### Targets of a fabric address (R303) -/

/-- COH or carved memory at the target. -/
def plainPlace (pa : Nat) : Bool :=
  match placeOf pa with
  | .hbm _ => true
  | .cxl _ => true
  | .carved _ _ => true
  | _ => false

/-- The read-only window of the retention registers (R237). -/
def statusPlace (pa : Nat) : Bool := match placeOf pa with | .retn _ _ => true | _ => false

/-- n bytes at an offset of an entry's window under a generation; none when the entry is not valid or they reach beyond. -/
def State.fabricPa (s : State) (fae : Nat) (gen : Bool) (off n : Nat) : Option Nat :=
  let f := s.fatOf fae
  if bitOf (f.map gen) 0 ∧ off + n ≤ f.len gen then some (bitsOf (f.map gen) 47 13 * 4096 + off) else none

/-- A device-scope write by the fabric engine of die d through a page of region r, 0 for none: it carries no plate, takes its place
in arrival order and clears the same-round records; at another die's home it arrives as WR (R290, R292, R298, R303). -/
def State.fabricWrite (s : State) (d r pa : Nat) (bs : List Byte) : State :=
  (linesOf pa bs.length).foldl (fun (t : State) (l : Nat × Nat × Nat × Nat) =>
    t.homeLine d 512 r l.1 (lineSet 0 l.2.1 l.2.2.1 (ofBytes ((bs.drop l.2.2.2).take l.2.2.1))) (maskOf l.2.1 l.2.2.1) 0) s

/-- Some unit of a range is poisoned (R358). -/
def State.anyPoison (s : State) (pa n : Nat) : Bool :=
  (List.range (n / 64 + 2)).any (fun i => decide ((pa / 64 + i) * 64 < pa + n) && s.poisoned ((pa / 64 + i) * 64))

/-- Combine two elements: sums round RNE, max follows pick of R142, INT32 sums wrap (R302, R310). -/
def combine (rop : Bool) (fmt a b : Nat) : Nat :=
  if fmt = 10 then
    (if rop then (if (BitVec.ofNat 32 a).toInt ≤ (BitVec.ofNat 32 b).toInt then b else a) else (a + b) % 2 ^ 32)
  else if rop then pickMax fmt true a b (if fmt = 1 then 0x7FC0 else 0x7FC00000)
  else (roundFmt fmt (Num.add .rne (decodeFmt fmt a).1 (decodeFmt fmt b).1).1 .rne false 0).1

/-- The elements of a byte string, w bytes each. -/
def splitElems (w : Nat) (bs : List Byte) : List Nat :=
  (List.range (bs.length / max w 1)).map (fun i => ofBytes ((bs.drop (i * w)).take w))

/-- Reduce elements into memory at the target's bank ALU, one by one, behind what die d has written there (R302). -/
def State.fabricReduce (s : State) (d pa fmt : Nat) (rop : Bool) (bs : List Byte) : State :=
  let w := fmtWidth fmt / 8
  let els := splitElems w bs
  (List.range els.length).foldl (fun (t : State) (i : Nat) =>
    let a := pa + i * w
    (t.bankStep a w 0 (fun old => combine rop fmt old (els.getD i 0))).1) (s.settle d (spanLine pa bs.length))

/-! ### Flits (R302, R304, R360, R362) -/

/-- The reply to a flit with a status: a failure, or 0 for the acknowledgement of a last flit (R316, R362). It names the window it
answers for. -/
def State.replyTo (s : State) (f : Flit) (code : Nat) : State :=
  let bs := Config.replyBytes code
  s.sendFlit { f with dstdev := f.srcdev, srcdev := s.devId, len := BitVec.ofNat 8 bs.length, kind := 4, vc := 2, payload := bs }

/-- A new-generation flit waits for its sender's marker on its channel; what the old target forwards comes through another port
(R304). Log entry 22 (DESIGN CHOICE). -/
def State.heldFlit (s : State) (p : Nat) (f : Flit) : Bool :=
  let k := f.fae.toNat
  (f.kind == 1 || f.kind == 2 || f.kind == 3) && f.gen == (s.fatOf k).nextGen && s.unmarked k f.srcdev f.vc &&
    (Config.portOf f.srcdev).toNat == p

/-- The peer behind a port is frozen (R360). -/
def Port.freeze (p : Port) (dev : BitVec 12) : Port :=
  { p with frozen := if p.frozen.contains dev then p.frozen else p.frozen ++ [dev] }

/-- A write, reduce or read request reaches its target at a port (R302, R303); bytes beyond what a window holds, or poisoned ones
that it would read, fail (R248, R253, R358). Log entry 64 (DESIGN CHOICE). -/
def State.reachTarget (s : State) (p : Nat) (f : Flit) : State :=
  let n := f.len.toNat
  let bs := f.payload.take n
  let ack (t : State) : State := if f.last then t.replyTo f 0 else t
  match s.fabricPa f.fae.toNat f.gen (f.off.toNat * 16) n with
  | none => s.replyTo f 4
  | some pa =>
    if f.kind = 3 then
      (if (plainPlace pa ∨ statusPlace pa) ∧ (s.beyond pa n).isNone ∧ s.anyPoison pa n = false then
        let s := s.settle (p / 4) (spanLine pa n)
        s.sendFlit { f with dstdev := f.srcdev, srcdev := s.devId, last := true, kind := 4, vc := 2, payload := toBytes n (s.physNat pa n) }
       else s.replyTo f 4)
    else if statusPlace pa then (s.mport p (fun q => q.freeze f.srcdev)).replyTo f 5
    else if plainPlace pa = false ∨ (s.beyond pa n).isSome then s.replyTo f 4
    else if f.kind = 1 then ack (s.fabricWrite (p / 4) 0 pa bs)
    else if s.anyPoison pa n then s.replyTo f 4
    else ack (s.fabricReduce (p / 4) pa f.fmt.toNat f.rop bs)

/-- A device's answer to a fire: a failure is its status unless it has one, and the answer to its last flit ends the wait for that
device (R312, R316). -/
def Fire.answer (f : Fire) (g : Flit) : Fire :=
  let c := Config.replyCode g.payload
  { f with code := if f.code = 0 then c else f.code, await := if g.last then f.await.erase g.srcdev else f.await }

/-- The first fire that has sent to a window and waits for a device takes its answer (R316). -/
def answerFires (g : Flit) : List Fire → List Fire
  | [] => []
  | f :: fs =>
    if f.sent && f.await.contains g.srcdev && bitsOf (f.dws.getD 2 0) 63 52 == g.fae.toNat then f.answer g :: fs
    else f :: answerFires g fs

/-- What a flit does once nothing holds it: one for another device goes on to it, without entering this one's memory (R302). -/
def State.applyFlit (s : State) (p : Nat) (f : Flit) : State :=
  let k := f.fae.toNat
  let e := s.fatOf k
  if f.kind = 0 ∨ f.kind = 7 then s
  else if f.dstdev ≠ s.devId then s.sendFlit f
  else if (s.portOf p).frozen.contains f.srcdev ∧ f.vc ≠ 0 ∧ f.kind ≠ 6 then s.replyTo f 5
  else if f.kind = 4 then { s with fires := answerFires f s.fires }
  else if f.kind = 5 then (match Config.treeMsg f.payload with | some m => s.takeTree m | none => s)
  else if f.kind = 6 then
    (if e.dev f.gen = s.devId then (s.putFat k (e.mark f.srcdev f.vc)).settleFat k
     else s.sendFlit { f with dstdev := e.dev f.gen })
  else if e.dev f.gen = s.devId then s.reachTarget p f
  else if e.dev e.cur = s.devId then s.reachTarget p { f with gen := e.cur }
  else s.sendFlit { f with dstdev := e.dev e.cur, gen := e.cur }

/-- Apply the flits of a channel's skid buffer until one is held; at most n. -/
def State.drainSkid (s : State) (p v : Nat) : Nat → State
  | 0 => s
  | n + 1 =>
    match (s.portOf p).skid.get v with
    | [] => s
    | f :: fs =>
      if s.heldFlit p f then s
      else ((s.mport p (fun q => { q with skid := q.skid.set v fs })).applyFlit p f).drainSkid p v n

/-- STOP at four flits or more, GO at two or fewer (R301). -/
def Port.tell (p : Port) (v : Nat) : Port :=
  let n := (p.skid.get v).length
  let bit := BitVec.ofNat 4 (2 ^ v)
  if 4 ≤ n then { p with told := p.told ||| bit } else if n ≤ 2 then { p with told := p.told &&& ~~~bit } else p

/-- Apply what every skid buffer can now give: a marker has come. -/
def State.drainAll (s : State) : State :=
  (s.ports.map (fun e => e.1)).foldl (fun t p =>
    [0, 1, 2, 3].foldl (fun u v => (u.drainSkid p v ((u.portOf p).skid.get v).length).mport p (fun q => q.tell v)) t) s

/-- A flit arrives at a port: a bad CRC asks for replay from its SEQ, as does one the skid buffer has no place for; one out of
sequence is dropped (R301, R302). Log entry 22 (DESIGN CHOICE). -/
def State.takeFlit (s : State) (p : Nat) (f : Flit) : State :=
  let q := s.portOf p
  let v := f.vc.toNat
  if q.down then s
  else if f.crc ≠ crcOf f then s.mport p (fun q => { q with fails := q.fails + 1, wants := some f.seq })
  else if f.seq ≠ q.rxSeq then s
  else if 8 ≤ (q.skid.get v).length then s.mport p (fun q => { q with wants := some f.seq })
  else
    let s := s.logArrival (p / 4) (.port (BitVec.ofNat 4 p) f.vc) (.flit f)
    let s := s.mport p (fun q => { q with rxSeq := q.rxSeq + 1, fails := 0, wants := none, skid := q.skid.set v (q.skid.get v ++ [f]) })
    let s := (s.drainSkid p v (((s.portOf p).skid.get v).length)).mport p (fun q => q.tell v)
    if f.kind = 6 then s.drainAll else s

/-- WRITE (R302, R303). -/
def execWrite (port : BitVec 4) (f : Flit) (s : State) : Out := .next (s.takeFlit port.toNat { f with kind := 1 })
/-- REDUCE (R302). -/
def execReduce (port : BitVec 4) (f : Flit) (s : State) : Out := .next (s.takeFlit port.toNat { f with kind := 2 })
/-- READ_REQUEST (R302). -/
def execReadRequest (port : BitVec 4) (f : Flit) (s : State) : Out := .next (s.takeFlit port.toNat { f with kind := 3 })
/-- READ_REPLY (R302): an answer to what this device has sent (R316, R362). -/
def execReadReply (port : BitVec 4) (f : Flit) (s : State) : Out := .next (s.takeFlit port.toNat { f with kind := 4 })
/-- CONTROL (R305). Log entry 22 (DESIGN CHOICE). -/
def execControl (port : BitVec 4) (f : Flit) (s : State) : Out := .next (s.takeFlit port.toNat { f with kind := 5 })
/-- FLIP_MARKER (R304). -/
def execFlipMarker (port : BitVec 4) (f : Flit) (s : State) : Out := .next (s.takeFlit port.toNat { f with kind := 6 })
/-- LINK (R302): the port's own flit; it counts in the sequence. -/
def execLink (port : BitVec 4) (f : Flit) (s : State) : Out := .next (s.takeFlit port.toNat { f with kind := 7 })

/-- STOP (R301): the channel's sender stops. -/
def execStop (port : BitVec 4) (vc : BitVec 2) (s : State) : Out :=
  .next (s.mport port.toNat (fun p => { p with stopped := p.stopped ||| BitVec.ofNat 4 (2 ^ vc.toNat) }))

/-- GO (R301): it resumes, and what waited goes out in order. -/
def execGo (port : BitVec 4) (vc : BitVec 2) (s : State) : Out :=
  .next (s.mport port.toNat (fun p =>
    (p.wait.get vc.toNat).foldl Port.give
      { p with stopped := p.stopped &&& ~~~(BitVec.ofNat 4 (2 ^ vc.toNat)), wait := p.wait.set vc.toNat [] }))

/-- REPLAY (R302): the buffer is sent again from a sequence number on. -/
def execReplay (port : BitVec 4) (seq : BitVec 8) (s : State) : Out :=
  .next (s.mport port.toNat (fun p =>
    if p.down then p else { p with out := p.out ++ p.replay.dropWhile (fun f => !(f.seq == seq)) }))

/-- A collective that needs a port: a member of its group stands behind it. -/
def State.usesPort (s : State) (p : Nat) (c : Collective) : Bool :=
  (s.domainDevs c.group).any (fun d => (Config.portOf d).toNat == p)

/-- The devices behind a port that is down answer a fire no more: status 3 (R302, R312). -/
def Fire.lost (f : Fire) (gone : BitVec 12 → Bool) : Fire :=
  if f.sent && f.await.any gone then
    { f with code := if f.code = 0 then 3 else f.code, await := f.await.filter (fun v => !(gone v)) }
  else f

/-- LINK_DOWN (R302): after eight failed replays the port goes down; what is in flight on it is lost, the operations that
need it complete with status 3, and the journal logs it. -/
def execLinkDown (port : BitVec 4) (s : State) : Out :=
  let p := port.toNat
  .next (if (s.portOf p).down ∨ (s.portOf p).fails < 8 then s
    else
      let s := s.mport p (fun q => { q with down := true, skid := Quad.all [], replay := [], out := [], wait := Quad.all [], wants := none })
      let s := { s with colls := s.colls.map (fun (c : Collective) => if s.usesPort p c && !c.past then { c with code := some 3, held := [] } else c),
                         fires := s.fires.map (fun (f : Fire) => f.lost (fun v => (Config.portOf v).toNat == p)) }
      s.journal (p / 4) 9 2 0 (BitVec.ofNat 64 p) 0 [])

/-- BOUNDARY_COMPLETE (R196, R305): the root completes a boundary whose count is met. -/
def execBoundaryComplete (dom : BitVec 10) (s : State) : Out :=
  .next (if s.boundaryDue dom then s.completeBoundary dom else s)

end Sys2Proof.Machine
end

