-- ==== Sys2Proof/Machine/Collective.lean ====
section
/-! DEFINITION. The fabric engine's accesses (R309, R312), ranks (R307), collective work rings (R308 to R312) and scale
agreement (R235). -/

namespace Sys2Proof.Machine

/-! ### The fabric engine's accesses (R309, R312) -/

/-- The device with an owner's address space in focus: its context, resident or not, or a task that has none yet (R308). -/
def State.own (s : State) : Owner → State
  | .ctx id => s.focus id
  | .task d sp => s.enter { Ctx.blank with space := sp, die := d, plate := 128 * d }

/-- Whose accesses these are still exists. -/
def State.present (s : State) : Owner → Bool
  | .ctx id => (s.ctxOf id).isSome
  | .task _ _ => true

/-- The parts of a virtual range within 64 KiB blocks. -/
def blocksOf (va n : Nat) : List (Nat × Nat) :=
  (List.range (n / 65536 + 2)).filterMap (fun i =>
    let lo := max va ((va / 65536 + i) * 65536)
    let hi := min (va + n) ((va / 65536 + i + 1) * 65536)
    if lo < hi then some (lo, hi - lo) else none)

/-- The status that a fault of the fabric engine leaves (R312). -/
def codeOf (c : Cause) : Nat := if c = .prot then 5 else 4

/-- Resolve a range for an owner: its pieces, or a status. -/
def State.fabResolve (s : State) (o : Owner) (va n : Nat) (a : Acc) : Except Nat (State × List Piece) :=
  let admits (t : Target) : Bool := match t with | .mem x => !(x.typ == 3) | .win _ => a == .load
  (blocksOf va n).foldl (fun r b => r.bind (fun p =>
    match p.1.resolve b.1 b.2 a admits with
    | .error (c, _) => .error (codeOf c)
    | .ok (t, ps) => .ok (t, p.2 ++ ps))) (.ok (s.own o, []))

/-- The bytes of a piece at its coherent point: a fabric read is an acquire at device scope (R309). -/
def State.fabPiece (s : State) (p : Piece) : List Byte :=
  match p.tgt with
  | .win off => s.getSpad off p.len
  | .mem x => toBytes p.len (s.physNat x.pa p.len)

/-- What the die in focus has written to the lines of some pieces is performed (R300, R309). -/
def State.settlePieces (s : State) (ps : List Piece) : State :=
  ps.foldl (fun t p => match p.tgt with
    | .mem x => t.settle t.ctx.die (spanLine x.pa p.len)
    | .win _ => t) s

/-- Everything that any die has written is performed at device scope, as a release by the fabric engines has it (R309, R311, R312). -/
def State.settleAll (s : State) : State := [0, 1, 2, 3].foldl (fun (t : State) (d : Nat) => t.settle d (fun _ => true)) s

/-- Read a range for an owner. -/
def State.fabRead (s : State) (o : Owner) (va n : Nat) : Except Nat (State × List Byte) :=
  match s.fabResolve o va n .load with
  | .error c => .error c
  | .ok (s, ps) =>
    let s := s.settlePieces ps
    .ok (s, ps.flatMap s.fabPiece)

/-- Write the pieces of a range in turn. -/
def State.fabPut (s : State) : List Piece → List Byte → State
  | [], _ => s
  | p :: ps, bs =>
    (match p.tgt with
      | .mem x => s.fabricWrite s.ctx.die x.region x.pa (bs.take p.len)
      | .win _ => s).fabPut ps (bs.drop p.len)

/-- Write a range for an owner. -/
def State.fabWrite (s : State) (o : Owner) (va : Nat) (bs : List Byte) : Except Nat State :=
  match s.fabResolve o va bs.length .store with
  | .error c => .error c
  | .ok (s, ps) => .ok (s.fabPut ps bs)

/-- A PROT reply freezes the issuing context (R312, R360); what names the fault is open. -/
def State.fabFreeze (s : State) (id : BitVec 32) (addr : Word) : State :=
  let s := s.focus id
  if s.ctx.id = id ∧ s.ctx.life = .resident then
    (s.freeze { cause := .prot, addr := addr, eng := false, strand := 0, tpc := s.anyAddr, word := 0, esn := 0 }).bump
  else s

/-- As `fabFreeze`, for a status. -/
def State.freezeFor (s : State) (id : BitVec 32) (code : Nat) (addr : Word) : State := if code = 5 then s.fabFreeze id addr else s

/-- Undefined bytes (R5, R312). Log entry 53 (DESIGN CHOICE). -/
def State.anyBytes (s : State) (n : Nat) : List Byte := (List.range n).map (fun i => (Config.freeWord s.fresh (3000 + i)).setWidth 8)

/-! ### Ranks (R307) -/

/-- The order of ranks. -/
def Rank.key (r : Rank) : Nat := r.1.toNat * 2 ^ 41 + r.2.1.toNat * 2 ^ 32 + r.2.2.toNat

/-- Insert in ascending order. -/
def Rank.insert (r : Rank) : List Rank → List Rank
  | [] => [r]
  | x :: xs => if Rank.key r < Rank.key x then r :: x :: xs else x :: Rank.insert r xs

/-- The members in force in a domain's phase, in rank order (R307). -/
def State.ranks (s : State) (d : BitVec 10) : List Rank :=
  match s.domain d with
  | some v => v.force.foldl (fun l r => Rank.insert r l) []
  | none => []

/-- The place of a context of this device in a list of ranks. -/
def State.placeIn (s : State) (l : List Rank) (id : BitVec 32) : Option Nat :=
  (List.range l.length).find? (fun i => (l.getD i (0, 0, 0)).1 == s.devId && (l.getD i (0, 0, 0)).2.2 == id)

/-- Its rank; that of a context which is no member in force is open. Log entry 53 (DESIGN CHOICE). -/
def State.rankIn (s : State) (l : List Rank) (id : BitVec 32) : Nat :=
  (s.placeIn l id).getD (Config.freeWord s.fresh 2998).toNat

/-- A member in force that has not withdrawn since: one of this device, or of another. -/
def State.stays (s : State) (d : BitVec 10) (r : Rank) : Bool :=
  match s.domain d with
  | some v => if r.1 = s.devId then v.members.contains r.2.2 else v.far.any (fun u => u.1 == r.1 && u.2.2 == r.2.2)
  | none => false

/-! ### Requests (R310) -/

/-- A request entry. -/
def parseReq (w : List Word) : CollReq :=
  let dw (i : Nat) : Word := w.getD i 0
  { op := bitsOf (dw 0) 7 0, rop := bitOf (dw 0) 8, fmt := bitsOf (dw 0) 12 9, sag := bitOf (dw 0) 13,
    group := BitVec.ofNat 10 (bitsOf (dw 0) 25 16), root := bitsOf (dw 0) 47 32, count := bitsOf (dw 1) 31 0,
    seq := BitVec.ofNat 32 (bitsOf (dw 1) 63 32), src := dw 2, dst := dw 3, record := dw 4, stat := dw 5, tag := dw 6 }

/-- Bits that an entry must leave zero: those above GROUP; its other reserved bits are ignored (R6, R310). -/
def reqReserved (w : List Word) : Bool := decide (bitsOf (w.getD 0 0) 31 26 ≠ 0)

/-- A FMT of R310. -/
def reqFmt (f : Nat) : Bool := f == 0 || f == 1 || f == 10

/-- An entry is valid for n participants (R310). -/
def CollReq.valid (r : CollReq) (n : Nat) : Bool :=
  decide (1 ≤ r.op) && decide (r.op ≤ 6) && reqFmt r.fmt && (decide (4 < r.op) || decide (r.count ≠ 0)) &&
    (r.op != 5 || r.sag) && (r.op != 2 || decide (r.count % max n 1 = 0)) && (r.op != 4 || decide (r.root < n)) &&
    (!r.sag || decide (4 < r.op) || decide (r.dst.toNat % 4096 = 0))

/-- Elements that the DST of a request takes among n participants. -/
def CollReq.dstCount (r : CollReq) (n : Nat) : Nat :=
  match r.op with
  | 1 => r.count
  | 2 => r.count / max n 1
  | 3 => n * r.count
  | 4 => r.count
  | _ => 0

/-- The status doubleword of R312. -/
def statusWord (code rank npart : Nat) : Nat := code % 256 + rank % 65536 * 2 ^ 16 + npart % 65536 * 2 ^ 32

/-- A ring stops (R308, R312). -/
def State.ringError (s : State) (o : Owner) (ring : Word) : State :=
  match s.fabRead o ring.toNat 8 with
  | .error _ => s
  | .ok (s, bs) =>
    match s.fabWrite o ring.toNat (toBytes 8 (setBits (BitVec.ofNat 64 (ofBytes bs)) 1 1 1).toNat) with
    | .error _ => s
    | .ok s => s

/-- Write STAT and the TAG; a fault there sets ERR (R310, R312). Codes 3 to 7 leave DST undefined. -/
def State.putStatus (s : State) (o : Owner) (ring : Word) (r : CollReq) (code rank npart n : Nat) : State :=
  if s.present o = false then s
  else
    let s := if 3 ≤ code then
        (match s.fabWrite o r.dst.toNat (s.anyBytes (r.dstCount n * (fmtWidth r.fmt / 8))) with | .ok t => t.bump | .error _ => s)
      else s
    if r.stat.toNat % 16 ≠ 0 then s.ringError o ring
    else match s.settleAll.fabWrite o r.stat.toNat (toBytes 8 (statusWord code rank npart) ++ toBytes 8 r.tag.toNat) with
      | .error _ => s.ringError o ring
      | .ok s => s

/-! ### Taking entries (R309, R311) -/

/-- A new collective: the membership in force is its participant set, without those who have withdrawn in the phase (R311). -/
def State.newColl (s : State) (id : BitVec 32) (r : CollReq) : Option Collective :=
  let ranks := s.ranks r.group
  let stay := ranks.filter (s.stays r.group)
  if stay.any (fun u => u.1 == s.devId && u.2.2 == id) then
    some { group := r.group, seq := r.seq, ranks := ranks, parts := (stay.filter (fun u => u.1 == s.devId)).map (fun u => u.2.2),
           far := stay.filter (fun u => !(u.1 == s.devId)), shares := [], withdrawn := decide (stay.length < ranks.length), asked := false,
           agreed := none, told := false, held := [], code := none, past := false }
  else none

/-- The collective that an entry of a context joins, found or new; none for status 7 (R311). -/
def State.matchColl (s : State) (id : BitVec 32) (r : CollReq) : Option Collective :=
  match s.colls.find? (fun c => c.group == r.group && c.seq == r.seq) with
  | some c => if c.parts.contains id = false then none else if c.past then s.newColl id r else some c
  | none => s.newColl id r

/-- Put a collective in the place of the one with its number. -/
def State.putColl (s : State) (c : Collective) : State :=
  let same (e : Collective) : Bool := e.group == c.group && e.seq == c.seq
  { s with colls := if s.colls.any same then s.colls.map (fun e => if same e then c else e) else s.colls ++ [c] }

/-- Take one entry (R309 to R311); a task that has no context yet is no participant. -/
def State.takeEntry (s : State) (o : Owner) (ring : Word) (w : List Word) : State :=
  let r := parseReq w
  let id := match o with | .ctx id => id | .task _ _ => 0
  match s.matchColl id r with
  | some c =>
    let rank := s.rankIn c.ranks id
    if reqReserved w ∨ r.valid c.ranks.length = false then s.putStatus o ring r 6 rank 0 c.ranks.length
    else
      let h : Share := { ctx := id, rank := rank, req := r, ring := ring, src := if r.op = 6 then some [] else none, fault := none }
      s.putColl { c with shares := c.shares.filter (fun e => !(e.ctx == id)) ++ [h] }
  | none =>
    let ranks := s.ranks r.group
    let n := ranks.length
    (s.putStatus o ring r (if reqReserved w ∨ r.valid n = false then 6 else 7) (s.rankIn ranks id) 0 n).bump

/-- The source of a share can be read now: a window needs its context on a plate (R311, R315). -/
def State.srcReady (s : State) (id : BitVec 32) (src : Word) : Bool :=
  !(inWindow src.toNat) || (match s.ctxOf id with | some c => c.life == .resident || c.life == .halted || c.life == .frozen | none => false)

/-- The record a context names: its physical address, or a status. -/
def State.fabRecord (s : State) (id : BitVec 32) (va : Word) : Except Nat (State × Nat) :=
  let s := s.focus id
  if va.toNat % 128 ≠ 0 then .error 4
  else match s.resolve va.toNat 128 .load mdTarget with
    | .error (c, _) => .error (codeOf c)
    | .ok (s, { tgt := .mem x, .. } :: _) => .ok (s, x.pa)
    | .ok _ => .error 4

/-- The elements that a share reads. -/
def Share.reads (h : Share) : Nat := if 4 < h.req.op ∨ (h.req.op = 4 ∧ h.req.root ≠ h.rank) then 0 else h.req.count

/-- Read the source of a share, and find the record it names: it contributes (R235, R311). -/
def State.readShare (s : State) (h : Share) : State × Share :=
  let w := fmtWidth h.req.fmt / 8
  if h.src.isSome ∨ (h.reads ≠ 0 ∧ s.srcReady h.ctx h.req.src = false) then (s, h)
  else match s.fabRead (.ctx h.ctx) h.req.src.toNat (h.reads * w) with
    | .error c => (s.freezeFor h.ctx c h.req.src, { h with src := some [], fault := some c })
    | .ok (t, bs) =>
      if h.req.sag then
        match t.fabRecord h.ctx h.req.record with
        | .error c => (t.freezeFor h.ctx c h.req.record, { h with src := some [], fault := some c })
        | .ok (u, pa) => (u, { h with src := some (splitElems w bs), pa := some pa })
      else (t, { h with src := some (splitElems w bs) })

/-- Read every source that can be read. -/
def State.readShares (s : State) : State :=
  s.colls.foldl (fun t c =>
    if c.past ∨ c.code.isSome then t
    else
      let r := c.shares.foldl (fun (a : State × List Share) h =>
        let b := a.1.readShare h
        (b.1, a.2 ++ [b.2])) (t, [])
      r.1.putColl { c with shares := r.2 }) s

/-- Take the entries of a ring from HEAD on; an entry that cannot be read stops the ring. -/
def State.takeEntries (s : State) (o : Owner) (ring base : Word) (logsz head : Nat) : Nat → State × Nat
  | 0 => (s, head)
  | n + 1 =>
    match s.fabRead o (base.toNat + 64 * (head % 2 ^ logsz)) 64 with
    | .error _ => (s.ringError o ring, head)
    | .ok (s, bs) => (s.takeEntry o ring (dwsOf 8 (ofBytes bs))).takeEntries o ring base logsz ((head + 1) % 2 ^ 32) n

/-- Poll one ring: its descriptor, then the entries between HEAD and TAIL; HEAD is written after they are read (R308, R309). -/
def State.pollRing (s : State) (o : Owner) (ring : Word) : State :=
  match s.fabRead o ring.toNat 64 with
  | .error _ => s
  | .ok (s, bs) =>
    let w := dwsOf 8 (ofBytes bs)
    let dw (i : Nat) : Word := w.getD i 0
    let logsz := bitsOf (dw 0) 5 2
    let head := bitsOf (dw 3) 31 0
    let n := (bitsOf (dw 2) 31 0 + 2 ^ 32 - head) % 2 ^ 32
    if bitOf (dw 0) 0 = false ∨ bitOf (dw 0) 1 = true then s
    else if logsz < 4 ∨ 12 < logsz ∨ 2 ^ logsz < n then s.ringError o ring
    else if n = 0 then s
    else
      let r := s.takeEntries o ring (BitVec.ofNat 64 (bitsOf (dw 1) 56 0)) logsz head n
      match r.1.fabWrite o (ring.toNat + 24) (toBytes 4 r.2) with
      | .ok s => s
      | .error _ => r.1

/-- The rings of a die in their order: owner and descriptor; it serves 2,048 (R308). -/
def State.ringsOf (s : State) (d : Nat) : List (Owner × Word) :=
  (s.die d).rings.flatMap (fun r => (List.range 64).map (fun i => (r.owner, r.table + BitVec.ofNat 64 (64 * i))))

/-- An enabled ring: one that is not stopped. -/
def State.ringOn (s : State) (r : Owner × Word) : Bool :=
  match s.fabRead r.1 r.2.toNat 8 with
  | .ok (_, bs) => ofBytes bs % 4 == 1
  | .error _ => false

/-- RING_POLL (R308, R309): every enabled ring of a die, then the sources that have become readable; a ring beyond the
2,048 that a die serves stops. The fabric engine takes nothing while a dump has stopped it (R370). -/
def execRingPoll (die : BitVec 2) (s : State) : Out :=
  let d := die.toNat
  .next (if s.dumpStop then s
    else
      let on := (s.ringsOf d).filter s.ringOn
      let s := (on.drop 2048).foldl (fun t r => t.ringError r.1 r.2) s
      ((on.take 2048).foldl (fun t r => t.pollRing r.1 r.2) s).readShares)

/-! ### Scale agreement (R235) -/

/-- Every message to some devices' fabric engines (R235, R301). -/
def State.tellDevs (s : State) (far : List Rank) (ms : List TreeMsg) : State :=
  ((far.map (fun r => r.1)).eraseDups).foldl (fun t dev => ms.foldl (fun u m => u.sendFlit (u.treeFlit dev m)) t) s

/-- The proposals of members on other devices for an agreement, once every one has come. -/
def State.farEntries (s : State) (group : BitVec 10) (key : Nat) (far : List Rank) : Option (List (Nat × Int)) :=
  far.foldl (fun a u => a.bind (fun l =>
    (s.props.find? (fun p => p.group == group && p.key == key && p.who == u)).map (fun p => l ++ [(p.fmt, p.e)]))) (some [])

/-- What a member at a record proposes: format and e of the current entry (R235). -/
def State.proposal (s : State) (pa : Nat) : Nat × Int := let e := recCur (s.recordAt pa); (e.fmt.toNat, e.e)

/-- An agreement over records and the entries of members elsewhere: the agreed format and e, or none when formats differ.
A record below the maximum takes a new version; QUIET becomes 0 (R235). -/
def State.agreeOn (s : State) (pas : List Nat) (far : List (Nat × Int)) : State × Option (Nat × Int) :=
  let pas := pas.eraseDups
  let ents := pas.map s.proposal ++ far
  match ents with
  | [] => (s, none)
  | e :: _ =>
    if ents.any (fun f => f.1 != e.1) then (s, none)
    else
      let top := ents.foldl (fun m f => max m f.2) e.2
      let adopt (t : State) (pa : Nat) : State :=
        let t := if (recCur (t.recordAt pa)).e < top then t.newVersion pa e.1 top else t
        t.putRecord pa (recPut (t.recordAt pa) 0 23 16 0)
      (pas.foldl adopt s, some (e.1, top))

/-! ### Data (R310) -/

/-- Elements of a share quantised under the agreed entry and decoded again to FP32: what leaves its participant. -/
def agreedElems (fmt : Nat) (ent : Nat × Int) (els : List Nat) : List Nat :=
  let q := quantise ent.1 .rne (fun _ => 0) (els.map (fun x => ((decodeFmt fmt x).1).scale (-ent.2)))
  (List.range els.length).map (fun i =>
    (fp32.round .rne false 0 ((decodeScaled ent.1 (q.elems.getD i 0) (q.scales.getD (i / 32) 0)).1.scale ent.2)).1)

/-- Combine element lists in order, element by element. -/
def combineAll (rop : Bool) (fmt : Nat) : List (List Nat) → List Nat
  | [] => []
  | [l] => l
  | l :: m :: rest =>
    let f (a b : List Nat) : List Nat := (List.range a.length).map (fun i => combine rop fmt (a.getD i 0) (b.getD i 0))
    (m :: rest).foldl f l

/-- What DST of rank k receives, from the shares in arrival order: (rank, elements); `gone` stands for the block of a participant
that has withdrawn (R310). Log entry 53 (DESIGN CHOICE). -/
def collResult (r : CollReq) (fmt n k : Nat) (gone : List Nat) (vals : List (Nat × List Nat)) : List Nat :=
  let all := combineAll r.rop fmt (vals.map (fun v => v.2))
  let block (i : Nat) : List Nat := ((vals.find? (fun v => v.1 == i)).map (fun v => v.2)).getD gone
  match r.op with
  | 1 => all
  | 2 => (all.drop (k * (r.count / max n 1))).take (r.count / max n 1)
  | 3 => (List.range n).flatMap block
  | 4 => block r.root
  | _ => []

/-- Bytes of plain elements. -/
def plainBytes (fmt : Nat) (els : List Nat) : List Byte := els.flatMap (fun x => toBytes (fmtWidth fmt / 8) x)

/-- Write agreed results to DST: the packed elements, their block scales, and a postmark for each block (R228, R310). -/
def State.writeAgreed (s : State) (h : Share) (ent : Nat × Int) (els : List Nat) : Except Nat State :=
  let r := s.recordAt (h.pa.getD 0)
  let q := quantise ent.1 .rne (fun _ => 0) (els.map (fun x => ((decodeFmt 0 x).1).scale (-ent.2)))
  let bs := packMem ent.1 q.elems
  let dst := h.req.dst.toNat
  match s.fabWrite (.ctx h.ctx) dst bs with
  | .error c => .error c
  | .ok s =>
    let scales := if q.scales.isEmpty then .ok s
      else s.fabWrite (.ctx h.ctx) (recSarr r + recOffset r dst / 4096 * 256) (q.scales.map (fun b => BitVec.ofNat 8 b))
    scales.bind (fun s =>
      (List.range ((bs.length + 4095) / 4096)).foldl (fun a i => a.bind (fun t =>
        match (t.focus h.ctx).putPostmark r (dst + 4096 * i) h.ver with
        | .ok t _ => .ok t
        | .wait _ => .error 4
        | .stop _ c _ => .error (codeOf c))) (.ok s.settleAll))

/-- Write the result of one share; a fault leaves its status with it (R312). Log entry 53 (DESIGN CHOICE). -/
def State.writeShare (s : State) (h : Share) (ent : Option (Nat × Int)) (els : List Nat) : State × Share :=
  if (s.ctxOf h.ctx).isNone ∨ els.isEmpty then (s, h)
  else
    let w := match ent with
      | some e => s.writeAgreed h e els
      | none => s.fabWrite (.ctx h.ctx) h.req.dst.toNat (plainBytes h.req.fmt els)
    match w with
    | .ok t => (t, h)
    | .error c => (s.freezeFor h.ctx c h.req.dst, { h with fault := some c })

/-! ### A collective's steps (R311, R235) -/

/-- The elements that members on other devices have contributed, by rank, once every one has come. -/
def State.farVals (s : State) (c : Collective) : Option (List (Nat × List Nat)) :=
  c.far.foldl (fun a u => a.bind (fun l =>
    (s.farShares.find? (fun h => h.group == c.group && h.key == c.seq.toNat && h.who == u)).map (fun h =>
      l ++ [(((List.range c.ranks.length).find? (fun i => c.ranks.getD i (0, 0, 0) == u)).getD 0, h.els)]))) (some [])

/-- A participant's rank as the other devices know it. -/
def Collective.who (c : Collective) (h : Share) : Rank := c.ranks.getD h.rank (0, 0, h.ctx)

/-- What a share contributes: its elements, converted under the agreed entry (R310, R235). -/
def Share.vals (h : Share) (r : CollReq) (ent : Option (Nat × Int)) : List Nat :=
  match ent with
  | some e => agreedElems r.fmt e (h.src.getD [])
  | none => h.src.getD []

/-- The proposal of a participant of this device. -/
def Collective.ask (c : Collective) (s : State) (h : Share) : TreeMsg :=
  let e := s.proposal (h.pa.getD 0)
  .propose c.group c.seq.toNat (c.who h) e.1 e.2

/-- Step 1 of an agreement: the records latch, and this device's proposals go out (R235). None while another agreement holds one. -/
def State.askColl (s : State) (c : Collective) : Option State :=
  let pas := c.shares.filterMap (fun h => h.pa)
  if pas.any s.recHeld then none
  else some ((s.tellDevs c.far (c.shares.map (c.ask s))).putColl { c with asked := true, held := pas })

/-- Steps 2 and 3, once every proposal has come: the maximum is adopted, or formats differ (R235, R312). Each participant keeps the
version it agreed on. -/
def State.settleColl (s : State) (c : Collective) : Option State :=
  (s.farEntries c.group c.seq.toNat c.far).map (fun far =>
    let r := s.agreeOn c.held far
    let took (h : Share) : Share := { h with ver := (recCur (r.1.recordAt (h.pa.getD 0))).ver }
    r.1.putColl (match r.2 with
      | none => { c with held := [], code := some 2 }
      | some e => { c with held := [], agreed := some e, shares := c.shares.map took }))

/-- This device's shares go to the devices of the other participants (R310, R311). -/
def State.tellColl (s : State) (c : Collective) (r : CollReq) : State :=
  (s.tellDevs c.far (c.shares.map (fun h => .share c.group c.seq.toNat (c.who h) (h.vals r c.agreed)))).putColl { c with told := true }

/-- Every share is there: the results are written to every DST of this device, combined in arrival order, or in rank order where
devices must come to the same result (R45, R310, R311). -/
def State.finishColl (s : State) (c : Collective) (r : CollReq) : Option State :=
  (s.farVals c).map (fun far =>
    let n := c.ranks.length
    let fmt := if c.agreed.isSome then 0 else r.fmt
    let own := c.shares.map (fun h => (h.rank, h.vals r c.agreed))
    let vals := if far.isEmpty then own
      else (List.range n).filterMap (fun k => (own ++ far).find? (fun v => v.1 == k))
    let gone := (List.range r.count).map (fun i => (Config.freeWord s.fresh (2000000 + i)).toNat % 2 ^ fmtWidth fmt)
    let out := c.shares.foldl (fun (a : State × List Share) h =>
      let b := a.1.writeShare h c.agreed
        (collResult r fmt n h.rank gone (if r.op = 4 then vals.filter (fun v => v.1 == r.root) else vals))
      (b.1, a.2 ++ [b.2])) (s, [])
    (out.1.putColl { c with shares := out.2, code := some 0 }).bump)

/-- Every remaining participant of this device has contributed, and data are still to move (R311). -/
def Collective.ready (c : Collective) (op : Nat) : Bool :=
  !c.past && c.code.isNone && c.parts.all (fun id => c.shares.any (fun h => h.ctx == id && h.src.isSome)) &&
    (c.shares.head?.map (fun h => h.req.op)) == some op

/-- The next step of a collective whose participants of this device have all contributed, if it can be made (R310, R311, R235). -/
def State.collNext (s : State) (c : Collective) : Option State :=
  match c.shares with
  | [] => none
  | h0 :: _ =>
    match c.shares.findSome? (fun h => h.fault) with
    | some k => some (s.putColl { c with code := some k, held := [] })
    | none =>
      if h0.req.sag ∧ c.asked = false then s.askColl c
      else if h0.req.sag ∧ c.agreed.isNone = true then s.settleColl c
      else if c.told = false then some (s.tellColl c h0.req)
      else s.finishColl c h0.req

/-- The collective of a number as it stands. -/
def State.collOf (s : State) (c : Collective) : Option Collective := s.colls.find? (fun e => e.group == c.group && e.seq == c.seq)

/-- Make the steps of a collective until it waits or has its status; at most n. -/
def State.runColl (s : State) (c : Collective) : Nat → State
  | 0 => s
  | n + 1 =>
    match s.collNext c with
    | none => s
    | some t =>
      match t.collOf c with
      | some e => if e.code.isSome then t else t.runColl e n
      | none => t

/-- A collective of an operation that can take a step. -/
def State.collDue (s : State) (op : Nat) (c : Collective) : Bool := c.ready op && (s.collNext c).isSome

/-- A row of a collective: the first of its operation that can take its steps does. -/
def collRow (op : Nat) (s : State) : Out :=
  .next (match s.colls.find? (s.collDue op) with
    | some c => s.runColl c 4
    | none => s)

/-- ALLREDUCE (R310). -/
def execAllreduce (s : State) : Out := collRow 1 s
/-- REDUCESCATTER (R310). -/
def execReducescatter (s : State) : Out := collRow 2 s
/-- ALLGATHER (R310). -/
def execAllgather (s : State) : Out := collRow 3 s
/-- BROADCAST (R310). -/
def execBroadcast (s : State) : Out := collRow 4 s
/-- AGREE (R235, R310). Log entry 47 (DESIGN CHOICE). -/
def execAgree (s : State) : Out := collRow 5 s
/-- BARRIER (R310). -/
def execBarrier (s : State) : Out := collRow 6 s

/-- Write the status of one share (R312). -/
def State.shareStatus (s : State) (c : Collective) (k : Nat) (h : Share) : State :=
  let code := h.fault.getD (if k = 0 ∧ c.withdrawn then 1 else k)
  s.putStatus (.ctx h.ctx) h.ring h.req code h.rank (c.shares.length + c.far.length) c.ranks.length

/-- COLLECTIVE_COMPLETE (R311, R312): the statuses of the first collective whose data have moved.
Log entry 22 (DESIGN CHOICE). -/
def execCollectiveComplete (s : State) : Out :=
  .next (match s.colls.find? (fun c => !c.past && c.code.isSome) with
    | none => s
    | some c =>
      let s := c.shares.foldl (fun t h => t.shareStatus c (c.code.getD 0) h) s
      let other (g : BitVec 10) (k : Nat) : Bool := !(g == c.group && k == c.seq.toNat)
      ({ s with props := s.props.filter (fun p => other p.group p.key),
                farShares := s.farShares.filter (fun h => other h.group h.key) }).putColl
        { c with shares := [], held := [], past := true })

end Sys2Proof.Machine
end

