-- ==== Sys2Proof/Machine/Fires.lean ====
section
/-! DEFINITION. The tile dispatch table: its fires, their agreements, and the streaming port (R235, R303, R313 to R316). -/

namespace Sys2Proof.Machine

/-! ### An entry and its fire (R313) -/

/-- The fields of a captured entry (R313). -/
def Fire.dw (f : Fire) (i : Nat) : Word := f.dws.getD i 0
def Fire.op (f : Fire) : Nat := bitsOf (f.dw 0) 2 1
def Fire.sag (f : Fire) : Bool := bitOf (f.dw 0) 3
def Fire.fmt (f : Fire) : Nat := bitsOf (f.dw 0) 7 4
def Fire.group (f : Fire) : BitVec 10 := BitVec.ofNat 10 (bitsOf (f.dw 0) 17 8)
def Fire.all (f : Fire) : Bool := bitOf (f.dw 0) 18
def Fire.target (f : Fire) : Nat := bitsOf (f.dw 0) 34 19
def Fire.fae (f : Fire) : Nat := bitsOf (f.dw 2) 63 52
def Fire.off (f : Fire) : Nat := bitsOf (f.dw 2) 31 0
def Fire.len (f : Fire) : Nat := bitsOf (f.dw 3) 31 0

/-- An entry that a fire can use; its reserved bits are ignored (R6, R313). -/
def Fire.ok (f : Fire) : Bool :=
  bitOf (f.dw 0) 0 && decide (f.op ≤ 2) && (!f.sag || f.all) && reqFmt f.fmt && decide (1 ≤ f.len) && decide (f.len ≤ 2 ^ 24) &&
    decide (f.len % (fmtWidth f.fmt / 8) = 0)

/-- The key of its agreement (R314). -/
def Fire.key (f : Fire) : Nat := 2 ^ 32 + f.index + 4096 * f.number

/-- Its issuer takes part: under an agreement one that has withdrawn before it proposed does not (R311, R314). -/
def State.takesPart (s : State) (f : Fire) : Bool :=
  match s.placeIn f.ranks f.ctx with
  | some i => !f.sag || f.asked || s.stays f.group (f.ranks.getD i (0, 0, 0))
  | none => false

/-- The participants on other devices that have not withdrawn (R311, R314). -/
def State.fireFar (s : State) (f : Fire) : List Rank := f.ranks.filter (fun r => s.stays f.group r && !(r.1 == s.devId))

/-- The devices a fire sends to: of every participant but the issuer, or of rank RANK (R313). -/
def State.fireDevs (s : State) (f : Fire) : List (BitVec 12) :=
  let me := s.placeIn f.ranks f.ctx
  (if f.all then
    ((List.range f.ranks.length).filter (fun i => !(some i == me) && s.stays f.group (f.ranks.getD i (0, 0, 0)))).map
      (fun i => (f.ranks.getD i (0, 0, 0)).1)
   else if f.target < f.ranks.length then [(f.ranks.getD f.target (0, 0, 0)).1] else []).eraseDups

/-! ### Where its bytes go (R302, R303) -/

/-- Where bytes of a fire go for a target device. -/
inductive Landing where
  | here (pa : Nat)
  | away (dev : BitVec 12)
  | fails (code : Nat)
  deriving DecidableEq, Repr

/-- n bytes at an offset of a fire's DST for a target device: this one's window, another device, or a status (R303, R312).
Log entry 64 (DESIGN CHOICE). -/
def State.fireLanding (s : State) (dev : BitVec 12) (f : Fire) (off n : Nat) : Landing :=
  let e := s.fatOf f.fae
  if bitsOf (f.dw 2) 51 32 ≠ 0 ∨ bitOf (e.map e.cur) 0 = false ∨ e.len e.cur < f.off + off + n then .fails 4
  else if dev ≠ s.devId ∨ e.dev e.cur ≠ s.devId then
    let peer := if dev = s.devId then e.dev e.cur else dev
    if (s.portOf (Config.portOf peer).toNat).down then .fails 3 else .away peer
  else match s.fabricPa f.fae e.cur (f.off + off) n with
    | none => .fails 4
    | some pa =>
      if plainPlace pa = false ∨ (s.beyond pa n).isSome = true ∨ (f.op ≠ 0 ∧ s.anyPoison pa n = true) then .fails 4 else .here pa

/-- One flit of a fire (R302). -/
def State.dataFlit (s : State) (dev : BitVec 12) (f : Fire) (off : Nat) (bs : List Byte) (last : Bool) : Flit :=
  { crc := 0, off := BitVec.ofNat 28 ((f.off + off) / 16), fae := BitVec.ofNat 12 f.fae, fmt := BitVec.ofNat 4 f.fmt, seq := 0,
    dstdev := dev, srcdev := s.devId, len := BitVec.ofNat 8 bs.length, rop := f.op == 2, last := last, gen := (s.fatOf f.fae).cur,
    kind := if f.op = 0 then 1 else 2, vc := 3, payload := bs }

/-- Bytes of a fire land in a window of this device, through the fabric engine of its issuer's die (R302, R303). -/
def State.landData (s : State) (d : Nat) (f : Fire) (pa : Nat) (bs : List Byte) : State :=
  if f.op = 0 then s.fabricWrite d 0 pa bs else s.fabricReduce d pa f.fmt (f.op == 2) bs

/-- The die of a fire's issuer. -/
def State.fireDie (s : State) (f : Fire) : Nat := ((s.ctxOf f.ctx).map (fun c => c.die)).getD 0

/-- A fire has a status, unless it has one. -/
def Fire.withCode (f : Fire) (c : Nat) : Fire := { f with code := if f.code = 0 then c else f.code }

/-- Some bytes of a fire, a flit's at most each, go to one device; `wait` when its acknowledgement ends the wait for it. -/
def State.deliver (s : State) (dev : BitVec 12) (f : Fire) (parts : List (Nat × List Byte)) (last : Bool) : State × Fire :=
  let n := parts.foldl (fun m p => max m (p.1 + p.2.length)) 0
  let lo := parts.foldl (fun m p => min m p.1) n
  match s.fireLanding dev f lo (n - lo) with
  | .fails c => (s, { f.withCode c with await := f.await.erase dev })
  | .here pa => (parts.foldl (fun t p => t.landData (s.fireDie f) f (pa + p.1 - lo) p.2) s, f)
  | .away peer =>
    ((List.range parts.length).foldl (fun t i =>
      let p := parts.getD i (0, [])
      t.sendFlit (t.dataFlit peer f p.1 p.2 (last && i + 1 == parts.length))) s,
     { f with await := if f.await.contains peer then f.await else f.await ++ [peer] })

/-- The flits of a message: 240 bytes each, and each row starts one (R302, R316). -/
def flitsOf (bs : List Byte) (row off : Nat) : List (Nat × List Byte) :=
  let row := if row = 0 then max bs.length 1 else row
  (List.range ((bs.length + row - 1) / row)).flatMap (fun t =>
    (List.range ((row + 239) / 240)).filterMap (fun i =>
      let lo := t * row + 240 * i
      let hi := min (min (lo + 240) ((t + 1) * row)) bs.length
      if lo < hi then some (off + lo, (bs.drop lo).take (hi - lo)) else none))

/-! ### Bits and captures (R314, R315) -/

/-- The ready bitmap of a context with a table: its bits set, ascending. -/
def State.readyBits (s : State) (c : Ctx) : List Nat :=
  if c.task.tdt = 0 then []
  else match s.schedAddr c.space (c.task.tdt + 0x40000) with
    | none => c.ready
    | some pa =>
      let w := s.memNat pa 512
      if w = 0 then [] else (List.range 4096).filter (fun i => w / 2 ^ i % 2 == 1)

/-- Note the bits of one context that have become 1: each starts a fire, or waits in the die's list of 1,024; a full list
posts TRIG_HELD and the bit is examined again (R314, R315). -/
def State.noteReady (s : State) (id : BitVec 32) : State :=
  match s.ctxOf id with
  | none => s
  | some c =>
    let bits := s.readyBits c
    let fresh := bits.filter (fun i => !(c.ready.contains i))
    let room := 1024 - (s.die c.die).fires.length
    let late := fresh.drop room
    let s := s.mdie c.die (fun d => { d with fires := d.fires ++ (fresh.take room).map (fun i => (id, i)) })
    let s := s.mctxOf id (fun c => { c with ready := bits.filter (fun i => !(late.contains i)) })
    if !late.isEmpty && decide (s.cycle % max (s.micros c.die 1) 1 = 0) then
      s.post c.die 2 0x1FF 0 (BitVec.ofNat 64 id.toNat) (BitVec.ofNat 64 (late.getD 0 0))
    else s

/-- Bits of every context that have become 1. -/
def State.noteFires (s : State) : State :=
  (s.allCtxs.filter (fun c => !(c.task.tdt == 0))).foldl (fun t c => t.noteReady c.id) s

/-- A fire of a context begins: its number, and the membership of its collective (R311, R314). -/
def State.newFire (s : State) (id : BitVec 32) (i : Nat) (dws : List Word) : State × Fire :=
  let k := ((s.ctxOf id).map (fun c => SMap.get 0 c.fired i)).getD 0
  let f : Fire := { ctx := id, index := i, dws := dws, number := k }
  let mate (g : Fire) : Bool := g.sag && f.sag && g.group == f.group && g.key == f.key
  (s.mctxOf id (fun c => { c with fired := SMap.set 0 c.fired i (k + 1) }),
    { f with ranks := match s.fires.find? mate with | some g => g.ranks | none => s.ranks f.group })

/-- A streamed drain's fire that its ready flag ends (R316). -/
def State.fedFire (s : State) (id : BitVec 32) (i : Nat) : Option Fire := s.fires.find? (fun f => f.fed && f.ctx == id && f.index == i)

/-- Capture the entry of a fire, streamed or from the table; none while the fire is held (R315, R316). -/
def State.captureFire (s : State) (id : BitVec 32) (i : Nat) : Option (State × Fire) :=
  match s.fedFire id i with
  | some f => some ({ s with fires := s.fires.erase f }, { f with fed := false })
  | none =>
    match s.ctxOf id with
    | none => some (s, { ctx := id, index := i, dws := [] })
    | some c =>
      match c.streams.find? (fun e => e.1 == i) with
      | some e => some (s.newFire id i e.2.1)
      | none =>
        match s.fabRead (.ctx id) (c.task.tdt.toNat + 64 * i) 64 with
        | .error _ => some (s.newFire id i [])
        | .ok (s, bs) =>
          let w := dwsOf 8 (ofBytes bs)
          let src := w.getD 1 0
          let resident := c.life == .resident || c.life == .frozen || c.life == .halted
          if (inWindow src.toNat ∧ resident = false) ∨
              (inWindow src.toNat = false ∧ (match s.xlate c.space.asid c.space.root src.toNat with | .error _ => true | .ok _ => false) = true) then
            none
          else some (s.newFire id i w)

/-- Start fires of a die in order; the later ones of a context with a held fire wait behind it (R314, R315). -/
def State.startFires (s : State) (d : Nat) : State :=
  ((s.die d).fires.foldl (fun (a : State × List (BitVec 32)) f =>
    if a.2.contains f.1 then a
    else match a.1.captureFire f.1 f.2 with
      | none => (a.1, a.2 ++ [f.1])
      | some (t, g) => ({ (t.mdie d (fun e => { e with fires := e.fires.erase f })) with fires := t.fires ++ [g] }, a.2)) (s, [])).1

/-- HELD_FIRE_RETRY (R315). -/
def execHeldFireRetry (die : BitVec 2) (s : State) : Out := .next (if s.dumpStop then s else s.startFires die.toNat)

/-! ### The streaming port (R316) -/

/-- A streamed fire that sends as its rows come: one that can be used, of a member, and not under an agreement, which its data
would have to wait for. Log entry 65 (DESIGN CHOICE). -/
def State.streamsOut (s : State) (f : Fire) : Bool := f.ok && !f.sag && s.takesPart f

/-- The row of a streamed drain that is due, once the cycles of the rows before it have passed: its place and its bytes. -/
def Running.rowDue (r : Running) : Option (List Word × Nat × List Byte) :=
  match r.strm with
  | none => none
  | some (dws, bs) =>
    let n := (dws.getD 8 0).toNat
    let left := (bs.length - r.gone) / max n 1
    if r.begun && r.input == 0 && decide (r.gone < bs.length) && decide (r.left ≤ (left - 1) * ((n + 255) / 256) + 1) then
      some (dws, r.gone, (bs.drop r.gone).take n)
    else none

/-- The flits of a row that is due. -/
def rowFlits (r : Running) (dws : List Word) (off : Nat) (bs : List Byte) (last : Bool) : List StreamFlit :=
  let l := flitsOf bs 0 off
  (List.range l.length).map (fun i =>
    let p := l.getD i (0, [])
    { ctx := r.ctx, index := r.tdi.getD 0, dws := dws, off := p.1, bytes := p.2, last := last && i + 1 == l.length })

/-- The port takes the rows of a drain: those of one that has begun to stream, or whose fire will send as they come. -/
def State.portTakes (s : State) (r : Running) (dws : List Word) : Bool :=
  r.gone != 0 || s.streamsOut (s.newFire r.ctx (r.tdi.getD 0) dws).2

/-- The streaming port of the plate's die has no room for the row of a drain that is due: the drain is held (R176, R316). -/
def State.drainHeld (s : State) (r : Running) : Bool :=
  match r.rowDue with
  | some (dws, off, bs) =>
    s.portTakes r dws && decide (64 < (s.die (dieOfPlate s.plate.id)).port.length + (rowFlits r dws off bs false).length)
  | none => false

/-- The fire of a streamed drain is under way from its first row on. -/
def State.feedFire (s : State) (r : Running) (dws : List Word) : State :=
  let b := s.newFire r.ctx (r.tdi.getD 0) dws
  { b.1 with fires := b.1.fires ++ [{ b.2 with fed := true, sent := true }] }

/-- A streamed drain of the plate in focus passes the row that is due to the port of its die (R316). -/
def State.feedRow (s : State) (r : Running) : State :=
  match r.rowDue with
  | none => s
  | some (dws, off, bs) =>
    let total := (r.strm.map (fun e => e.2.length)).getD 0
    if s.portTakes r dws = false then s.putRunning r { r with gone := total }
    else if s.drainHeld r then s
    else
      let s := if r.gone = 0 then s.feedFire r dws else s
      let s := s.putRunning r { r with gone := off + bs.length }
      s.mdie (dieOfPlate s.plate.id) (fun t => { t with port := t.port ++ rowFlits r dws off bs (decide (total ≤ off + bs.length)) })

/-- The rows that are due on the plate in focus. -/
def State.feedRows (s : State) : State := (s.plate.running.get 0).foldl State.feedRow s

/-- A fire's target is being remapped to this device, and its own marker has not come: its new writes wait (R304). -/
def State.ownUnmarked (s : State) (f : Fire) : Bool := s.unmarked f.fae s.devId 3 && (s.fireDevs f).contains s.devId

/-- Put a fire in the place of another. -/
def State.putFire (s : State) (f g : Fire) : State := { s with fires := s.fires.map (fun e => if e = f then g else e) }

/-- The oldest flit of a die's port can leave: no link that it needs is stopped, and no remapping holds it (R301, R304). -/
def State.portGoes (s : State) (x : StreamFlit) : Bool :=
  match s.fires.find? (fun f => f.ctx == x.ctx && f.index == x.index && f.sent) with
  | none => true
  | some f => !(s.ownUnmarked f) && (s.fireDevs f).all (fun dev => match s.fireLanding dev f x.off x.bytes.length with
    | .away peer => !((s.portOf (Config.portOf peer).toNat).stopped.getLsbD 3)
    | _ => true)

/-- The oldest flit of a die's port leaves for every target; row t goes to DST + t × n (R316). -/
def State.portOne (s : State) (d : Nat) (x : StreamFlit) : State :=
  let s := s.mdie d (fun t => { t with port := t.port.drop 1 })
  match s.fires.find? (fun f => f.ctx == x.ctx && f.index == x.index && f.sent) with
  | none => s
  | some f =>
    let r := (s.fireDevs f).foldl (fun (a : State × Fire) dev => a.1.deliver dev a.2 [(x.off, x.bytes)] x.last) (s, f)
    r.1.putFire f r.2

/-- What a die's port gives in a cycle, oldest first; at most n. -/
def State.portPass (s : State) (d : Nat) : Nat → State
  | 0 => s
  | n + 1 =>
    match (s.die d).port.head? with
    | some x => if s.portGoes x then (s.portOne d x).portPass d n else s
    | none => s

/-! ### A fire's course (R314, R316) -/

/-- What a status of 3 to 7 leaves in a fire's window of this device is undefined (R5, R312). Log entry 53 (DESIGN CHOICE). -/
def State.spoilFire (s : State) (f : Fire) (code : Nat) : State :=
  let g : Fire := { f with dws := f.dws.set 0 (f.dw 0 &&& ~~~6) }
  if code < 3 ∨ (s.fireDevs f).contains s.devId = false then s
  else match s.fireLanding s.devId g 0 f.len with
    | .here pa => (s.landData (s.fireDie f) g pa (s.anyBytes f.len)).bump
    | _ => s

/-- A fire completes: its status, then its bit is cleared with AAND (R312, R314). -/
def State.endFire (s : State) (f : Fire) (code rank npart : Nat) : State :=
  let s := { s with fires := s.fires.erase f }
  match s.ctxOf f.ctx with
  | none => s
  | some c =>
    let s := (((s.spoilFire f code).freezeFor f.ctx code (f.dw 2))).settleAll
    let s := match s.fabWrite (.ctx f.ctx) (f.dw 5).toNat (toBytes 8 (statusWord code rank npart)) with | .ok t => t | .error _ => s
    let va := c.task.tdt.toNat + 0x40000 + f.index / 8
    let s := match s.fabResolve (.ctx f.ctx) va 1 .atomic with
      | .ok (t, { tgt := .mem x, .. } :: _) =>
        ((t.settle t.ctx.die (fun l => l == x.pa / 128)).bankStep x.pa 1 x.region
          (fun v => v - v / 2 ^ (f.index % 8) % 2 * 2 ^ (f.index % 8))).1
      | _ => s
    s.mctxOf f.ctx (fun c => { c with
      ready := c.ready.filter (fun i => !(i == f.index)), streams := c.streams.filter (fun e => !(e.1 == f.index)) })

/-- A fire completes with the rank of its issuer. -/
def State.closeFire (s : State) (f : Fire) (code : Nat) : State := (s.endFire f code (s.rankIn f.ranks f.ctx) f.npart).bump

/-- The bytes a fire sends: streamed, or read from SRC; under an agreement converted first (R310, R316). -/
def State.fireBytes (s : State) (f : Fire) (ent : Option (Nat × Int)) : Except Nat (State × List Byte) :=
  let conv (bs : List Byte) : List Byte :=
    match ent with
    | none => bs
    | some e =>
      let els := splitElems (fmtWidth f.fmt / 8) bs
      if f.op = 0 then
        packMem e.1 (quantise e.1 .rne (fun _ => 0) (els.map (fun x => ((decodeFmt f.fmt x).1).scale (-e.2)))).elems
      else plainBytes f.fmt ((agreedElems f.fmt e els).map (fun x => (roundFmt f.fmt (decodeFmt 0 x).1 .rne false 0).1))
  match (s.ctxOf f.ctx).bind (fun c => c.streams.find? (fun e => e.1 == f.index)) with
  | some e => .ok (s, conv e.2.2)
  | none => (s.fabRead (.ctx f.ctx) (f.dw 1).toNat f.len).map (fun r => (r.1, conv r.2))

/-- Carry out a fire (R313, R314, R316): its data go to every target; it completes at once, or when those on other devices have
acknowledged them. -/
def State.runFire (s : State) (f : Fire) (ent : Option (Nat × Int)) : State :=
  if f.ok = false ∨ s.present (.ctx f.ctx) = false then s.closeFire f 6
  else if s.takesPart f = false then s.closeFire f 7
  else match s.fireBytes f ent with
    | .error c => (s.freezeFor f.ctx c (f.dw 1)).closeFire f c
    | .ok (s, bs) =>
      let parts := flitsOf bs (f.dw 8).toNat 0
      let g : Fire := { f with sent := true, agreed := none, held := none }
      let r := (s.fireDevs f).foldl (fun (a : State × Fire) dev => a.1.deliver dev a.2 parts true) (s, g)
      if r.2.await.isEmpty then (r.1.putFire f r.2).closeFire r.2 r.2.code else r.1.putFire f r.2

/-! ### Fires under an agreement (R235, R314) -/

/-- The captured fires of this device that an agreement takes together: one of each participant, of one index and number (R314). -/
def State.matched (s : State) (f : Fire) : Option (List Fire) :=
  (f.ranks.filter (fun r => r.1 == s.devId)).foldl (fun a u => a.bind (fun l =>
    match s.fires.find? (fun g => g.ctx == u.2.2 && g.key == f.key && g.sag && g.group == f.group && !g.sent) with
    | some g => some (if s.takesPart g then l ++ [g] else l)
    | none => if s.stays f.group u then none else some l)) (some [])

/-- The records of some fires, or the first failure: its context and status. -/
def State.fireRecords (s : State) : List Fire → Except (BitVec 32 × Nat) (State × List (Fire × Nat))
  | [] => .ok (s, [])
  | f :: fs =>
    match s.fabRecord f.ctx (f.dw 4) with
    | .error c => .error (f.ctx, c)
    | .ok (s, pa) => (s.fireRecords fs).map (fun r => (r.1, (f, pa) :: r.2))

/-- Fires of one agreement complete with a status. -/
def State.closeFires (s : State) (fs : List Fire) (code : Nat) : State := fs.foldl (fun t f => t.closeFire f code) s

/-- Step 1 of an agreement of fires: their records latch, and this device's proposals go out (R235). -/
def State.askFires (s : State) (f : Fire) (fs : List Fire) : Option State :=
  match s.fireRecords fs with
  | .error (id, k) => some ((s.freezeFor id k 0).closeFires fs k)
  | .ok (s, rs) =>
    if rs.any (fun r => s.recHeld r.2) then none
    else some (rs.foldl (fun t r => t.putFire r.1 { r.1 with asked := true, held := some r.2, npart := rs.length + (s.fireFar f).length })
      (s.tellDevs (s.fireFar f) (rs.map (fun r =>
        let e := s.proposal r.2
        .propose f.group f.key (f.ranks.getD (s.rankIn f.ranks r.1.ctx) (0, 0, 0)) e.1 e.2))))

/-- Steps 2 and 3 (R235, R312). -/
def State.settleFires (s : State) (f : Fire) (fs : List Fire) : Option State :=
  (s.farEntries f.group f.key (s.fireFar f)).map (fun far =>
    let r := s.agreeOn (fs.filterMap (fun g => g.held)) far
    let t := { r.1 with props := r.1.props.filter (fun p => !(p.group == f.group && p.key == f.key)) }
    match r.2 with
    | none => t.closeFires fs 2
    | some e => fs.foldl (fun u g => u.putFire g { g with held := none, agreed := some e }) t)

/-- The next step of the fires of an agreement, if it can be made. -/
def State.fireNext (s : State) (f : Fire) : Option State :=
  (s.matched f).bind (fun fs =>
    match f.agreed with
    | some e => if s.ownUnmarked f then none else some (fs.foldl (fun t g => t.runFire g (some e)) s)
    | none => if f.asked then s.settleFires f fs else s.askFires f fs)

/-- Make the steps of an agreement until it waits; at most n. -/
def State.runFires (s : State) (f : Fire) : Nat → State
  | 0 => s
  | n + 1 =>
    match s.fireNext f with
    | none => s
    | some t =>
      match t.fires.find? (fun g => g.ctx == f.ctx && g.index == f.index && !g.sent) with
      | some g => t.runFires g n
      | none => t

/-- A fire of an operation that can take its course now; an invalid one counts as a copy. -/
def State.canFire (s : State) (op : Nat) (f : Fire) : Bool :=
  (if f.ok then f.op == op else op == 0) &&
  (if f.fed then (s.ctxOf f.ctx).isNone
   else if f.sent then f.await.isEmpty && !(s.dies.toList.any (fun d => d.port.any (fun x => x.ctx == f.ctx && x.index == f.index)))
   else !f.ok || !(s.takesPart f) || (if f.sag then (s.fireNext f).isSome else !(s.ownUnmarked f)))

/-- A row of the tile dispatch table: the first fire of its operation that can run (R314); with SAG the matched fires of all
members run together under one agreed entry (R235). -/
def fireRow (op : Nat) (s : State) : Out :=
  .next (match s.fires.find? (s.canFire op) with
    | none => s
    | some f =>
      if f.sent then s.closeFire f f.code
      else if f.ok ∧ f.sag ∧ s.takesPart f = true then s.runFires f 3
      else s.runFire f none)

/-- FIRE_COPY (R314). -/
def execFireCopy (s : State) : Out := fireRow 0 s
/-- FIRE_SUM (R314). -/
def execFireSum (s : State) : Out := fireRow 1 s
/-- FIRE_MAX (R314). -/
def execFireMax (s : State) : Out := fireRow 2 s

end Sys2Proof.Machine
end

