-- ==== Sys2Proof/Machine/Image.lean ====
section
/-! DEFINITION. The image of a context by the byte, at its offsets in the context area (R334): what a save writes and a dump
records. The places that the manual gives no layout of their own answer none. -/

namespace Sys2Proof.Machine

/-- A signature slot (R352). -/
def SigSlot.image (g : SigSlot) : Nat :=
  g.hash.toNat + g.bytes.toNat * 2 ^ 64 + (if g.valid then 2 ^ 96 else 0) + g.esn.toNat * 2 ^ 128

/-- The entries of the queues in engine order, 16, 8, 8 and 32 places (R16, R334). -/
def Ctx.queueImage (c : Ctx) (i : Nat) : Nat :=
  let at_ (e k : Nat) : Nat := (((c.queues.get e)[k]?).map (fun q => q.image.toNat)).getD 0
  if i < 16 then at_ 0 i else if i < 24 then at_ 1 (i - 16) else if i < 32 then at_ 2 (i - 24) else if i < 64 then at_ 3 (i - 32) else 0

/-- A row tag: the version and its valid bit (R334). -/
def tagImage (t : Option (BitVec 16)) : Nat := match t with | some v => v.toNat + 2 ^ 16 | none => 0

/-- Eight full/empty bits from word n on (R334). -/
def Ctx.feImage (c : Ctx) (n : Nat) : Nat := (List.range 8).foldl (fun a i => a + (if SMap.get false c.fe (n + i) then 2 ^ i else 0)) 0

/-- Byte `off` of the context area (R334). Log entry 20 (DESIGN CHOICE). -/
def Ctx.imageByte (c : Ctx) (off : Nat) : Option Byte :=
  let part (w i : Nat) : Option Byte := some (BitVec.ofNat 8 (w / 256 ^ i))
  if off < 0x8000 then part (SMap.get 0 c.backing (off / 256)).toNat (off % 256)
  else if off < 0x9000 then none
  else if off < 0x9200 then part (SMap.get 0 c.view ((off - 0x9000) / 2)).toNat (off % 2)
  else if off < 0x9280 then part (SMap.get 0 c.acct ((off - 0x9200) / 8)) (off % 8)
  else if off < 0xA000 then none
  else if off < 0xB000 then part (c.queueImage ((off - 0xA000) / 64)) (off % 64)
  else if off < 0xC000 then none
  else if off < 0x10000 then part (SMap.get SigSlot.blank c.sig ((off - 0xC000) / 64)).image (off % 64)
  else if off < 0x80000 then none
  else if off < 0x100000 then
    let k := (off - 0x80000) / 0x20000
    if c.task.accmask.getLsbD k ∧ (off - 0x80000) % 0x20000 < 98336 then
      ((c.tiles.get k).image)[(off - 0x80000) % 0x20000]?
    else none
  else if off < 0x280000 then
    (if off - 0x100000 < c.spres * 65536 then some (SMap.get 0 c.spad (off - 0x100000)) else none)
  else if off < 0x28C000 then part (c.feImage (8 * (off - 0x280000))) 0
  else if off < 0x290000 then none
  else if off < 0x290600 then part (tagImage (SMap.get none c.tags ((off - 0x290000) / 4))) (off % 4)
  else none

end Sys2Proof.Machine
end

