-- ==== Sys2Proof/Machine/Sched.lean ====
section
/-! DEFINITION. The scheduler of a die: the choice among ready tasks (R330), placement (R241, R243, R329), staging and
creation (R328, R335), pre-emption and save (R317, R332, R333), and resume (R321). -/

namespace Sys2Proof.Machine

/-! ### Plates (R241, R329) -/

/-- The resident contexts of a plate, frozen and halted ones too (R17). -/
def State.residents (s : State) (p : Plate) : List Ctx :=
  p.places.toList.filterMap (fun id => if id = 0 then none else s.ctxOf id)

/-- The lowest base of a reservation of n granules on a plate: a multiple of 4, free, and below SPCAP (R241, R270). -/
def State.baseFor (s : State) (p : Plate) (others : List Ctx) (n : Nat) : Option Nat :=
  if n = 0 then some 0
  else
    let cap := p.spcap (s.judgePoint (dieOfPlate p.id))
    let taken := others.flatMap (fun c => (List.range c.spres).map (fun i => c.base + i))
    [0, 4, 8, 12, 16, 20].find? (fun b => decide (b + n ≤ cap) && (List.range n).all (fun i => !(taken.contains (b + i))))

/-- Tiles that an allotment names. -/
def tilesOf (mask : BitVec 4) : Nat := ([0, 1, 2, 3].filter (fun i => mask.getLsbD i)).length

/-- A plate can take a task beside some of its residents: place, base and tiles (R329). -/
def State.eligible (s : State) (p : Plate) (others : List Ctx) (t : TaskRec) : Bool :=
  p.bound.isSome && decide (others.length < 4) && (s.baseFor p others t.spg).isSome &&
    decide (tilesOf t.accmask + (others.map (fun c => tilesOf c.task.accmask)).foldl (· + ·) 0 ≤ 4)

/-- The order of preference among eligible plates: the smaller first (R329). -/
def State.plateKey (s : State) (near : Option Nat) (p : Plate) : Nat :=
  (if near = some p.id then 0 else 100000) + (if p.active.isNone then 0 else 10000) +
    (s.residents p).length * 1000 + p.id % 128

/-- The plate a task goes to. -/
def State.choosePlate (s : State) (d : Nat) (t : TaskRec) (near : Option Nat) : Option Plate :=
  ((s.platesOf d).filter (fun p => s.eligible p (s.residents p) t)).foldl (fun best p => match best with
    | none => some p
    | some b => if s.plateKey near p < s.plateKey near b then some p else some b) none

/-! ### Candidates (R330) -/

/-- What competes for dispatch: a READY task or a SAVED context. -/
inductive Cand where
  | task (t : Task)
  | saved (c : Ctx)
  deriving DecidableEq, Repr

def Cand.rec_ : Cand → TaskRec
  | .task t => t.task
  | .saved c => c.task

/-- The cycle in which it became READY or SAVED. -/
def Cand.since : Cand → Nat
  | .task t => t.since
  | .saved c => c.since

def Cand.near : Cand → Option Nat
  | .task t => t.near
  | .saved c => some c.plate

/-- Effective priority: one more for each millisecond waited, 7 at most (R330). -/
def State.effective (s : State) (d : Nat) (c : Cand) : Nat :=
  min 7 (c.rec_.prio + (s.cycle - c.since) / s.micros d 1000)

/-- The place of a candidate's queue in the search, which starts above the queue of the last dispatch (R330). -/
def queueTurn (last q : Nat) : Nat := (q + 31 - last) % 16

/-- Candidate a comes before b (R330). -/
def State.before_ (s : State) (d : Nat) (a b : Cand) : Bool :=
  let last := (s.die d).lastQueue
  let ea := s.effective d a
  let eb := s.effective d b
  let qa := queueTurn last a.rec_.queue
  let qb := queueTurn last b.rec_.queue
  decide (eb < ea) || (ea == eb && (decide (qa < qb) || (qa == qb && decide (a.since < b.since))))

/-- Insert a candidate behind those that come no later. -/
def State.insertCand (s : State) (d : Nat) (c : Cand) : List Cand → List Cand
  | [] => [c]
  | x :: xs => if s.before_ d c x then c :: x :: xs else x :: s.insertCand d c xs

/-- The candidates of die d in the order of choice. -/
def State.candidates (s : State) (d : Nat) : List Cand :=
  let ready := (s.die d).queues.flatMap (fun q => (q.2.filter (fun t => t.st == .ready)).map Cand.task)
  let saved := (s.die d).saved.filterMap (fun id => (s.ctxOf id).map Cand.saved)
  (ready ++ saved).foldl (fun l c => s.insertCand d c l) []

/-- The units a candidate books before its first word: POWER, or what its save recorded (R209, R328). -/
def Cand.units : Cand → Nat
  | .task t => t.task.power
  | .saved c => c.saved

/-- A READY task that no plate will ever hold at this point ends with CAPACITY (R265, R327). -/
def State.tooLarge (s : State) (d : Nat) (c : Cand) : Bool :=
  match c with
  | .task t => !t.task.waitcap && decide (s.maxSpcap d < t.task.spg)
  | .saved _ => false

/-- What can be done for a candidate now: end it, or send it to a plate; its area must be free (R327, R333). -/
def State.dispatchable (s : State) (d : Nat) (c : Cand) : Option (Cand × Option Plate) :=
  if s.tooLarge d c then some (c, none)
  else match s.choosePlate d c.rec_ c.near with
    | none => none
    | some p =>
      let areaFree := match c with | .task _ => decide ((s.die d).areas < 1024) | .saved _ => true
      if areaFree then some (c, some p) else none

/-! ### Placement (R241, R243, R333) -/

/-- Take a task out of its queue. -/
def State.unqueue (s : State) (d : Nat) (t : Task) : State :=
  s.mdie d (fun e => { e with
    queues := SMap.set [] e.queues t.task.queue ((SMap.get [] e.queues t.task.queue).filter (fun u => !(u.seq == t.seq))),
    lastQueue := t.task.queue })

/-- A launch moves the boundary S of the plate in focus: lines whose placement changes, and lines in granules the scratchpad
takes, are written back by mask and dropped (R243). -/
def State.moveBoundary (s : State) (n : Nat) : State :=
  let p := s.plate
  let s := s.flushPlate p (fun l => !(l1Place p.s l.line == l1Place n l.line) || decide ((l1Place n l.line).1 < n))
  s.mplate (fun q => { q with s := n })

/-- The context in focus takes its place and its granules on its plate (R17, R241). -/
def State.place (s : State) : State :=
  let id := s.ctx.id
  let place := s.ctx.place
  let s := s.mplate (fun p => { p with places := p.places.set place id })
  let top := (s.residents s.plate).foldl (fun m c => if c.spres = 0 then m else max m (c.base + c.spres)) 0
  if top = s.plate.s then s else s.moveBoundary top

/-- The lowest free place of a plate (R17). -/
def Plate.freePlaceOf (p : Plate) : Nat := ((List.range 4).find? (fun i => p.places.get i == 0)).getD 0

/-- A CTXID of die d: the next SEQ, never 0 (R336). -/
def Die.newId (t : Die) : BitVec 32 := BitVec.ofNat 32 (t.id * 2 ^ 30 + t.nextId % 2 ^ 30)

/-- The SEQ after this one. -/
def Die.stepId (t : Die) : Die := { t with nextId := if t.nextId + 1 = 2 ^ 30 then 1 else t.nextId + 1 }

/-- A created context (R335). Log entry 6 (DESIGN CHOICE). Log entry 7 (DESIGN CHOICE). -/
def newCtx (s : State) (d : Nat) (p : Plate) (base : Nat) (t : TaskRec) : Ctx :=
  let sp := (SMap.get none (s.die d).bind t.queue).getD Space.blank
  Ctx.backed { Ctx.blank with
    id := (s.die d).newId, life := .placing, task := t, space := sp, die := d, plate := p.id, place := p.freePlaceOf, base := base,
    strands := Quad.all (StrandSt.init t.code),
    x := t.xs.foldl (fun m r => SMap.set (Cell.init 0) m r.1 (Cell.init r.2)) [],
    csr := { Csrs.init with accbase := sp.accbase, accctl := sp.accctl },
    view := (s.die d).mirror, since := s.cycle }

/-! ### Staging (R205, R322, R324, R328) -/

/-- The queue entry that a stage declaration stands for: CPY into the scratchpad with SB 0 and RH 0. -/
def stageEntry (spad len : Nat) (src : Word) (cv : Option (BitVec 5 × BitVec 2)) : QEntry :=
  let f5 := match cv with | some (h, _) => 2 + h.toNat * 4 | none => 0
  let f8 := match cv with | some (_, f) => f.toNat | none => 0
  { stencil := BitVec.ofNat 256 (0x3000 + spad * 2 ^ 48 + len * 2 ^ 64 + f5 * 2 ^ 80 + f8 * 2 ^ 128),
    rega := src, regb := 0, esn := 0, rmode := 0, spc := 0, sstr := 0, qp := false, qn := false, armed := true,
    clk := Clock.zero, views := [], stamped := 0 }

/-- Bind a handle of the context in focus to a record, as MDBIND does (R189, R324). -/
def State.bindStage (s : State) (h : BitVec 5) (record : Word) : Except Cause State :=
  if record.toNat % 128 ≠ 0 then .error .misalign
  else match s.resolve record.toNat 128 .load mdTarget with
    | .error (c, _) => .error c
    | .ok (s, { tgt := .mem x, .. } :: _) =>
      .ok ((s.mctx (fun c => { c with h := SMap.set none c.h h.toNat (some x.pa) })).touchRecord x.pa)
    | .ok _ => .error .page

/-- How a copy of the scheduler ended: a fault after completion ends the task too (R327). -/
def Ran.staged (r : Ran) : Go Unit :=
  match r with
  | .run s _ f =>
    match (f (Running.start s.ctx (stageEntry 0 0 0 none) 0 0 false)).fault with
    | some (c, a) => .stop s c a
    | none => .ok s ()
  | .hold a => .wait (a.getD 0)
  | .stop s c a => .stop s c a

/-- One declaration. -/
def State.stageOne (s : State) (i : Input) : Go Unit :=
  match i with
  | .stage spad len src => (cpyBody s (stageEntry spad len src none)).staged
  | .stageCv spad len src record h f =>
    match s.bindStage h record with
    | .error c => .stop s c record
    | .ok s => (cpyCvBody s (stageEntry spad len src (some (h, f)))).staged
  | _ => .ok s ()

/-- The stencil block: 2,048 bytes into s0 to s63 (R205, R322). -/
def State.loadBlock (s : State) : Go Unit :=
  let stb := s.ctx.task.stb
  if stb = 0 then .ok s ()
  else (s.engRead stb.toNat 2048 0 0).bind (fun s bs =>
    .ok (s.mctx (fun c => { c with
      stencil := (List.range 64).foldl (fun m i =>
        SMap.set 0 m i (BitVec.ofNat 256 (ofBytes ((bs.drop (32 * i)).take 32)))) c.stencil })) ())

/-- Everything a new context is given before its first word. -/
def State.stageAll (s : State) : Go Unit :=
  (goList (fun s i _ => s.stageOne i) s s.ctx.task.ins ()).bind (fun s _ => s.loadBlock)

/-! ### Creation, resume (R321, R328, R335) -/

/-- Book n units for the context in focus (R209, R328). -/
def State.book (s : State) (n : Nat) : State :=
  if n = 0 then s
  else
    let now := s.cycle
    (s.mdie s.ctx.die (fun t => t.take now n)).mctx (fun c => { c with
      booking := some { size := n, used := 0 }, saved := 0 })

/-- The last step of a dispatch: booking, acquire(device), the journal, the marker, activation; the placement time is still
to be charged SWITCH (R328, R331). -/
def State.takePlate (s : State) (units mark : Nat) : State :=
  let s := (s.book units).acquire 2
  let c := s.ctx
  let n := Config.launchCycles s.fresh
  let s := s.mctx (fun c => { c with since := s.cycle, hold := n, holdFor := .switch })
  let s := (s.journal c.die 2 2 0 (BitVec.ofNat 64 c.id.toNat) c.plate []).marker mark
  (if s.plate.active.isNone then s.mplate (fun p => { p with active := some c.id }) else s).bump

/-- The join of a new context, and the ring table its task registered becomes its own (R197, R308, R328). -/
def State.enrol (s : State) (seq : Nat) : State :=
  let t := s.ctx.task
  let id := s.ctx.id
  let s := s.mdie s.ctx.die (fun e => { e with
    rings := e.rings.map (fun (r : RingTab) => if r.seq = seq then { r with owner := .ctx id } else r) })
  if t.dv then (s.registerJoin t.domain id).mctx (fun c => { c with joining := some t.domain }) else s

/-- A task that ends without a context takes its ring table with it (R308). -/
def State.dropRings (s : State) (d seq : Nat) : State :=
  s.mdie d (fun e => { e with rings := e.rings.filter (fun r => !(r.seq == seq)) })

/-- The units that a PLACING context books are free (R209, R328). -/
def State.bookable (s : State) (q : Placing) : Bool := q.units == 0 || (s.die s.ctx.die).fits s.cycle q.units

/-- The staged context in focus is created or restored once it holds its booking (R327, R328). -/
def State.finishPlacing (s : State) (q : Placing) : State :=
  if s.bookable q then
    let s := (s.mctx (fun c => { c with life := .resident, placing := none })).takePlate q.units q.mark
    match q.seq with
    | some n => s.enrol n
    | none => s
  else s

/-- Staging has faulted: the task ends and gives back its place and its area (R327). -/
def State.failPlacing (s : State) (seq : Nat) (c : Cause) : State :=
  let d := s.ctx.die
  let s := (s.mctx (fun c => { c with life := .ended, placing := none })).freePlace
  ((s.mdie d (fun e => { e with areas := e.areas - 1 })).dropRings d seq).failTask d (BitVec.ofNat 32 (0x80000100 + c.code))

/-- The PLACING context in focus goes on: its staging, unless a read of it has to wait, then its booking (R327, R328). -/
def State.goOnPlacing (s : State) : State :=
  match s.ctx.placing with
  | none => s
  | some q =>
    if q.staged then s.finishPlacing q
    else match s.stageAll with
      | .wait _ => s
      | .stop u cause _ => u.failPlacing (q.seq.getD 0) cause
      | .ok u _ =>
        let q := { q with staged := true }
        (u.mctx (fun c => { c with placing := some q })).finishPlacing q

/-- Dispatch a READY task to a plate: it is PLACING (R327, R328). Log entry 20 (DESIGN CHOICE). -/
def State.launch (s : State) (d : Nat) (t : Task) (p : Plate) : State :=
  let c := { newCtx s d p ((s.baseFor p (s.residents p) t.task.spg).getD 0) t.task with
    placing := some { staged := false, units := t.task.power, mark := 0, seq := some t.seq } }
  (((s.unqueue d t).mdie d (fun e => { e.stepId with areas := e.areas + 1 })).enter c).place.goOnPlacing

/-- Resume a SAVED context on a plate: its image is written back (R321, R333). Log entry 20 (DESIGN CHOICE). -/
def State.resume (s : State) (d : Nat) (c : Ctx) (p : Plate) : State :=
  let base := (s.baseFor p (s.residents p) c.task.spg).getD 0
  let s := s.mdie d (fun e => { e with saved := e.saved.filter (fun x => !(x == c.id)), lastQueue := c.task.queue })
  let q : Placing := { staged := true, units := c.saved, mark := 2, seq := none }
  let s := (s.putCtx { c with life := .placing, placing := some q, die := d, plate := p.id, place := p.freePlaceOf, base := base }).focus c.id
  s.place.goOnPlacing

/-- The PLACING contexts of a die that may go on in this cycle, in ascending CTXID order of their table. -/
def State.placings (s : State) (d : Nat) : List (BitVec 32) :=
  (s.allCtxs.filter (fun c => c.die == d && c.life == .placing && (match c.placing with
    | some q => !q.staged || (s.focus c.id).bookable q
    | none => false))).map (fun c => c.id)

/-- What is PLACING on a die goes on. -/
def State.placingPass (s : State) (d : Nat) : State := (s.placings d).foldl (fun t id => (t.focus id).goOnPlacing) s

/-- Dispatch the first candidate that a plate can take, or that can only end (R328 to R330). -/
def State.dispatch (s : State) (d : Nat) : State :=
  match (s.candidates d).findSome? (s.dispatchable d) with
  | none => s
  | some (.task t, none) => ((s.unqueue d t).dropRings d t.seq).failTask d 0x80000002
  | some (.task t, some p) => s.launch d t p
  | some (.saved c, some p) => s.resume d c p
  | some (.saved _, none) => s

/-- TASK_DISPATCH: what is PLACING goes on, and the next candidate is placed (R327 to R330). Log entry 54 (UNVERIFIED). -/
def execTaskDispatch (die : BitVec 2) (s : State) : Out := .next ((s.placingPass die.toNat).dispatch die.toNat)

/-- TASK_DISPATCH has something to do. -/
def State.dispatchDue (s : State) (d : Nat) : Bool :=
  !(s.placings d).isEmpty || ((s.candidates d).findSome? (s.dispatchable d)).isSome

/-! ### Pre-emption (R317, R332 to R334) -/

/-- A context that is stopped for its save has no started command, and no copy into it runs (R187, R317). -/
def State.saveReady (s : State) (c : Ctx) : Bool :=
  c.saving && s.allPlates.all (fun p => p.running.toList.all (fun q => q.all (fun r =>
    r.left == 0 || !(r.ctx == c.id ||
      (opOf r.ent.stencil == some .cpm && decide (bitsOf r.ent.rega 63 32 = c.id.toNat))))))

/-- A context of die d whose save can be made. -/
def State.saveDue (s : State) (d : Nat) : Option Ctx :=
  s.allCtxs.find? (fun c => c.die == d && c.life == .resident && s.saveReady c)

/-- Every store of the context is performed, wherever it stands: a save moves it to another plate (R282). -/
def State.saveSet (s : State) : RelSet := fun t => t.1 == s.ctx.id.toNat

/-- Save a context: results land, its histogram updates and its stores are performed, its registers go to their backing area and
its queue entries to their 512-bit form, its booking returns with its size recorded, its plate is free (R152, R159, R209, R333,
R334). `Ctx.imageByte` lays the record out as the image; the record holds the rest. Log entry 20 (DESIGN CHOICE). -/
def State.save (s : State) (c : Ctx) : State :=
  let s := ((s.focus c.id).landAll).settleContribs c.id
  let s := (((s.releaseSet 2 s.saveSet).flushRegs.marker 1).dropAsks).mctx (fun c => { c with
    queues := c.queues.map (fun q => q.map QEntry.throughImage) })
  let size := match s.ctx.booking with | some b => b.size | none => 0
  let s := (s.giveBooking).mctx (fun c => { c with saved := size })
  let s := (s.mctx (fun c => { c with life := .saved, saving := false, hold := 0 })).deactivate.freePlace
  let now := s.cycle
  let s := (s.mctx (fun c => { c with since := now })).mdie c.die (fun e => { e with saved := e.saved ++ [c.id] })
  s.journal c.die 4 2 0 (BitVec.ofNat 64 c.id.toNat) c.plate []

/-- C waits in TEND or WAITC for its engine commands: the context ends without issuing again (R332). -/
def Ctx.endsAnyway (c : Ctx) : Bool := c.ending

/-- A context may be the victim for a candidate (R332). -/
def State.victimFor (s : State) (d : Nat) (t : Cand) (v : Ctx) : Bool :=
  v.die == d && v.life == .resident && !v.saving && !v.endsAnyway && decide (v.task.prio < s.effective d t) &&
    decide (s.micros d 50 ≤ s.cycle - v.since) &&
    s.eligible (s.plateOf v.plate) ((s.residents (s.plateOf v.plate)).filter (fun c => !(c.id == v.id))) t.rec_

/-- Victim a is taken before b: lowest PRIO, longest run, lowest PLATEID, lowest CTXID (R332). -/
def victimBefore (a b : Ctx) : Bool :=
  decide (a.task.prio < b.task.prio) || (a.task.prio == b.task.prio &&
    (decide (a.since < b.since) || (a.since == b.since &&
      (decide (a.plate < b.plate) || (a.plate == b.plate && decide (a.id.toNat < b.id.toNat))))))

/-- The victim for the first candidate that no plate can take and that has one. -/
def State.victim (s : State) (d : Nat) : Option Ctx :=
  (s.candidates d).findSome? (fun t =>
    if s.tooLarge d t ∨ (s.choosePlate d t.rec_ t.near).isSome then none
    else (s.allCtxs.filter (s.victimFor d t)).foldl (fun best v => match best with
      | none => some v
      | some b => if victimBefore v b then some v else some b) none)

/-- The strands of a victim stop at their boundaries; the event latch is set (R219, R333). -/
def Ctx.stopForSave (c : Ctx) : Ctx := { c with saving := true, latch := true }

/-- A context of the die is being saved. -/
def State.saving (s : State) (d : Nat) : Bool := s.allCtxs.any (fun c => c.die == d && c.saving && c.life == .resident)

/-- PREEMPT: a stopped context whose commands have run out is saved; else a victim stops (R317, R332, R333). -/
def execPreempt (die : BitVec 2) (s : State) : Out :=
  let d := die.toNat
  .next (match s.saveDue d with
    | some c => s.save c
    | none =>
      if s.saving d then s
      else match s.victim d with
        | some v => s.mctxOf v.id Ctx.stopForSave
        | none => s)

end Sys2Proof.Machine
end

