-- ==== Sys2Proof/Machine/Steps.lean ====
section
/-! DEFINITION. Operating points (R264, R266, R267, R272 to R274), the row maps that decide what a step moves (R262, R269,
R273), budgets (R275) and thermal protection (R385). -/

namespace Sys2Proof.Machine

/-! ### Responses (R374, R376, R377) -/

/-- The key of a mailbox: 0 the host's, 1 + d the supervisor mailbox of die d. -/
def Mail.key (m : Mail) : Nat := match m.sup with | none => 0 | some d => 1 + d.toNat

/-- An undefined response (R5, R376). Log entry 24 (DESIGN CHOICE). -/
def State.anyResp (s : State) : Resp :=
  let w (i : Nat) : Word := Config.freeWord s.fresh (2600 + i)
  { status := (w 0).toNat % 2 ^ 16, tag := (w 1).setWidth 32, data := (List.range ((w 2).toNat % 4088)).map (fun i => w (3 + i)) }

/-- GO of a mailbox: 1 from a command's start to its completion, when DONE is set (R375, R377). -/
def State.mailGo (s : State) (m : Mail) (go : Bool) : State :=
  match m.sup with
  | none => { s with control := { s.control with go := go, done := s.control.done || !go } }
  | some d => s.mdie d.toNat (fun t => { t with mail := { t.mail with go := go, done := t.mail.done || !go } })

/-- A command completes: its response, GO and DONE, and for the host mailbox vector 0 (R374 to R377).
Log entry 24 (DESIGN CHOICE). -/
def State.reply (s : State) (m : Mail) (status : Nat) (data : List Word) : State :=
  let k := Mail.key m
  let r : Resp := if s.spoilt.contains k then s.anyResp else { status := status, tag := m.tag, data := data }
  let s := ({ s with resp := SMap.set none s.resp k (some r), spoilt := s.spoilt.filter (fun x => !(x == k)) }).mailGo m false
  if m.sup.isNone then s.signal 0 else s

/-- The mailboxes of commands that complete later and are still in progress: OP_SET or DUMP (R377). -/
def State.inProgress (s : State) : List Mail :=
  s.dies.toList.flatMap (fun (t : Die) => (t.step.toList ++ t.pending).filterMap (fun r => r.mail)) ++ (s.dump.bind (fun p => p.mail)).toList

/-- A command of a mailbox is in progress. -/
def State.mailMine (s : State) (m : Mail) : Bool := s.inProgress.any (fun k => k.sup == m.sup)

/-- A command written while one of its mailbox is in progress is ignored: OVR, and the response to come is undefined
(R375 to R377). -/
def State.overrun (s : State) (m : Mail) : State :=
  let s := { s with spoilt := if s.spoilt.contains (Mail.key m) then s.spoilt else s.spoilt ++ [Mail.key m] }
  match m.sup with
  | none => { s with control := { s.control with ovr := true } }
  | some d => s.mdie d.toNat (fun t => { t with mail := { t.mail with ovr := true } })

/-- The source a command names in the journal: host or supervisor (R339). -/
def mailSource (m : Mail) : Nat := if m.sup.isNone then 0 else 4

/-! ### Row maps (R262, R263, R269) -/

/-- The spares that serve at a point, ascending. -/
def Plate.goodSpares (p : Plate) (point : Nat) : List Nat :=
  (List.range 16).filter (fun n => !(doomedAt point (SMap.get 15 p.rows (512 + n))))

/-- The physical unit that serves a logical row at a point: itself, 512 + n for spare n, none when lost (R262). -/
def Plate.serving (p : Plate) (point row : Nat) : Option Nat :=
  if doomedAt point (SMap.get 15 p.rows row) then
    (let before := ((List.range row).filter (fun r => doomedAt point (SMap.get 15 p.rows r))).length
     (p.goodSpares point)[before]?.map (fun n => 512 + n))
  else some row

/-- The row an L1 line sits in (R261). -/
def Plate.rowOfLine (p : Plate) (l : L1Line) : Nat := 16 * (l1Place p.s l.line).1 + l.way

/-- The rows of a plate that hold live data (R264). -/
def State.liveRows (s : State) (p : Plate) : List Nat :=
  let owned (r : Nat) : Bool := (s.residents p).any (fun c => decide (c.base ≤ r / 16) && decide (r / 16 < c.base + c.spres))
  (p.rows.map (fun e => e.1)).filter (fun r => decide (r < 512) && (owned r || p.l1.any (fun l => p.rowOfLine l == r)))

/-- Live rows whose unit differs between two points and that are not lost at the second: each takes 18 cycles (R264, R274). -/
def State.rowsMoved (s : State) (p : Plate) (m n : Nat) : Nat :=
  ((s.liveRows p).filter (fun r => (p.serving n r).isSome && p.serving n r != p.serving m r)).length

/-- Cycles in which the maps of a die move. -/
def State.moveTime (s : State) (d m n : Nat) : Nat :=
  (s.platesOf d).foldl (fun t p => max t (18 * s.rowsMoved p m n)) 0

/-- A resident context whose reservation holds a row lost at a point (R264). -/
def State.losesRow (s : State) (c : Ctx) (point : Nat) : Bool :=
  ((s.plateOf c.plate).lostRows point).any (fun r => decide (c.base ≤ r / 16) && decide (r / 16 < c.base + c.spres))

/-! ### Availability (R267) -/

/-- A line of register-cache bank 0 or 1 is lost at a point: two of its 17 lines fail (R267, R269). -/
def Plate.losesBank (p : Plate) (point : Nat) : Bool :=
  [0, 1].any (fun b => decide (1 < (p.regRows.filter (fun e => e.1 / 17 == b && doomedAt point e.2)).length))

/-- A point is unavailable to a die (R267). -/
def State.unavailable (s : State) (d point : Nat) : Bool :=
  let t := s.die d
  !(point == 0 || point == 6) &&
    ((s.platesOf d).any (fun p => p.losesBank point) || (List.range 256).any (fun i => (t.ordinaryWays point i).isEmpty) ||
      (point == 7 && decide (t.budget < 1300)))

/-! ### Requests (R272) -/

/-- Voltage of a point in hundredths of a volt (01, "Capacity depends on voltage"). -/
def centivolts (point : Nat) : Nat :=
  match point with
  | 0 => 60 | 1 => 62 | 2 => 65 | 3 => 68 | 4 => 72 | 5 => 76 | 6 => 80 | _ => 86

/-- A request is judged against the point the die is at: it starts a step, or is none, or is refused with status 3 (R272). -/
def State.judgeStep (s : State) (d : Nat) (r : OpStep) : State :=
  let t := s.die d
  let answer (s : State) (k : Nat) : State := match r.mail with | some m => s.reply m k [] | none => s
  if r.target = t.point then answer s 0
  else if s.unavailable d r.target then answer s 3
  else
    let settle := if t.point < r.target then s.micros d (centivolts r.target - centivolts t.point) else 0
    s.mdie d (fun t => { t with step := some { r with moving := false, settling := false, wait := settle } })

/-- Take waiting requests until one starts a step. -/
def State.nextStep (s : State) (d : Nat) : Nat → State
  | 0 => s
  | n + 1 =>
    match (s.die d).step, (s.die d).pending with
    | none, r :: rs => ((s.mdie d (fun t => { t with pending := rs })).judgeStep d r).nextStep d n
    | _, _ => s

/-- A request for a point: while a step runs it waits (R272). -/
def State.requestStep (s : State) (d target source : Nat) (mail : Option Mail) : State :=
  let r : OpStep := { target := target, source := source, mail := mail, moving := false, settling := false, wait := 0 }
  if (s.die d).step.isSome then s.mdie d (fun t => { t with pending := t.pending ++ [r] }) else s.judgeStep d r

/-! ### The step itself (R264, R273, R274) -/

/-- Started commands of a die have run out. -/
def State.dieQuiet (s : State) (d : Nat) : Bool :=
  s.allPlates.all (fun p => dieOfPlate p.id != d || p.running.toList.all (fun q => q.all (fun r => r.left == 0)))

/-- Lines of the L1s, of the L2 and of the register caches in rows, ways and lines lost at a point are written back if dirty and
dropped (R264, R273). -/
def State.evacuate (s : State) (d point : Nat) : State :=
  ((s.platesOf d).foldl (fun t p =>
    (t.flushPlate (t.plateOf p.id) (fun l => (p.lostRows point).contains (p.rowOfLine l))).trimPlate p.id point) s).dropLost d point

/-- The strands of a die stop; a downward step evacuates and stops the contexts that lose rows for their save (R264). -/
def State.startMove (s : State) (d : Nat) (r : OpStep) : State :=
  let m := (s.die d).point
  let w := s.moveTime d m r.target
  let s := s.mdie d (fun t => { t with step := some { r with moving := true, wait := w } })
  if r.target < m then
    (s.evacuate d r.target).mapCtxs (fun c =>
      if c.die = d ∧ (c.life = .resident ∨ c.life = .placing) ∧ s.losesRow c r.target = true then c.stopForSave else c)
  else s

/-- In one cycle POINT and SPCAP of every plate take the values of the new point; the step is journalled and answered, and
the next request is taken (R264, R272, R274). -/
def State.endStep (s : State) (d : Nat) (r : OpStep) : State :=
  let old := (s.die d).point
  let s := (if r.target < old then s.evacuate d r.target else s).mdie d (fun t => { t with point := r.target, step := none })
  let s := s.journal d 5 r.source 0 (BitVec.ofNat 64 d) 0 [BitVec.ofNat 64 old, BitVec.ofNat 64 r.target]
  let s := match r.mail with | some m => s.reply m 0 [] | none => s
  s.nextStep d (s.die d).pending.length

/-- What a step that moves its maps still waits for: the copies, started commands, saves. -/
def State.moveDone (s : State) (d : Nat) (r : OpStep) : Bool :=
  r.moving && r.wait == 0 && s.dieQuiet d && !(s.saving d)

/-- The voltage of a downward step falls: it settles at the new point's clock, the strands still stopped (R264, R272).
Log entry 42 (DEDUCED). -/
def State.startFall (s : State) (d : Nat) (r : OpStep) : State :=
  let w := (centivolts (s.die d).point - centivolts r.target) * clockMhz r.target
  s.mdie d (fun t => { t with step := some { r with settling := true, wait := w } })

/-- DOWNWARD_STEP (R264, R272, R273): its evacuation, the fall of the voltage, then its end. Log entry 42 (DEDUCED). -/
def execDownwardStep (die : BitVec 2) (s : State) : Out :=
  let d := die.toNat
  .next (match (s.die d).step with
    | none => s
    | some r =>
      if (s.die d).point ≤ r.target then s
      else if r.moving = false then s.startMove d r
      else if s.moveDone d r = false then s
      else if r.settling then s.endStep d r else s.startFall d r)

/-- REMAP (R274): the voltage has settled; live rows move. -/
def execRemap (die : BitVec 2) (s : State) : Out :=
  let d := die.toNat
  .next (match (s.die d).step with
    | none => s
    | some r => if (s.die d).point < r.target ∧ r.moving = false ∧ r.wait = 0 then s.startMove d r else s)

/-- UPWARD_STEP (R274): the clock rises. -/
def execUpwardStep (die : BitVec 2) (s : State) : Out :=
  let d := die.toNat
  .next (match (s.die d).step with
    | none => s
    | some r => if (s.die d).point < r.target ∧ s.moveDone d r = true then s.endStep d r else s)

/-! ### Budgets (R275) and thermal protection (R385) -/

/-- A die's budget changes, with its BUDGET entry (R275). -/
def State.setBudget (s : State) (d n source : Nat) : State :=
  let old := (s.die d).budget
  (s.mdie d (fun t => { t with budget := n })).journal d 10 source 0 (BitVec.ofNat 64 d) 0 [BitVec.ofNat 64 old, BitVec.ofNat 64 n]

/-- 10 ms have passed since a thermal action. Log entry 41 (DESIGN CHOICE). -/
def State.thermalDue (s : State) (d : Nat) (last : Option Nat) : Bool :=
  match last with
  | none => true
  | some c => decide (s.micros d 10000 ≤ s.cycle - c)

/-- A step is running or waiting on a die. -/
def Die.stepping (t : Die) : Bool := t.step.isSome || !t.pending.isEmpty

/-- The budget of a die is not lowered below OP7's yet: it is at OP7, or a step takes it there (R275, R385). -/
def Die.keepsTop (t : Die) : Bool := t.point == 7 || t.step.any (fun r => r.target == 7)

/-- THERMAL_BUDGET_LOWER (R275, R385): a die at OP7 is first stepped to OP6. -/
def execThermalBudgetLower (die : BitVec 2) (s : State) : Out :=
  let d := die.toNat
  let t := s.die d
  .next (if t.junction < 95 ∨ s.thermalDue d t.lowered = false then s
    else if t.keepsTop then (if t.stepping then s else s.requestStep d 6 3 none)
    else if t.budget ≤ 600 then s
    else (s.setBudget d (max 600 (t.budget - 100)) 3).mdie d (fun t => { t with lowered := some s.cycle }))

/-- Where thermal protection sends a die: from above OP3 to OP3, else to the next lower available point (R385). -/
def State.coolPoint (s : State) (d : Nat) : Option Nat :=
  let p := (s.die d).point
  ((List.range (min p 4)).reverse).find? (fun n => !(s.unavailable d n))

/-- THERMAL_STEP (R385). -/
def execThermalStep (die : BitVec 2) (s : State) : Out :=
  let d := die.toNat
  let t := s.die d
  .next (if t.junction < 105 ∨ s.thermalDue d t.stepped = false ∨ t.stepping = true then s
    else match s.coolPoint d with
      | none => s
      | some n => (s.mdie d (fun t => { t with stepped := some s.cycle })).requestStep d n 3 none)

/-- A failure of the staged start or a hardware trip: STAGE 15, the code, and the failing die's DIEOK (R380). -/
def State.failStage (s : State) (die : Option Nat) (code : Nat) : State :=
  let ok (k : BitVec 4) : BitVec 4 := match die with
    | some d => BitVec.ofNat 4 (k.toNat - k.toNat / 2 ^ d % 2 * 2 ^ d)
    | none => k
  { s with control := { s.control with stage := 15, fcode := BitVec.ofNat 8 code, dieok := ok s.control.dieok } }

/-- THERMAL_TRIP (R385). -/
def execThermalTrip (die : BitVec 2) (s : State) : Out :=
  .next (if (s.die die.toNat).junction < 115 then s else s.failStage (some die.toNat) 0x30)

end Sys2Proof.Machine
end

