-- ==== Sys2Proof/Machine/Debug.lean ====
section
/-! DEFINITION. Frozen masters (R360 to R363), comparators, stepping, trace and samples (R364 to R369), soft errors and
scrubbing (R357 to R359), the consistent-cut dump (R370 to R373), and when a mailbox command is served (R376 to R378). -/

namespace Sys2Proof.Machine

/-! ### When a command is served (R376, R378, R380) -/

/-- The status that turns a command away: before its stage 1, not for supervisors 4; after a failure the mailbox keeps
serving the commands of stage 1 or lower (R376, R378, R380). -/
def State.turnedAway (s : State) (m : Mail) (stage : Nat) (sup : Bool) : Option Nat :=
  let now := if s.control.stage = 15 then 1 else s.control.stage
  if now < stage then some 1 else if m.sup.isSome && !sup then some 4 else none

/-- A command from a stage on: ignored, turned away, or served by `f` (R375 to R378). -/
def mailRow (m : Mail) (stage : Nat) (sup : Bool) (f : State → State) (s : State) : Out :=
  .next (if s.mailMine m then s.overrun m
    else match s.turnedAway m stage sup with
    | some n => s.reply m n []
    | none => f (s.mailGo m true))

/-! ### Frozen masters (R361 to R363) -/

/-- A context that is resident again: its plate activates it when none is active (R331). -/
def State.wake (s : State) : State :=
  let s := s.mctx (fun c => { c with life := .resident })
  if s.plate.active.isNone then s.activateNext else s

/-- The command of a recorded engine fault runs again from its start, at its queue head (R363). -/
def Ctx.requeue (c : Ctx) : Ctx :=
  if c.csr.eng then
    [0, 1, 2, 3].foldl (fun (c : Ctx) (i : Nat) =>
      match Quad.get c.held i with
      | some h =>
        if h.delivered ∧ h.ent.esn.toNat = c.csr.tesn.toNat then
          { c with held := c.held.set i none,
                   queues := if h.after then c.queues else c.queues.set i (h.ent :: c.queues.get i) }
        else c
      | none => c) c
  else c

/-- KILL of the context in focus: queued commands are discarded, started ones complete; it withdraws without a release
and ends (R363). Log entry 25 (DESIGN CHOICE). -/
def State.killCtx (s : State) (source : Nat) : State :=
  let s := match s.ctx.placing.bind (fun q => q.seq) with
    | some n => s.dropRings s.ctx.die n
    | none => s
  s.withdraw.endCtxBy source 0x80000003

/-- KILL (R363). Log entry 50 (DESIGN CHOICE). -/
def execKill (m : Mail) (target : Master) (s : State) : Out :=
  mailRow m 5 true (fun s => match target with
    | .ctx id => match s.ctxOf id with
      | some _ => ((s.focus id).killCtx (mailSource m)).reply m 0 []
      | none => s.reply m 2 []
    | _ => s.reply m 2 []) s

/-- A frozen host command function takes entries again (R363). -/
def State.thawHost (s : State) (m : Mail) : State :=
  if s.control.frozen then ({ s with control := { s.control with frozen := false } }).reply m 0 [] else s.reply m 3 []

/-- A frozen peer's flits are taken again (R363). -/
def State.thawPeer (s : State) (m : Mail) (p : Nat) (dev : BitVec 12) : State :=
  if (s.portOf p).frozen.contains dev then
    (s.mport p (fun q => { q with frozen := q.frozen.filter (fun d => !(d == dev)) })).reply m 0 []
  else s.reply m 3 []

/-- THAW mode 0: a frozen context resumes, a halted one as by DBG_RESUME without STEP; the host command function and a
peer resume taking entries and flits (R363). Log entry 50 (DESIGN CHOICE). -/
def execThaw (m : Mail) (target : Master) (s : State) : Out :=
  mailRow m 5 true (fun s => match target with
    | .ctx id => match s.ctxOf id with
      | some c =>
        if c.life = .frozen then (((s.focus id).mctx Ctx.requeue).wake).reply m 0 []
        else if c.life = .halted then (((s.focus id).mctx (fun c => { c with steps := none })).wake).reply m 0 []
        else s.reply m 3 []
      | none => s.reply m 2 []
    | .host => s.thawHost m
    | .peer p dev => s.thawPeer m p.toNat dev) s

/-- THAW mode 1: the recorded fault goes to TVEC; refused while ACT = 1 and for a halted context; the host command function and a
peer resume as in mode 0 (R363). -/
def execThawMode1 (m : Mail) (target : Master) (s : State) : Out :=
  mailRow m 5 true (fun s => match target with
    | .ctx id => match s.ctxOf id with
      | some c =>
        let t := (s.focus id).wake
        if c.life = .frozen ∧ c.csr.act = false then (t.vectorTrap (t.ctx.pending (bitsOf c.csr.tstrand 1 0))).reply m 0 []
        else s.reply m 3 []
      | none => s.reply m 2 []
    | .host => s.thawHost m
    | .peer p dev => s.thawPeer m p.toNat dev) s

/-! ### Comparators and stepping (R364 to R367) -/

/-- DBG_SET sets or clears a comparator of a plate (R364). -/
def execDbgSet (m : Mail) (plate : BitVec 9) (comp : Comparator) (s : State) : Out :=
  mailRow m 5 true (fun s =>
    let p := s.plateOf plate.toNat
    match comp with
    | .instr i en asid ctx addr =>
      (s.putPlate { p with ibps := SMap.set none p.ibps i.toNat (if en then some (InstrBp.mk asid ctx addr) else none) }).reply m 0 []
    | .engine i en asid ctx spc esn =>
      (s.putPlate { p with ebps := SMap.set none p.ebps i.toNat (if en then some (EngBp.mk asid ctx spc esn) else none) }).reply m 0 []
    | .watch i en asid ctx base len kinds trap =>
      if 2 ^ 32 < len.toNat then s.reply m 2 []
      else
        let w := if en then some (Watch.mk asid ctx base len.toNat kinds trap) else none
        (s.putPlate { p with watches := SMap.set none p.watches i.toNat w }).reply m 0 []) s

/-- DBG_RESUME (R367). Log entry 50 (DESIGN CHOICE). -/
def execDbgResume (m : Mail) (ctx : BitVec 32) (steps : BitVec 32) (engstep : Option Bool) (s : State) : Out :=
  mailRow m 5 true (fun s => match s.ctxOf ctx with
    | some c =>
      if c.life = .halted then
        (((s.focus ctx).mctx (fun c => { c with
          steps := if steps = 0 then none else some steps.toNat, engstep := engstep.getD c.engstep })).wake).reply m 0 []
      else s.reply m 3 []
    | none => s.reply m 2 []) s

/-- The breakpoint that stops the context in focus before the word or bundle at an address (R364, R365).
Log entry 50 (DESIGN CHOICE). -/
def State.instrStop (s : State) (addr : Word) : Option Nat :=
  if s.ctx.ibPass = some addr then none
  else s.plate.ibps.findSome? (fun e => e.2.bind (fun b =>
    if b.asid = s.ctx.space.asid ∧ (b.ctx = none ∨ b.ctx = some s.ctx.id) ∧ b.addr = addr then some e.1 else none))

/-- The engine breakpoint that holds a command of context c (R364, R365). -/
def Plate.engineStop (p : Plate) (c : Ctx) (q : QEntry) : Option Nat :=
  if c.bpPass = some q.esn then none
  else p.ebps.findSome? (fun e => e.2.bind (fun b =>
    if b.asid = c.space.asid ∧ (b.ctx = none ∨ b.ctx = some c.id) ∧ b.spc = q.spc ∧ (b.esn = none ∨ b.esn = some q.esn)
    then some e.1 else none))

/-- Stop the context in focus at instruction breakpoint i, before the word at an address (R365).
Log entry 50 (DESIGN CHOICE). -/
def State.stopAtWord (s : State) (i : Nat) (addr : Word) : State :=
  (s.mctx (fun c => { c with ibPass := some addr })).haltCtx [Config.comparatorName 0 i, addr, 0, 0]

/-- Stop context c at engine breakpoint i, before a command starts (R365). -/
def State.stopAtCommand (s : State) (i : Nat) (c : Ctx) (q : QEntry) : State :=
  ((s.focus c.id).mctx (fun c => { c with bpPass := some q.esn })).haltCtx
    [Config.comparatorName 1 i, q.spc, BitVec.ofNat 64 q.esn.toNat, 0]

/-! ### Trace and samples (R368, R369) -/

/-- DBG_TRACE sets a plate's ring (R368). -/
def execDbgTrace (m : Mail) (plate : BitVec 9) (base : Word) (logsz : BitVec 5) (kinds : BitVec 7) (interval : BitVec 5)
    (s : State) : Out :=
  mailRow m 5 true (fun s =>
    if logsz.toNat < 12 ∨ 24 < logsz.toNat ∨ interval.toNat < 10 ∨ 24 < interval.toNat then s.reply m 2 []
    else (s.putPlate { (s.plateOf plate.toNat) with
      trace := some (TraceCfg.mk base logsz.toNat kinds interval.toNat 0 0) }).reply m 0 []) s

/-- A plate's sample falls in this cycle (R368). -/
def State.sampleDue (s : State) (p : Plate) : Bool :=
  match p.trace with
  | some t => t.kinds.getLsbD 0 && s.cycle % 2 ^ t.interval == 0
  | none => false

/-- The ESN of the command an engine of the plate in focus runs, or 0. -/
def State.runningEsn (s : State) (e : Engine) : Nat :=
  match (s.plate.running.get e.num).find? (fun r => decide (0 < r.left)) with
  | some r => r.ent.esn.toNat
  | none => 0

/-- The sample of a plate: its active context, or CTXID 0 and PCs 0 (R369). -/
def State.sample (s : State) (p : Plate) : State :=
  let running (s : State) : Word := BitVec.ofNat 64 (s.runningEsn .mxe + s.runningEsn .cpe * 2 ^ 32)
  match p.active with
  | none =>
    let s := s.focusPlate p.id
    s.traceAs 0 0 [0, 0, 0, 0, 0, running s]
  | some id =>
    let s := s.focus id
    let c := s.ctx
    let pc (k : Nat) : Word := setBits (c.strands.get k).pc 63 57 0
    let causes := (c.slots.get 0).code + (c.slots.get 1).code * 16 + (c.slots.get 2).code * 256 + (c.slots.get 3).code * 4096
    s.traceAs id 0 [pc 0, pc 1, pc 2, pc 3, BitVec.ofNat 64 (causes + c.esn.toNat * 2 ^ 32), running s]

/-- TRACE_SAMPLE: every plate whose interval has passed samples (R368, R369). -/
def execTraceSample (s : State) : Out :=
  .next ((s.allPlates.filter s.sampleDue).foldl (fun t p => t.sample (t.plateOf p.id)) s)

/-! ### Soft errors (R357 to R359) -/

/-- The row of an array in R357's table. -/
def arrayRow : SramArray → Nat
  | .regcache _ _ => 0
  | .icache _ => 1
  | .metacache _ => 1
  | .tlb _ => 1
  | .l1 _ _ => 2
  | .scratchpad _ _ => 3
  | .accumulator _ _ _ _ => 4
  | .stencil _ _ => 5
  | .queue _ _ _ => 5
  | .l2 _ _ => 6
  | .memory _ => 7

/-- The context whose rows an array holds. -/
def arrayOwner : SramArray → Option (BitVec 32)
  | .regcache id _ => some id
  | .scratchpad id _ => some id
  | .accumulator id _ _ _ => some id
  | .stencil id _ => some id
  | .queue id _ _ => some id
  | _ => none

/-- The die of an array. -/
def State.arrayDie (s : State) (a : SramArray) : Nat :=
  match a with
  | .icache p => dieOfPlate p.toNat
  | .metacache p => dieOfPlate p.toNat
  | .tlb p => dieOfPlate p.toNat
  | .l1 p _ => dieOfPlate p.toNat
  | .l2 d _ => d.toNat
  | .memory pa => homeDie pa
  | _ => match (arrayOwner a).bind s.ctxOf with
    | some c => c.die
    | none => 0

/-- Corrected errors of an array of a die: those since its last event, and one more than that event's cycle (R359). -/
def Die.correctedOf (t : Die) (array : Nat) : Nat × Nat := SMap.get (0, 0) t.corrected array

/-- One more corrected error (R357, R359). Log entry 33 (DESIGN CHOICE). -/
def State.countCorrected (s : State) (a : SramArray) : State :=
  let k := (Config.arrayNumber (arrayRow a)).toNat
  s.mdie (s.arrayDie a) (fun t =>
    { t with corrected := SMap.set (0, 0) t.corrected k ((t.correctedOf k).1 + 1, (t.correctedOf k).2) })

/-- The 64-byte units of a line in which a mask has a byte. -/
def dirtyUnits (mask : BitVec 128) : BitVec 2 :=
  BitVec.ofNat 2 ((if mask.toNat % 2 ^ 64 = 0 then 0 else 1) + (if mask.toNat / 2 ^ 64 = 0 then 0 else 2))

/-- Poison the units of a line that a mask picks (R358). -/
def State.poisonLine (s : State) (line : Nat) (units : BitVec 2) : State :=
  (List.range 2).foldl (fun t i => if units.getLsbD i then t.poisonUnit (line * 2 + i) else t) s

/-- A line of an L1: dropped when clean; its dirty bytes are poisoned otherwise, one event a unit (R357, R358). -/
def State.l1Error (s : State) (plate line : Nat) : State :=
  let p := s.plateOf plate
  match p.l1Find line with
  | none => s
  | some l =>
    if l.dirty = 0 then s.putPlate { p with l1 := p.l1.filter (fun e => !(e.line == line)) }
    else
      let units := dirtyUnits l.dirty
      let s := s.putPlate { p with l1 := p.l1.map (fun e => if e.line == line then { e with poison := e.poison ||| units } else e) }
      (List.range 2).foldl (fun t i =>
        if units.getLsbD i && !(l.poison.getLsbD i) then
          t.post (dieOfPlate plate) 5 plate 0 (BitVec.ofNat 64 (line * 128 + 64 * i)) (BitVec.ofNat 64 (line * 128 + 64 * i))
        else t) s

/-- A line of an L2: a clean one is fetched from home again, a dirty or carved one is poisoned (R357). -/
def State.l2Error (s : State) (d line : Nat) : State :=
  if isCarved (line * 128) then s.poisonLine line 3
  else match (s.die d).l2.find? (fun e => e.line == line) with
    | none => s
    | some e =>
      if e.dirty ≠ 0 then s.poisonLine line (dirtyUnits e.dirty)
      else if e.swm then s.mdie d (fun t => { t with l2 := t.l2.map (fun u => if u.line == line then { u with data := s.memLine line } else u) })
      else s

/-- An uncorrectable error strikes an array: another copy is fetched again, the sole copy is poisoned or stays bad until a
reader meets it or it is written (R357). A register line that no plate holds has no cell to strike. -/
def State.uncorrectable (s : State) (a : SramArray) : State :=
  let plant (s : State) : State := { s with bad := if s.bad.contains a then s.bad else s.bad ++ [a] }
  match a with
  | .regcache id off => if s.allPlates.any (fun p => p.rcache.any (fun e => e.ctx == id && e.line == off / 256)) then plant s else s
  | .icache p => s.putPlate { (s.plateOf p.toNat) with icache := [] }
  | .metacache p => s.putPlate { (s.plateOf p.toNat) with mcache := [] }
  | .tlb p => s.putPlate { (s.plateOf p.toNat) with tlb := [] }
  | .l1 p line => s.l1Error p.toNat line
  | .l2 d line => s.l2Error d.toNat line
  | .memory pa => s.poisonUnit (pa / 64)
  | _ => plant s

/-- An upset: two bits in one unit, or a second bit beside one not yet found, are uncorrectable (R357). -/
def State.upset (s : State) (u : Upset) : State :=
  if u.double ∨ s.soft.contains u.array = true then
    ({ s with soft := s.soft.filter (fun a => !(a == u.array)) }).uncorrectable u.array
  else { s with soft := s.soft ++ [u.array] }

/-- SOFT_ERROR (R357). Log entry 33 (DESIGN CHOICE). -/
def execSoftError (u : Upset) (s : State) : Out := .next (s.upset u)

/-- DBG_INJECT: refused unless the context is in TEST mode (R366). -/
def execDbgInject (m : Mail) (ctx : BitVec 32) (upset : Upset) (s : State) : Out :=
  mailRow m 5 true (fun s => match s.ctxOf ctx with
    | none => s.reply m 2 []
    | some c =>
      if c.task.mode ≠ 2 then s.reply m 3 []
      else if arrayOwner upset.array ≠ some ctx then s.reply m 2 []
      else (s.upset upset).reply m 0 []) s

/-- The scrub of a cycle reaches an array of die d: every SRAM row each time, the HBM once in 24 h (R359). -/
def State.scrubs (s : State) (d : Nat) (a : SramArray) : Bool :=
  s.arrayDie a == d && (match a with
    | .memory _ => s.cycle % max (s.micros d 86400000000) 1 == 0
    | _ => true)

/-- A scrub finds a bad register line: a clean one is dropped, and its error with it (R357, R359). -/
def State.scrubLine (s : State) (a : SramArray) : State :=
  match a with
  | .regcache id off =>
    let mine (e : RegLine) : Bool := e.ctx == id && e.line == off / 256
    if s.allPlates.any (fun p => p.rcache.any (fun e => mine e && e.dirty)) then s
    else { (s.mapPlates (fun p => { p with rcache := p.rcache.filter (fun e => !(mine e)) })) with
           bad := s.bad.filter (fun b => !(b == a)) }
  | _ => s

/-- SCRUB: the errors not yet found in the arrays of a die are corrected and counted; one that cannot be corrected goes with a
clean line, and stays where its data has no other copy (R357, R359). Log entry 33 (DESIGN CHOICE). Log entry 41 (DESIGN CHOICE). -/
def execScrub (die : BitVec 2) (s : State) : Out :=
  let d := die.toNat
  .next ((s.bad.filter (s.scrubs d)).foldl State.scrubLine
    ((s.soft.filter (s.scrubs d)).foldl (fun (t : State) (a : SramArray) => t.countCorrected a)
      { s with soft := s.soft.filter (fun a => !(s.scrubs d a)) }))

/-- An array's corrected errors may be posted: at most one event a millisecond (R359). -/
def State.correctedDue (s : State) (d k : Nat) : Bool :=
  let e := (s.die d).correctedOf k
  decide (0 < e.1) && (e.2 == 0 || decide (s.micros d 1000 ≤ s.cycle + 1 - e.2))

/-- CORRECTED_ERROR_EVENT (R356, R359). -/
def execCorrectedErrorEvent (die : BitVec 2) (array : BitVec 8) (s : State) : Out :=
  let d := die.toNat
  let k := array.toNat
  .next (if s.correctedDue d k then
      let n := ((s.die d).correctedOf k).1
      (s.post d 4 0x1FF 0 (BitVec.ofNat 64 k) (BitVec.ofNat 64 (k + n % 2 ^ 32 * 2 ^ 32))).mdie d (fun t =>
        { t with corrected := SMap.set (0, 0) t.corrected k (0, s.cycle + 1) })
    else s)

/-! ### The consistent-cut dump (R370 to R373) -/

/-- The ports of a die behind which another device of the group stands. -/
def DumpSt.portsOf (p : DumpSt) (me : BitVec 12) (d : Nat) : List (BitVec 4) :=
  (((p.group.filter (fun v => !(v == me))).map Config.portOf).eraseDups).filter (fun q => q.toNat / 4 == d)

/-- The incoming channels of a die: three of each edge and four of each port (R371). -/
def DumpSt.channels (p : DumpSt) (me : BitVec 12) (d : Nat) : List Chan :=
  ((neighbours d).flatMap (fun e => [0, 1, 2].map (fun c =>
      Chan.die (BitVec.ofNat 2 e) (BitVec.ofNat 2 c)))) ++
    (p.portsOf me d).flatMap (fun q => [0, 1, 2, 3].map (fun v => Chan.port q (BitVec.ofNat 2 v)))

/-- DUMP (R370, R373, R377): the stop phase begins; a device outside the group only answers. -/
def execDump (m : Mail) (group : List (BitVec 12)) (ranges : List (Word × Word)) (keep : Bool) (s : State) : Out :=
  mailRow m 5 true (fun s =>
    if 16 < ranges.length then s.reply m 2 []
    else if s.dump.any (fun p => !p.past) then s.reply m 3 []
    else if group.contains s.devId = false then s.reply m 0 []
    else { s with dump := some { group := group, keep := keep, mail := some m, past := false, ranges := ranges,
                                 recorded := [], images := [], copies := [], closed := [], logs := [] } }) s

/-- A die has recorded. -/
def DumpSt.has (p : DumpSt) (d : Nat) : Bool := p.recorded.any (fun r => r.1 == d)

/-- A flit that carries a dump's marker on a virtual channel: the manual gives it no kind of its own. -/
def State.dumpFlit (s : State) (dev : BitVec 12) (vc : BitVec 2) : Flit :=
  { crc := 0, off := 0, fae := 0, fmt := 0, seq := 0, dstdev := dev, srcdev := s.devId, len := 0, rop := false,
    last := true, gen := false, kind := 7, vc := vc, payload := [] }

/-- Send a marker on every outgoing channel of a die (R371). Log entry 22 (DESIGN CHOICE). -/
def State.sendMarkers (s : State) (p : DumpSt) (d : Nat) : State :=
  let s := (neighbours d).foldl (fun (t : State) (e : Nat) =>
    [0, 1, 2].foldl (fun (u : State) (c : Nat) => u.send d e (.marker c)) t) s
  (p.group.filter (fun v => !(v == s.devId) && (Config.portOf v).toNat / 4 == d)).foldl (fun (t : State) (v : BitVec 12) =>
    [0, 1, 2, 3].foldl (fun (u : State) (c : Nat) => u.sendFlit (u.dumpFlit v (BitVec.ofNat 2 c))) t) s

/-- A die records: the images of its resident contexts, its own state, the named bytes homed on it; then its markers go
out (R371). -/
def State.recordDie (s : State) (p : DumpSt) (d : Nat) : State :=
  let named (pa : Nat) : Bool := homeDie pa == d && p.ranges.any (fun r => decide (r.1.toNat ≤ pa) && decide (pa < r.1.toNat + r.2.toNat))
  let here := s.allCtxs.filter (fun c => c.die == d && !(c.life == .saved))
  let s := { s with dump := some { p with
    recorded := p.recorded ++ [(d, s.die d)],
    images := p.images ++ here.map (fun c => (d, c)),
    copies := s.mem.foldl (fun (m : SMap Byte) (e : Nat × Byte) => if named e.1 then SMap.set 0 m e.1 e.2 else m) p.copies } }
  s.sendMarkers p d

/-- Every log has closed: KEEP = 1 resumes every master, KEEP = 0 leaves every context HALTED (R373). -/
def State.endDump (s : State) (p : DumpSt) : State :=
  if p.past = false ∧ [0, 1, 2, 3].all (fun d => p.has d && (p.channels s.devId d).all (fun c => p.closed.contains (d, c))) = true then
    let s := { s with dump := some { p with past := true } }
    if p.keep then s
    else (s.mapCtxs (fun c => if c.life = .resident then { c with life := .halted } else c)).mapPlates
      (fun q => { q with active := none })
  else s

/-- DUMP completes when recording completes (R377). -/
def State.answerDump (s : State) : State :=
  match s.dump with
  | none => s
  | some p =>
    if [0, 1, 2, 3].all p.has then
      (match p.mail with
        | some m => ({ s with dump := some { p with mail := none } }).reply m 0 []
        | none => s)
    else s

/-- The stop phase is complete on a die: its started commands have run out (R370). -/
def State.recordDue (s : State) (d : Nat) : Bool :=
  match s.dump with
  | some p => !p.past && !(p.has d) && s.dieQuiet d
  | none => false

/-- Close a dump whose last marker has come. -/
def State.settleDump (s : State) : State :=
  let s := s.answerDump
  match s.dump with
  | some p => s.endDump p
  | none => s

/-- DUMP_RECORD (R370, R371). -/
def execDumpRecord (die : BitVec 2) (s : State) : Out :=
  .next (match s.dump with
    | some p => if s.recordDue die.toNat then (s.recordDie p die.toNat).settleDump else s
    | none => s)

/-- The marker of a channel is the next message that arrives on it. -/
def State.markerDue (s : State) (d : Nat) (c : Chan) : Bool :=
  match c with
  | .die src ch => s.oldest src.toNat d ch.toNat == some (.marker ch.toNat)
  | .port _ _ => true

/-- DUMP_MARKER: a marker reaches a die: one that has not recorded records at once, and the channel's log closes (R371). -/
def execDumpMarker (die : BitVec 2) (chan : Chan) (s : State) : Out :=
  let d := die.toNat
  .next (if s.markerDue d chan = false then s
    else
      let s := match chan with
        | .die src ch =>
          s.mlink src.toNat d (fun l => l.take { src := src.toNat, dst := d, msg := .marker ch.toNat })
        | .port _ _ => s
      match s.dump with
      | none => s
      | some p =>
        if p.past ∨ p.closed.contains (d, chan) = true then s
        else
          let p := { p with closed := p.closed ++ [(d, chan)] }
          let s := { s with dump := some p }
          (if p.has d then s else s.recordDie p d).settleDump)

/-- Bytes of results that a mailbox has room for: 0x7FC0 in the host's response block, to +0xFFEF in a supervisor's (R376, R377). -/
def mailRoom (m : Mail) : Nat := if m.sup.isNone then 0x7FC0 else 0x7FB0

/-- DUMP_READ: the dump area's layout is not given, so its bytes are free values (R373, R377).
Log entry 49 (DESIGN CHOICE). -/
def execDumpRead (m : Mail) (die : BitVec 2) (off len : BitVec 32) (s : State) : Out :=
  mailRow m 5 true (fun s => match s.dump with
    | none => s.reply m 3 []
    | some p =>
      if p.has die.toNat then
        (s.reply m 0 ((List.range (min len.toNat (mailRoom m) / 8)).map (fun i => Config.freeWord s.fresh (4096 + off.toNat / 8 + i)))).bump
      else s.reply m 3 []) s

end Sys2Proof.Machine
end

