-- ==== Sys2Proof/Machine/Host.lean ====
section
/-! DEFINITION. The host link (R374 to R379), the mailbox commands that other chapters lay down (R378), the staged start
(R380) and firmware and identity (R381 to R383). -/

namespace Sys2Proof.Machine

/-! ### Measurements (R383) -/

/-- M ← SHA3-384(M ‖ d) (R383). -/
def extend (m d : BitVec 384) : BitVec 384 := Config.sha3 (toBytes 48 m.toNat ++ toBytes 48 d.toNat)

/-- Extend measurement register n with a digest. Log entry 28 (DESIGN CHOICE). -/
def State.measure (s : State) (n : Nat) (d : BitVec 384) : State :=
  { s with ident := { s.ident with m := s.ident.m.set n (extend (s.ident.m.get n) d) } }

/-- Extend M3 with a command's argument (R383). Log entry 28 (DESIGN CHOICE). -/
def State.measureArg (s : State) (cmd : Nat) (args : List Nat) : State := s.measure 3 (Config.sha3 (Config.argBytes cmd args))

/-! ### Firmware (R381, R382) -/

/-- An image is accepted: both signatures verify and its counter is not below the fused value (R381). -/
def State.imageOk (s : State) (i : FwImage) : Bool := Config.signaturesOk i && decide (s.ident.fuses ≤ i.counter)

/-- The image in a slot. -/
def State.slotImage (s : State) (b : Bool) : FwImage :=
  ((if b then s.ident.slotB else s.ident.slotA)).getD (Config.slotImage b)

/-- The image in use (R375, R381). -/
def State.imageInUse (s : State) : FwImage := s.slotImage s.control.slot

/-- FW_LOAD writes the slot not in use, unless the image fails (R381). Log entry 28 (DESIGN CHOICE). -/
def execFwLoad (m : Mail) (image : FwImage) (s : State) : Out :=
  mailRow m 0 false (fun s =>
    if s.imageOk image then
      ({ s with ident := if s.control.slot then { s.ident with slotA := some image } else { s.ident with slotB := some image } }).reply m 0 []
    else s.reply m 2 []) s

/-- FW_COMMIT (R382). -/
def execFwCommit (m : Mail) (s : State) : Out :=
  mailRow m 5 false (fun s =>
    let n := s.imageInUse.counter
    if n ≤ s.ident.fuses ∨ 64 < n then s.reply m 3 []
    else ({ s with ident := { s.ident with fuses := n } }).reply m 0 []) s

/-- The doublewords of a byte string. -/
def wordsOfBytes (bs : List Byte) : List Word :=
  (List.range ((bs.length + 7) / 8)).map (fun i => BitVec.ofNat 64 (ofBytes ((bs.drop (8 * i)).take 8)))

/-- INFO (R378). Log entry 49 (DESIGN CHOICE). -/
def execInfo (m : Mail) (s : State) : Out := mailRow m 1 true (fun s => s.reply m 0 (Config.infoWords ((List.range 8).map Config.cxlCapacity))) s

/-- ATTEST: what it returns, and its signatures over all of it (R383). Log entry 28 (DESIGN CHOICE).
Log entry 49 (DESIGN CHOICE). -/
def execAttest (m : Mail) (nonce : BitVec 256) (s : State) : Out :=
  mailRow m 1 true (fun s =>
    let msg := toBytes 32 nonce.toNat ++ s.ident.m.toList.flatMap (fun r => toBytes 48 r.toNat) ++
      toBytes 4 s.imageInUse.version.toNat ++ Config.stepping ++ Config.identityKeys
    s.reply m 0 (wordsOfBytes (msg ++ Config.identitySign msg))) s

/-! ### Queues, domains, regions, policies (R231, R286, R305, R325) -/

/-- QUEUE_SET binds a queue to an address space and its defaults (R325); M3 takes its argument (R383).
Log entry 7 (DESIGN CHOICE). -/
def execQueueSet (m : Mail) (die : BitVec 2) (queue : BitVec 4) (asid : BitVec 12) (root : Word) (priv : Priv)
    (accbase accctl : Word) (s : State) : Out :=
  mailRow m 5 true (fun s =>
    let s := s.measureArg 0x10 [die.toNat, queue.toNat, asid.toNat, root.toNat, if priv = .u then 0 else 1, accbase.toNat, accctl.toNat]
    let c := (Csrs.init.write 0x040 accbase).bind (fun c => c.write 0x041 accctl)
    match c with
    | none => s.reply m 2 []
    | some c =>
      let sp : Space := { asid := asid, root := root, priv := priv, accbase := c.accbase, accctl := c.accctl }
      (s.mdie die.toNat (fun t => { t with bind := SMap.set none t.bind queue.toNat (some sp) })).reply m 0 []) s

/-- The LEVEL of a domain under a parent (R305). -/
def State.levelUnder (s : State) (parent : Option (BitVec 10)) : Option Nat :=
  match parent with
  | none => some 1
  | some p => (s.domain p).map (fun v => v.level + 1)

/-- DOMAIN_CREATE (R305). -/
def execDomainCreate (m : Mail) (dom : BitVec 10) (asid : BitVec 12) (rootDie : BitVec 2) (rootDev : BitVec 12)
    (parent : Option (BitVec 10)) (k : BitVec 8) (s : State) : Out :=
  mailRow m 5 true (fun s =>
    if (s.domain dom).isSome then s.reply m 3 []
    else match s.levelUnder parent with
      | none => s.reply m 2 []
      | some l =>
        if 6 < l then s.reply m 3 []
        else if k = 0 then s.reply m 2 []
        else (s.putDomain dom { asid := asid, rootDie := rootDie.toNat, rootDev := rootDev, parent := parent, k := k.toNat,
                                level := l, count := 0, members := [], arrived := [], force := [], far := [], farIn := [], farJoin := [],
                                kids := [], farKids := [], goal := 0, told := 0, joins := [], due := false, reached := Quad.all 0, joint := false }).reply m 0 []) s

/-- REGION_SET: refused for region 0; at once, the lines of the region are written back and dropped; what reserved bits are written
with is ignored (R6, R286). -/
def execRegionSet (m : Mail) (r : BitVec 8) (entry : Word) (s : State) : Out :=
  mailRow m 5 true (fun s =>
    let s := s.measureArg 0x12 [r.toNat, entry.toNat]
    if r = 0 then s.reply m 3 []
    else
      let s := s.flushAll (fun _ l => l.region == r.toNat)
      (s.putRegion r.toNat { (s.region r.toNat) with entry := setBits entry 63 4 0 }).reply m 0 []) s

/-- POLICY_SET (R231). -/
def execPolicySet (m : Mail) (index : BitVec 4) (entry : BitVec 256) (s : State) : Out :=
  mailRow m 5 true (fun s =>
    let s := s.measureArg 0x13 [index.toNat, entry.toNat]
    if polOk entry then ({ s with policy := SMap.set 0 s.policy index.toNat entry }).reply m 0 [] else s.reply m 3 []) s

/-! ### The L2 (R248, R249, R269) -/

/-- With a carve count c some slice of the die is left without an ordinary way at OPCUR (R269). -/
def Die.carveStarves (t : Die) (c : Nat) : Bool :=
  (List.range 256).any (fun i => (({ t with carve := c }).ordinaryWays t.point i).isEmpty)

/-- Bytes of a range of physical addresses read as 0, with no poison and no writer. Log entry 1 (DESIGN CHOICE). -/
def State.zeroRange (s : State) (lo hi : Nat) : State :=
  let outside (pa : Nat) : Bool := decide (pa < lo) || decide (hi ≤ pa)
  { s with mem := s.mem.filter (fun e => outside e.1), writers := s.writers.filter (fun e => outside e.1),
           poison := s.poison.filter (fun e => outside (e.1 * 64)) }

/-- CARVE (R248): lines in ways that become carved go home and are dropped; the contents of ways that return are lost, and
newly carved bytes read as zero. -/
def execCarve (m : Mail) (die : BitVec 2) (count : BitVec 8) (s : State) : Out :=
  mailRow m 5 true (fun s =>
    let d := die.toNat
    let t := s.die d
    let c := count.toNat
    if 4 < c then s.reply m 2 []
    else if 12 < c + t.heldWays.length + t.worstLost t.point ∨ t.carveStarves c = true then s.reply m 3 []
    else
      let gone := t.l2.filter (fun e => decide (e.way < c))
      let s := s.mdie d (fun t => { t with carve := c, l2 := t.l2.filter (fun e => !(decide (e.way < c))) })
      let s := gone.foldl (fun t e => t.l2Out d e) s
      let base := 0x400000000000 + d * 0x2000000
      ((s.dropLost d t.point).zeroRange (base + min t.carve c * 0x800000) (base + max t.carve c * 0x800000)).reply m 0 []) s

/-- RETN_GRANT (R249). -/
def execRetnGrant (m : Mail) (die : BitVec 2) (index : BitVec 3) (en : Bool) (asid : BitVec 12) (s : State) : Out :=
  mailRow m 5 true (fun s =>
    let g := if en then some asid else none
    (s.mdie die.toNat (fun t => { t with grants := SMap.set none t.grants index.toNat g })).reply m 0 []) s

/-! ### Fabric addresses (R302 to R304) -/

/-- DW1 or DW3, and DW2 or DW4, without what reserved bits are written with (R6, R303). -/
def fatMap (map : Word) : Word := setBits map 63 48 0
def fatLen (len : Word) : Word := setBits len 63 20 0

/-- A generation of an entry takes a target and a length. -/
def Fat.put (f : Fat) (gen : Bool) (map len : Word) : Fat :=
  if gen then { f with map1 := fatMap map, len1 := fatLen len } else { f with map0 := fatMap map, len0 := fatLen len }

/-- FAT_SET writes the current generation and FLIPDOM (R303). -/
def execFatSet (m : Mail) (entry : BitVec 12) (flipdom : BitVec 10) (map len : Word) (s : State) : Out :=
  mailRow m 5 true (fun s =>
    let f := s.fatOf entry.toNat
    (s.putFat entry.toNat { (f.put f.cur map len) with flipdom := flipdom }).reply m 0 []) s

/-- FAT_ARM writes generation NOT CUR and sets ARM; refused while ARM or FWD is set (R304). -/
def execFatArm (m : Mail) (entry : BitVec 12) (map len : Word) (s : State) : Out :=
  mailRow m 5 true (fun s =>
    let f := s.fatOf entry.toNat
    if f.arm ∨ f.fwd then s.reply m 3 []
    else (s.putFat entry.toNat { (f.put (!f.cur) map len) with arm := true, marks := [] }).reply m 0 []) s

/-- DEVID_SET, once per reset (R302, R378). -/
def execDevidSet (m : Mail) (id : BitVec 12) (s : State) : Out :=
  mailRow m 5 false (fun s =>
    if s.devid.isSome then s.reply m 3 [] else ({ s with devid := some id }).reply m 0 []) s

/-! ### Operating points and budgets (R272, R275, R277) -/

/-- OP_SET: its response comes when its step completes (R272, R377). -/
def execOpSet (m : Mail) (die : BitVec 2) (point : BitVec 3) (s : State) : Out :=
  mailRow m 5 true (fun s => s.requestStep die.toNat point.toNat (mailSource m) (some m)) s

/-- The four budgets with one changed. -/
def State.budgetSum (s : State) (d n : Nat) : Nat :=
  [0, 1, 2, 3].foldl (fun a i => a + (if i = d then n else (s.die i).budget)) 0

/-- BUDGET (R275, R277). -/
def execBudget (m : Mail) (die : BitVec 2) (units : BitVec 16) (s : State) : Out :=
  mailRow m 5 true (fun s =>
    let d := die.toNat
    let n := units.toNat
    if n < 600 ∨ 1400 < n ∨ 5200 < s.budgetSum d n + 770 ∨ ((s.die d).point = 7 ∧ n < 1300) then s.reply m 3 []
    else (if n = (s.die d).budget then s else s.setBudget d n (mailSource m)).reply m 0 []) s

/-! ### Bulk reads (R377) -/

/-- The doublewords of a byte range of a table that gives bytes, as far as the response block has room (R377). -/
def bulk (m : Mail) (off len : Nat) (byte : Nat → Nat) : List Word :=
  wordsOfBytes ((List.range (min len (mailRoom m))).map (fun i => BitVec.ofNat 8 (byte (off + i))))

/-- A nibble of a die's row maps: for each plate 512 main rows and 16 spares, for each plate 16 banks of 17 lines, for each
slice 17 ways (R268). -/
def State.mapNibble (s : State) (d n : Nat) : Nat :=
  if n < 128 * 528 then SMap.get 15 (s.plateOf (128 * d + n / 528)).rows (n % 528)
  else if n < 128 * 800 then SMap.get 15 (s.plateOf (128 * d + (n - 128 * 528) / 272)).regRows ((n - 128 * 528) % 272)
  else if n < 128 * 800 + 4352 then SMap.get 15 (s.die d).l2Rows (n - 128 * 800)
  else 0

/-- ROWMAP_READ (R268, R377). Log entry 49 (DESIGN CHOICE). -/
def execRowmapRead (m : Mail) (die : BitVec 2) (off len : BitVec 32) (s : State) : Out :=
  mailRow m 4 true (fun s =>
    s.reply m 0 (bulk m off.toNat len.toNat (fun i => s.mapNibble die.toNat (2 * i) + 16 * s.mapNibble die.toNat (2 * i + 1)))) s

/-- The doublewords of an event record (R356). -/
def EvRec.dws (e : EvRec) : List Word :=
  [BitVec.ofNat 64 e.cycle,
   BitVec.ofNat 64 (e.code % 256 + e.plate % 512 * 2 ^ 8 + min e.lost 32767 * 2 ^ 17 + e.esn.toNat * 2 ^ 32), e.object, e.detail]

/-- A byte of a die's event ring: record w of those written stands in slot w mod 4,096 (R355). -/
def Die.eventByte (t : Die) (i : Nat) : Nat :=
  let slot := i / 32
  let first := t.posted - t.events.length
  match t.events[(slot + 4096 - first % 4096) % 4096]? with
  | some e => if slot < 4096 then ((e.dws).getD (i % 32 / 8) 0).toNat / 256 ^ (i % 8) % 256 else 0
  | none => 0

/-- EVENT_READ (R355, R377). -/
def execEventRead (m : Mail) (die : BitVec 2) (off len : BitVec 32) (s : State) : Out :=
  mailRow m 1 true (fun s => s.reply m 0 (bulk m off.toNat len.toNat (s.die die.toNat).eventByte)) s

/-- A doubleword of the plate accounts of a die: for each plate 16 slot totals, then 8 for each engine (R342, R343). -/
def State.acctDw (s : State) (d i : Nat) : Nat :=
  let p := s.plateOf (128 * d + i / 48)
  if 128 ≤ i / 48 then 0
  else if i % 48 < 16 then SMap.get 0 p.acct (i % 48)
  else SMap.get 0 p.engAcct (i % 48 - 16)

/-- ACCT_READ (R342, R377). Log entry 49 (DESIGN CHOICE). -/
def execAcctRead (m : Mail) (die : BitVec 2) (off len : BitVec 32) (s : State) : Out :=
  mailRow m 5 true (fun s =>
    s.reply m 0 (bulk m off.toNat len.toNat (fun i => s.acctDw die.toNat (i / 8) / 256 ^ (i % 8) % 256))) s

/-- IMAGE_MOVE: a SAVED image goes to another die, or leaves for another device (R333, R378).
Log entry 47 (DESIGN CHOICE). -/
def execImageMove (m : Mail) (ctx : BitVec 32) (dev : BitVec 12) (die : BitVec 2) (s : State) : Out :=
  mailRow m 5 true (fun s => match s.ctxOf ctx with
    | none => s.reply m 2 []
    | some c =>
      let out (s : State) : State := s.mdie c.die (fun t => { t with
        saved := t.saved.filter (fun x => !(x == ctx)), areas := t.areas - 1 })
      if c.life ≠ .saved then s.reply m 3 []
      else if dev ≠ s.devId then (((s.focus ctx).mctx (fun c => { c with life := .ended })) |> out).reply m 0 []
      else if c.die = die.toNat then s.reply m 0 []
      else if 1024 ≤ (s.die die.toNat).areas then s.reply m 3 []
      else
        let s := (out s).mdie die.toNat (fun t => { t with saved := t.saved ++ [ctx], areas := t.areas + 1 })
        (s.putCtx { c with die := die.toNat }).reply m 0 []) s

/-! ### The control page and the host queue (R374, R375, R379) -/

/-- QOVF follows HQ_TAIL − HQ_HEAD (R375, R379). -/
def Control.judge (c : Control) : Control := { c with qovf := decide (1024 < (c.hqTail - c.hqHead).toNat) }

/-- HQ_TAIL_WRITE exposes the entries that the host has written; one that lies between HQ_HEAD and HQ_TAIL is replaced
(R374, R379). Log entry 46 (DESIGN CHOICE). -/
def execHqTailWrite (v : BitVec 32) (entries : List (BitVec 10 × List Word)) (s : State) : Out :=
  .next { s with
    hq := entries.foldl (fun (m : SMap HqEntry) (e : BitVec 10 × List Word) => SMap.set [] m e.1.toNat e.2) s.hq,
    control := ({ s.control with hqTail := v }).judge }

/-- MB (R375): W1C of DONE and OVR, then GO. Log entry 46 (DESIGN CHOICE). -/
def Control.writeMb (c : Control) (v : Word) : Control :=
  let c := { c with done := c.done && !(bitOf v 1), ovr := c.ovr && !(bitOf v 2) }
  if bitOf v 0 then (if c.go then { c with ovr := true } else { c with go := true }) else c

/-- CONTROL_PAGE_WRITE: each field by its access code (R6, R375). -/
def execControlPageWrite (off : BitVec 12) (v : Word) (s : State) : Out :=
  .next (
    if off = 0x008 then { s with control := s.control.writeMb v }
    else if off = 0x010 then { s with control := ({ s.control with hqTail := v.setWidth 32 }).judge }
    else if off = 0x020 ∧ s.control.stage = 5 then { s with control := { s.control with en := bitOf v 0 } }
    else s)

/-- A host response still to come is discarded (R374). -/
def dropHostMail (m : Option Mail) : Option Mail := m.bind (fun k => if k.sup.isNone then none else some k)

/-- FUNCTION_LEVEL_RESET: the mailbox and MB clear; a running command completes without a response (R374). -/
def execFunctionLevelReset (s : State) : Out :=
  let quiet (r : OpStep) : OpStep := { r with mail := dropHostMail r.mail }
  .next { s with
    control := { s.control with go := false, done := false, ovr := false },
    resp := SMap.set none s.resp 0 none, spoilt := s.spoilt.filter (fun k => !(k == 0)),
    dies := s.dies.map (fun (t : Die) => { t with step := t.step.map quiet, pending := t.pending.map quiet }),
    dump := s.dump.map (fun p => { p with mail := dropHostMail p.mail }) }

/-- Bytes of memory that the host command function reads in a queue's address space; none when it cannot (R360, R379).
Log entry 26 (DESIGN CHOICE). -/
def State.hostPiece (s : State) (sp : Space) (va n : Nat) : Option Nat :=
  if 2 ^ 57 ≤ va ∨ inWindow va = true then none
  else match s.walk va [48, 39, 30, 21, 16] (bitsOf sp.root 46 12 * 4096) with
    | .error _ => none
    | .ok (pte, size) =>
      let e : TlbEnt := { asid := sp.asid, va := va / size * size, size := size, pte := pte }
      match e.target va with
      | .error _ => none
      | .ok x =>
        if x.forbids (sp.priv == .u) .load ∨ s.anyPoison x.pa n = true ∨ (s.beyond x.pa n).isSome = true then none else some (s.memNat x.pa n)

/-- As `hostPiece`, over the parts of a range. -/
def State.hostRead (s : State) (sp : Space) (va n : Nat) : Option Nat :=
  (splitRange va n).foldr (fun p acc => acc.bind (fun v => (s.hostPiece sp p.1 p.2).map (fun w => w + v * 256 ^ p.2))) (some 0)

/-- How the host command function finds an entry (R379). -/
inductive HqVerdict where
  | unreadable | invalid | full
  | valid (die : Nat) (task : TaskRec) (addr : Word)
  deriving DecidableEq, Repr

/-- The entry's own words are as R379 asks. -/
def hqWordsOk (e : HqEntry) : Bool :=
  let dw (i : Nat) : Word := e.getD i 0
  bitsOf (dw 0) 7 0 == 1 && bitsOf (dw 0) 63 14 == 0 && bitsOf (dw 1) 63 57 == 0 && bitsOf (dw 1) 7 0 == 0 &&
    [3, 4, 5, 6, 7].all (fun i => dw i == 0)

/-- Judge an entry and its record (R207, R323, R379). Log entry 46 (DESIGN CHOICE). -/
def State.judgeEntry (s : State) (e : HqEntry) : HqVerdict :=
  let d := bitsOf (e.getD 0 0) 9 8
  let q := bitsOf (e.getD 0 0) 13 10
  let va := e.getD 1 0
  if hqWordsOk e = false then .invalid
  else match SMap.get none (s.die d).bind q with
    | none => .invalid
    | some sp =>
      match s.hostRead sp va.toNat 256 with
      | none => .unreadable
      | some v =>
        let dws := dwsOf 32 v
        let stb := bitsOf (dws.getD 1 0) 56 0
        let needs := bitsOf (dws.getD 3 0) 11 8 = 0 ∧ stb ≠ 0 ∧ stb % 32 = 0
        let block := if needs then s.hostRead sp stb 2048 else some 0
        match block, parseTask dws with
        | none, _ => .unreadable
        | some _, none => .invalid
        | some b, some t =>
          let uses := usesTile ((List.range 64).map (fun i => BitVec.ofNat 256 (b / 2 ^ (256 * i))))
          if t.queue ≠ q ∨ (t.accmask = 0 ∧ uses = true) ∨ s.recordFits d t = false then .invalid
          else if s.queueFull d q then .full
          else .valid d t va

/-- Entry n is taken: HOSTCMD, then HQ_HEAD (R379). -/
def State.entryTaken (s : State) (e : HqEntry) (status seq : Nat) : State :=
  let n := s.control.hqHead
  let s := s.journal 0 7 0 (BitVec.ofNat 32 status) (n.setWidth 64) 0 [e.getD 2 0, BitVec.ofNat 64 seq, 0, 0]
  ({ s with control := ({ s.control with hqHead := n + 1 }).judge }).signal 1

/-- The device takes host queue entries now (R375, R379). -/
def State.hqDue (s : State) : Bool :=
  let c := s.control
  c.stage == 5 && c.en && !c.frozen && !c.qovf && !(c.hqHead == c.hqTail)

/-- ENQUEUE: the entry at HQ_HEAD is judged; an unreadable record freezes the host command function, a full queue holds it
(R360, R379). A slot that the host never wrote reads as doublewords of 0. Log entry 46 (DESIGN CHOICE). -/
def execEnqueue (s : State) : Out :=
  .next (if s.hqDue = false then s
    else
      let e := SMap.get [] s.hq (s.control.hqHead.toNat % 1024)
      match s.judgeEntry e with
      | .unreadable => { s with control := { s.control with frozen := true } }
      | .full => s
      | .invalid => s.entryTaken e 2 0
      | .valid d t va =>
        let r := s.acceptTask d t va 0 none
        r.1.entryTaken e 0 r.2)

/-- MSIX_VECTOR_FIRE: a waiting vector fires, at most once in 10 µs (R374). -/
def State.msixDue (s : State) (v : Nat) : Bool :=
  let x := s.msix.get v
  x.waiting && (match x.last with
    | none => true
    | some c => decide (s.micros 0 10 ≤ s.cycle - c))

def execMsixVectorFire (v : BitVec 2) (s : State) : Out :=
  .next (if s.msixDue v.toNat then
      { s with msix := s.msix.set v.toNat { last := some s.cycle, waiting := false, fired := (s.msix.get v.toNat).fired + 1 } }
    else s)

/-! ### The staged start (R380) -/

/-- The slot whose image the ROM accepts: A, then B; or its failure code (R380, R381). -/
def State.romVerdict (s : State) : Except Nat Bool :=
  let a := s.slotImage false
  let b := s.slotImage true
  if s.imageOk a then .ok false
  else if s.imageOk b then .ok true
  else if Config.signaturesOk a || Config.signaturesOk b then .error 2
  else .error 1

/-- POWER_ON_RESET: every field takes its reset value but the fuses and the two slots; the ROM verifies the firmware and
measures itself and it, and stage 1 begins (R7, R380, R381, R383). Log entry 40 (DESIGN CHOICE). -/
def execPowerOnReset (s : State) : Out :=
  let t : State := { State.reset with
    ident := { slotA := s.ident.slotA, slotB := s.ident.slotB, fuses := s.ident.fuses, m := Quad.all 0 },
    fresh := s.fresh, inbox := s.inbox }
  let t := t.measure 0 Config.romDigest
  .next (match t.romVerdict with
    | .error c => t.failStage none c
    | .ok b =>
      let t := { t with control := { t.control with stage := 1, slot := b, dieok := 15 } }
      t.measure 1 (Config.sha3 t.imageInUse.body))

/-- HBM_TRAINING: stage 2 (R380). Log entry 40 (DESIGN CHOICE). -/
def execHbmTraining (passed : BitVec 4) (s : State) : Out :=
  .next (if s.control.stage ≠ 1 ∧ s.control.stage ≠ 2 then s
    else match [0, 1, 2, 3].find? (fun d => !(passed.getLsbD d)) with
      | some d => s.failStage (some d) (0x10 + d)
      | none => { s with control := { s.control with stage := 3 } })

/-- One entry of the row maps (R268). -/
def State.mapRow (s : State) (f : RowFail) : State :=
  let onPlate (p : Nat) (g : Plate → Plate) : State := s.putPlate (g (s.plateOf p))
  match f with
  | .main p r k => onPlate p.toNat (fun q => { q with rows := SMap.set 15 q.rows r.toNat k.toNat })
  | .spare p n k => onPlate p.toNat (fun q => { q with rows := SMap.set 15 q.rows (512 + n.toNat) k.toNat })
  | .regLine p b l k => onPlate p.toNat (fun q => { q with regRows := SMap.set 15 q.regRows (17 * b.toNat + l.toNat) k.toNat })
  | .l2Way d i w k => s.mdie d.toNat (fun t => { t with l2Rows := SMap.set 15 t.l2Rows (17 * i.toNat + w.toNat) k.toNat })
  | .die _ => s

/-- A die fails OP0 or OP6 (R267, R380). -/
def State.dieFails (s : State) (fails : List RowFail) (d : Nat) : Bool :=
  fails.contains (.die (BitVec.ofNat 2 d)) ||
    [0, 6].any (fun k => (s.allPlates.filter (fun p => dieOfPlate p.id == d)).any (fun p => p.losesBank k) ||
      (List.range 256).any (fun i => ((s.die d).ordinaryWays k i).isEmpty))

/-- ROW_TESTING: stage 3 builds the row maps, which M2 measures (R268, R380, R383). Log entry 40 (DESIGN CHOICE). -/
def execRowTesting (fails : List RowFail) (s : State) : Out :=
  .next (if s.control.stage ≠ 3 then s
    else
      let s := fails.foldl State.mapRow s
      let s := s.measure 2 (Config.sha3 (Config.argBytes 0 (fails.map (fun f => match f with
        | .main p r k => ((p.toNat * 512 + r.toNat) * 8 + k.toNat) * 8
        | .spare p n k => ((p.toNat * 512 + n.toNat) * 8 + k.toNat) * 8 + 1
        | .regLine p b l k => (((p.toNat * 16 + b.toNat) * 32 + l.toNat) * 8 + k.toNat) * 8 + 2
        | .l2Way d i w k => (((d.toNat * 256 + i.toNat) * 32 + w.toNat) * 8 + k.toNat) * 8 + 3
        | .die d => d.toNat * 8 + 4))))
      match [0, 1, 2, 3].find? (s.dieFails fails) with
      | some d => s.failStage (some d) (0x20 + d)
      | none => { s with control := { s.control with stage := 4 } })

/-- The physical plate a local index is bound to after those before it: the one named, if it is one of the die's 132 and not taken,
else the lowest that is free. -/
def bindPick (named : Option Nat) (taken : List Nat) : Nat :=
  match named with
  | some p => if p < 132 ∧ p ∉ taken then p else lowest
  | none => lowest
where lowest : Nat := ((List.range 132).find? (fun p => !(taken.contains p))).getD 0

/-- The physical plates of a die's first n local indices (R11). Log entry 40 (DESIGN CHOICE). -/
def boundPlates (named : Nat → Option Nat) : Nat → List Nat
  | 0 => []
  | n + 1 => let t := boundPlates named n; t ++ [bindPick (named n) t]

/-- What a proposed binding names for a local index of a die. -/
def bindNamed (bind : List (BitVec 9 × BitVec 8)) (d i : Nat) : Option Nat :=
  (bind.find? (fun b => b.1.toNat == 128 * d + i)).map (fun b => b.2.toNat)

/-- Stage 4 on one die: its 128 local indices are bound to 128 of its 132 physical plates, and their generators seeded (R11, R34). -/
def State.bindDie (bind : List (BitVec 9 × BitVec 8)) (s : State) (d : Nat) : State :=
  let ps := boundPlates (bindNamed bind d) 128
  (List.range 128).foldl (fun (t : State) (i : Nat) =>
    t.putPlate { (t.plateOf (128 * d + i)) with bound := some (ps.getD i 0), lfsr := lfsrSeed (128 * d + i) }) s

/-- PLATE_BINDING: stage 4 binds plates, seeds their generators, sets OP6, and the device enters service with SEQ 1 (R11,
R34, R266, R380). Log entry 40 (DESIGN CHOICE). -/
def execPlateBinding (bind : List (BitVec 9 × BitVec 8)) (s : State) : Out :=
  .next (if s.control.stage ≠ 4 then s
    else
      let s := [0, 1, 2, 3].foldl (State.bindDie bind) s
      { s with dies := s.dies.map (fun (t : Die) => { t with point := 6 }), jseq := 1,
               control := { s.control with stage := 5 } })

end Sys2Proof.Machine
end

