-- ==== Sys2Proof/Machine/Cycle.lean ====
section
/-! DEFINITION. The end of a cycle (R18, R336, R340 to R345): the accounts, what counts down, and CYCLE. -/

namespace Sys2Proof.Machine

/-! ### Engines (R343) -/

/-- Why an engine that runs nothing does not take the head of a context's queue; none when the queue is empty, or when in a
step something other than the step keeps the head from starting (R272). Log entry 42 (DEDUCED). -/
def State.headCause (s : State) (e : Engine) (c : Ctx) : Option EngCause :=
  let d := dieOfPlate s.plate.id
  let other := if s.stepMoves d then none else some EngCause.guard
  match (c.queues.get e.num).head? with
  | none => none
  | some q =>
    if (c.held.get e.num).isSome ∨ c.life ≠ .resident then other
    else match s.judge e c q with
      | .held .guard => other
      | .held k => if s.enginesHeld d then some .backpressure else some k
      | .ready _ _ => if s.enginesHeld d then some .backpressure else other

/-- The resident contexts of the plate in focus, frozen and halted ones too, in the order an engine scans them (R17). -/
def State.scanAll (s : State) (e : Engine) : List Ctx :=
  let last := s.plate.served.get e.num
  ([1, 2, 3, 4].filterMap (fun i => s.ctxOf (s.plate.places.get ((last + i) % 4)))).filter (fun c => !(c.life == .placing))

/-- A busy command of an engine waits for a bank in this cycle: behind an engine that is served before it, or a row that a step
copies; when, is open (R242, R264, R272). Log entry 17 (DESIGN CHOICE). -/
def State.bankWaits (s : State) (e : Engine) : Bool :=
  let busy (i : Nat) : Bool := (s.plate.running.get i).any (fun r => r.begun && r.input == 0 && decide (0 < r.left))
  ((List.range e.num).any busy || s.stepMoves (dieOfPlate s.plate.id)) &&
    Config.freeBit s.cycle (7000 + 4 * s.plate.id + e.num)

/-- What holds a started command in this cycle: a full streaming port, another die whose rows or slices move, a link's stopped
channel, or a bank; none when it goes on (R176, R242, R264, R273, R299, R343). -/
def State.engineWait (s : State) (e : Engine) (r : Running) : Option EngCause :=
  let d := dieOfPlate s.plate.id
  if r.begun = false then
    (if opOf r.ent.stencil = some .cpm ∧ (s.focus r.ctx).cpmHeld r.ent = true then some .backpressure else some .input)
  else if r.input ≠ 0 then some .input
  else if r.left = 0 then none
  else if s.drainHeld r then some .backpressure
  else if e = .cpe ∧ s.copyStopped d = true then some .backpressure
  else if e = .cpe ∧ s.reqStopped d = true then some .input
  else if s.bankWaits e then some .bank
  else none

/-- What an engine of the plate in focus is charged in this cycle: the context it goes to, its cause and the command; none
when no queue holds a command. In a step a command that runs is charged BUSY, or what other than its inputs holds it (R272, R343). -/
def State.engineCharge (s : State) (e : Engine) : Option (BitVec 32 × EngCause × Word × BitVec 32) :=
  let moving := s.stepMoves (dieOfPlate s.plate.id)
  match (s.plate.running.get e.num).head? with
  | some r =>
    let k := (s.engineWait e r).getD .busy
    some (r.ctx, if moving && k == .input then .busy else k, r.ent.spc, r.ent.esn)
  | none =>
    match (if moving then none else s.plate.dropped.get e.num) with
    | some id => some (id, .guard, 0, 0)
    | none =>
      let heads := (s.scanAll e).filterMap (fun c => (s.headCause e c).map (fun k => (c, k)))
      [EngCause.grant, .backpressure, .guard].findSome? (fun k =>
        (heads.find? (fun h => h.2 == k)).map (fun h =>
          let q := (h.1.queues.get e.num).head?
          (h.1.id, k, (q.map (fun q => q.spc)).getD 0, (q.map (fun q => q.esn)).getD 0)))

/-- Close the runs of an engine in the contexts of the plate in focus that its cycle did not go to (R345). -/
def State.closeOthers (s : State) (e : Engine) (but : BitVec 32) : State :=
  ((s.scanAll e).filter (fun c => !(c.id == but) && c.engRuns.any (fun r => r.eng == e))).foldl (fun (t : State) (c : Ctx) =>
    let t := t.focus c.id
    let r := t.ctx.closeEngine e
    r.2.foldl State.writeEngRun { t with ctx := r.1 }) s

/-- Charge one engine of the plate in focus (R343). -/
def State.chargeEngineOf (s : State) (e : Engine) : State :=
  let idle (t : State) : State := t.mplate (fun p => { p with
    engAcct := SMap.set 0 p.engAcct (e.num * 8 + 6) (SMap.get 0 p.engAcct (e.num * 8 + 6) + 1) })
  match s.engineCharge e with
  | none => idle (s.closeOthers e 0)
  | some (id, k, spc, esn) =>
    let s := s.closeOthers e id
    if (s.ctxOf id).isNone then idle s
    else
      let s := s.focus id
      let r := s.ctx.chargeEngine e k spc esn
      r.2.foldl State.writeEngRun { s with ctx := r.1 }

/-! ### Slots (R18, R340, R342) -/

/-- Four slots of the plate's own account: SWITCH during a step of its die, else IDLE (R342). -/
def State.chargePlate (s : State) : State :=
  let k := match (s.die (dieOfPlate s.plate.id)).step with
    | some r => if r.moving then Slot.switch.code else Slot.idle.code
    | none => Slot.idle.code
  s.mplate (fun p => { p with acct := SMap.set 0 p.acct k (SMap.get 0 p.acct k + 4) })

/-- A slot of the context issued in this cycle. -/
def Ctx.issued (c : Ctx) : Bool := c.slots.toList.any (fun k => k == .issue)

/-- The word or bundle a resumed breakpoint let issue has issued (R367). -/
def Ctx.passDone (c : Ctx) : Bool :=
  [0, 1, 2, 3].any (fun k => c.slots.get k == .issue && some (c.slotPcs.get k) == c.ibPass)

/-- What counts down with a cycle of the active context: flags of words that complete join FSTAT, at the latest at their bound
(R38, R141); a stepped resume stops after its last issue cycle (R214, R367). Log entry 12 (DEDUCED). -/
def State.ctxCycle (s : State) : State :=
  let early := Config.freeBit s.cycle 4004
  let s := s.mctx (fun c => { (c.joinFlags (fun e => decide (e.left = 0) || early)) with
    hold := c.hold - 1, ibPass := if c.passDone then none else c.ibPass })
  match s.ctx.steps with
  | none => s
  | some n =>
    if s.ctx.issued = false then s
    else if n ≤ 1 then
      (s.mctx (fun c => { c with steps := none })).haltCtx [0, (s.strand .c).pc, BitVec.ofNat 64 s.ctx.esn.toNat, 0]
    else s.mctx (fun c => { c with steps := some (n - 1) })

/-- Charge the slots of the plate in focus for this cycle, unless the context that left it was charged (R18). -/
def State.chargePlateSlots (s : State) : State :=
  if s.plate.charged then s
  else match s.plate.active with
    | none => s.chargePlate
    | some id => if (s.ctxOf id).isNone then s.chargePlate else (((s.focus id).chargeSlots).ctxCycle)

/-! ### What counts down on a plate -/

/-- A started command after this cycle, which held it or not; one whose last busy cycle this was is gone (R161, R167, R169). -/
def Running.cycle (r : Running) (held : Bool) : Option Running :=
  if r.left = 0 then none
  else if r.begun = false then some r
  else if r.input ≠ 0 then some { r with input := r.input - 1 }
  else if 1 < r.left ∧ held = false then some { r with left := r.left - 1 }
  else some r

/-- The plate in focus after this cycle. -/
def Plate.cycle (p : Plate) (held : Running → Bool) : Plate :=
  { p with running := p.running.map (fun rs => rs.filterMap (fun r => r.cycle (held r))), dropped := Quad.all none, charged := false,
           wq := (p.wq.map (fun e => (e.1, e.2 - 1))).filter (fun e => !(e.2 == 0)) }

/-- Charge a plate (R18, R342, R343). -/
def State.platePass (s : State) (p : Nat) : State :=
  let s := s.focusPlate p
  if s.plate.bound.isNone then s
  else
    let s := s.chargePlateSlots.focusPlate p
    let s := [Engine.mxe, .txe, .ude, .cpe].foldl (fun (t : State) (e : Engine) => (t.chargeEngineOf e).focusPlate p) s
    (s.mplate (fun q => q.cycle (fun r => (s.engineWait (engineOf r.ent.stencil) r).isSome))).feedRows

/-- A die after this cycle: the time of its step passes, its sensors show a temperature (R272, R385). -/
def Die.cycle (t : Die) (now : Nat) : Die :=
  { t with step := t.step.map (fun r => { r with wait := r.wait - 1 }), junction := Config.junction now t.id }

/-- Completions on their way to the dies arrive (R196, R305). Log entry 60 (DESIGN CHOICE). -/
def State.reachAll (s : State) : State :=
  { s with domains := s.domains.map (fun e => (e.1, e.2.map (fun v => v.arriveAt s.cycle (s.micros v.rootDie 2) (6000 + 4 * e.1)))) }

/-- What goes on between the dies and at their ports with a cycle: messages pass the dies between, and the streaming ports send
(R10, R316). -/
def State.linkPass (s : State) : State := [0, 1, 2, 3].foldl (fun (t : State) (d : Nat) => t.portPass d 64) s.forwardAll

/-- CYCLE_CHARGE: every slot and every engine is charged one cause, landed pushes become visible, and CYCLE advances (R18,
R58, R336, R340 to R345). Log entry 39 (DESIGN CHOICE). -/
def execCycleCharge (s : State) : Out :=
  let s := ((s.allPlates.map (fun p => p.id)).foldl State.platePass s).linkPass
  .next { s.reachAll.mapCtxs Ctx.showTokens with
    dies := s.dies.map (fun (t : Die) => t.cycle s.cycle),
    cycle := s.cycle + 1, phase := .manage 0, sDone := false, late := [], grouped := false, event := .none }

end Sys2Proof.Machine
end

