-- ==== Sys2Proof/Machine/Dispatch.lean ====
section
/-! DEFINITION. The dispatch: one arm for each constructor of Instr. -/

namespace Sys2Proof.Machine

/-- The meaning of one step of the machine. -/
def exec (i : Instr) (s : State) : Host.Outcome State Fault Refusal :=
  match i with
  | .add k d a b => Sys2Proof.Machine.execAdd k d a b s
  | .sub k d a b => Sys2Proof.Machine.execSub k d a b s
  | .and k d a b => Sys2Proof.Machine.execAnd k d a b s
  | .or k d a b => Sys2Proof.Machine.execOr k d a b s
  | .xor k d a b => Sys2Proof.Machine.execXor k d a b s
  | .shl k d a b => Sys2Proof.Machine.execShl k d a b s
  | .shr k d a b => Sys2Proof.Machine.execShr k d a b s
  | .sar k d a b => Sys2Proof.Machine.execSar k d a b s
  | .mul k d a b => Sys2Proof.Machine.execMul k d a b s
  | .mulh k d a b => Sys2Proof.Machine.execMulh k d a b s
  | .mulhu k d a b => Sys2Proof.Machine.execMulhu k d a b s
  | .min k d a b => Sys2Proof.Machine.execMin k d a b s
  | .max k d a b => Sys2Proof.Machine.execMax k d a b s
  | .minu k d a b => Sys2Proof.Machine.execMinu k d a b s
  | .maxu k d a b => Sys2Proof.Machine.execMaxu k d a b s
  | .andn k d a b => Sys2Proof.Machine.execAndn k d a b s
  | .div k d a b => Sys2Proof.Machine.execDiv k d a b s
  | .divu k d a b => Sys2Proof.Machine.execDivu k d a b s
  | .rem k d a b => Sys2Proof.Machine.execRem k d a b s
  | .remu k d a b => Sys2Proof.Machine.execRemu k d a b s
  | .slt k d a b => Sys2Proof.Machine.execSlt k d a b s
  | .sltu k d a b => Sys2Proof.Machine.execSltu k d a b s
  | .orn k d a b => Sys2Proof.Machine.execOrn k d a b s
  | .clz k d a => Sys2Proof.Machine.execClz k d a s
  | .ctz k d a => Sys2Proof.Machine.execCtz k d a s
  | .popc k d a => Sys2Proof.Machine.execPopc k d a s
  | .brev k d a => Sys2Proof.Machine.execBrev k d a s
  | .abs k d a => Sys2Proof.Machine.execAbs k d a s
  | .sxb k d a => Sys2Proof.Machine.execSxb k d a s
  | .sxh k d a => Sys2Proof.Machine.execSxh k d a s
  | .sxw k d a => Sys2Proof.Machine.execSxw k d a s
  | .addi k d a imm => Sys2Proof.Machine.execAddi k d a imm s
  | .andi k d a imm => Sys2Proof.Machine.execAndi k d a imm s
  | .ori k d a imm => Sys2Proof.Machine.execOri k d a imm s
  | .xori k d a imm => Sys2Proof.Machine.execXori k d a imm s
  | .shli k d a n => Sys2Proof.Machine.execShli k d a n s
  | .shri k d a n => Sys2Proof.Machine.execShri k d a n s
  | .sari k d a n => Sys2Proof.Machine.execSari k d a n s
  | .slti k d a imm => Sys2Proof.Machine.execSlti k d a imm s
  | .sltiu k d a imm => Sys2Proof.Machine.execSltiu k d a imm s
  | .li k d imm => Sys2Proof.Machine.execLi k d imm s
  | .lsi k d imm => Sys2Proof.Machine.execLsi k d imm s
  | .adds1 k d a b => Sys2Proof.Machine.execAdds1 k d a b s
  | .adds2 k d a b => Sys2Proof.Machine.execAdds2 k d a b s
  | .adds3 k d a b => Sys2Proof.Machine.execAdds3 k d a b s
  | .adds4 k d a b => Sys2Proof.Machine.execAdds4 k d a b s
  | .bfx k d a b => Sys2Proof.Machine.execBfx k d a b s
  | .bfi k d a b => Sys2Proof.Machine.execBfi k d a b s
  | .ptox k d p => Sys2Proof.Machine.execPtox k d p s
  | .xtop k p a => Sys2Proof.Machine.execXtop k p a s
  | .sel k d a b p => Sys2Proof.Machine.execSel k d a b p s
  | .cmp k p a b c m => Sys2Proof.Machine.execCmp k p a b c m s
  | .cmpi k p a imm c m => Sys2Proof.Machine.execCmpi k p a imm c m s
  | .pand k p q r => Sys2Proof.Machine.execPand k p q r s
  | .por k p q r => Sys2Proof.Machine.execPor k p q r s
  | .pxor k p q r => Sys2Proof.Machine.execPxor k p q r s
  | .pandn k p q r => Sys2Proof.Machine.execPandn k p q r s
  | .pnot k p q r => Sys2Proof.Machine.execPnot k p q r s
  | .pmov k p q r => Sys2Proof.Machine.execPmov k p q r s
  | .pset k p q r => Sys2Proof.Machine.execPset k p q r s
  | .pclr k p q r => Sys2Proof.Machine.execPclr k p q r s
  | .bpt k n o => Sys2Proof.Machine.execBpt k n o s
  | .bpr k n a => Sys2Proof.Machine.execBpr k n a s
  | .jtab k a b => Sys2Proof.Machine.execJtab k a b s
  | .btox k d n => Sys2Proof.Machine.execBtox k d n s
  | .jd k n p g e l => Sys2Proof.Machine.execJd k n p g e l s
  | .lps k a sel => Sys2Proof.Machine.execLps k a sel s
  | .lbr k n => Sys2Proof.Machine.execLbr k n s
  | .lcr k d => Sys2Proof.Machine.execLcr k d s
  | .lcw k a => Sys2Proof.Machine.execLcw k a s
  | .vany k p v => Sys2Proof.Machine.execVany k p v s
  | .vall k p v => Sys2Proof.Machine.execVall k p v s
  | .vnone k p v => Sys2Proof.Machine.execVnone k p v s
  | .ld k d a sel h z => Sys2Proof.Machine.execLd k d a sel h z s
  | .ldp k d a sel h z => Sys2Proof.Machine.execLdp k d a sel h z s
  | .st k c a h z => Sys2Proof.Machine.execSt k c a h z s
  | .stp k c a h z => Sys2Proof.Machine.execStp k c a h z s
  | .ldacq k d a c => Sys2Proof.Machine.execLdacq k d a c s
  | .strel k c a b => Sys2Proof.Machine.execStrel k c a b s
  | .ldfe k d a => Sys2Proof.Machine.execLdfe k d a s
  | .stfe k a b => Sys2Proof.Machine.execStfe k a b s
  | .ldf k d a => Sys2Proof.Machine.execLdf k d a s
  | .stf k a b => Sys2Proof.Machine.execStf k a b s
  | .fepr k p a => Sys2Proof.Machine.execFepr k p a s
  | .feset k a b => Sys2Proof.Machine.execFeset k a b s
  | .fence k m c => Sys2Proof.Machine.execFence k m c s
  | .rpub k a => Sys2Proof.Machine.execRpub k a s
  | .rview k d a => Sys2Proof.Machine.execRview k d a s
  | .cwbr k a b => Sys2Proof.Machine.execCwbr k a b s
  | .cinvr k a b => Sys2Proof.Machine.execCinvr k a b s
  | .cpin k n a b => Sys2Proof.Machine.execCpin k n a b s
  | .cunpin k n => Sys2Proof.Machine.execCunpin k n s
  | .pref k a => Sys2Proof.Machine.execPref k a s
  | .aadd k d a b => Sys2Proof.Machine.execAadd k d a b s
  | .amax k d a b => Sys2Proof.Machine.execAmax k d a b s
  | .amin k d a b => Sys2Proof.Machine.execAmin k d a b s
  | .aand k d a b => Sys2Proof.Machine.execAand k d a b s
  | .aor k d a b => Sys2Proof.Machine.execAor k d a b s
  | .axor k d a b => Sys2Proof.Machine.execAxor k d a b s
  | .aswp k d a b => Sys2Proof.Machine.execAswp k d a b s
  | .afadd k d a b => Sys2Proof.Machine.execAfadd k d a b s
  | .acas k d a b => Sys2Proof.Machine.execAcas k d a b s
  | .acasW k d a b => Sys2Proof.Machine.execAcasW k d a b s
  | .vadd k d a b => Sys2Proof.Machine.execVadd k d a b s
  | .vsub k d a b => Sys2Proof.Machine.execVsub k d a b s
  | .vmul k d a b => Sys2Proof.Machine.execVmul k d a b s
  | .vfma k d a b => Sys2Proof.Machine.execVfma k d a b s
  | .vmax k d a b => Sys2Proof.Machine.execVmax k d a b s
  | .vmin k d a b => Sys2Proof.Machine.execVmin k d a b s
  | .vfms k d a b => Sys2Proof.Machine.execVfms k d a b s
  | .vabd k d a b => Sys2Proof.Machine.execVabd k d a b s
  | .viadd k d a b => Sys2Proof.Machine.execViadd k d a b s
  | .visub k d a b => Sys2Proof.Machine.execVisub k d a b s
  | .vimul k d a b => Sys2Proof.Machine.execVimul k d a b s
  | .vand k d a b => Sys2Proof.Machine.execVand k d a b s
  | .vor k d a b => Sys2Proof.Machine.execVor k d a b s
  | .vxor k d a b => Sys2Proof.Machine.execVxor k d a b s
  | .vshl k d a b => Sys2Proof.Machine.execVshl k d a b s
  | .vshr k d a b => Sys2Proof.Machine.execVshr k d a b s
  | .vneg k d a => Sys2Proof.Machine.execVneg k d a s
  | .vabs k d a => Sys2Proof.Machine.execVabs k d a s
  | .vrcp k d a => Sys2Proof.Machine.execVrcp k d a s
  | .vrsq k d a => Sys2Proof.Machine.execVrsq k d a s
  | .vex2 k d a => Sys2Proof.Machine.execVex2 k d a s
  | .vlg2 k d a => Sys2Proof.Machine.execVlg2 k d a s
  | .vflr k d a => Sys2Proof.Machine.execVflr k d a s
  | .vmov k d a => Sys2Proof.Machine.execVmov k d a s
  | .vcvt k d a t sel u => Sys2Proof.Machine.execVcvt k d a t sel u s
  | .vcmp k p a b c => Sys2Proof.Machine.execVcmp k p a b c s
  | .vsel k d a b => Sys2Proof.Machine.execVsel k d a b s
  | .vprm k d a b => Sys2Proof.Machine.execVprm k d a b s
  | .vbc k d a => Sys2Proof.Machine.execVbc k d a s
  | .vext k d a b => Sys2Proof.Machine.execVext k d a b s
  | .vins k d a b => Sys2Proof.Machine.execVins k d a b s
  | .vrot k d a b => Sys2Proof.Machine.execVrot k d a b s
  | .vzip k d a b => Sys2Proof.Machine.execVzip k d a b s
  | .vuzp k d a b => Sys2Proof.Machine.execVuzp k d a b s
  | .vradd k d a => Sys2Proof.Machine.execVradd k d a s
  | .vrmax k d a => Sys2Proof.Machine.execVrmax k d a s
  | .vrmin k d a => Sys2Proof.Machine.execVrmin k d a s
  | .vdot k d a b => Sys2Proof.Machine.execVdot k d a b s
  | .vramx k d a => Sys2Proof.Machine.execVramx k d a s
  | .vqnt k d a h => Sys2Proof.Machine.execVqnt k d a h s
  | .vdq k d a h => Sys2Proof.Machine.execVdq k d a h s
  | .vhist k a h => Sys2Proof.Machine.execVhist k a h s
  | .vscx k d a h => Sys2Proof.Machine.execVscx k d a h s
  | .mdbind k a h => Sys2Proof.Machine.execMdbind k a h s
  | .mdclose k h => Sys2Proof.Machine.execMdclose k h s
  | .mdread k d a h => Sys2Proof.Machine.execMdread k d a h s
  | .mdset k a h => Sys2Proof.Machine.execMdset k a h s
  | .mdpm k d a h => Sys2Proof.Machine.execMdpm k d a h s
  | .mdwait k a h => Sys2Proof.Machine.execMdwait k a h s
  | .stld k sel a => Sys2Proof.Machine.execStld k sel a s
  | .stwr k sel a f => Sys2Proof.Machine.execStwr k sel a f s
  | .strd k d sel f => Sys2Proof.Machine.execStrd k d sel f s
  | .gset k g a => Sys2Proof.Machine.execGset k g a s
  | .gclr k g => Sys2Proof.Machine.execGclr k g s
  | .phase k => Sys2Proof.Machine.execPhase k s
  | .phwt k d a => Sys2Proof.Machine.execPhwt k d a s
  | .dmjoin k a => Sys2Proof.Machine.execDmjoin k a s
  | .dmleave k => Sys2Proof.Machine.execDmleave k s
  | .bbpost k a b => Sys2Proof.Machine.execBbpost k a b s
  | .bbwt k d a b => Sys2Proof.Machine.execBbwt k d a b s
  | .waitc k a b => Sys2Proof.Machine.execWaitc k a b s
  | .req k a b => Sys2Proof.Machine.execReq k a b s
  | .tspawn k d a => Sys2Proof.Machine.execTspawn k d a s
  | .tend k a => Sys2Proof.Machine.execTend k a s
  | .pwreq k d a => Sys2Proof.Machine.execPwreq k d a s
  | .pwrel k => Sys2Proof.Machine.execPwrel k s
  | .accr k d c => Sys2Proof.Machine.execAccr k d c s
  | .esnr k d => Sys2Proof.Machine.execEsnr k d s
  | .csrr k d c => Sys2Proof.Machine.execCsrr k d c s
  | .csrw k a c => Sys2Proof.Machine.execCsrw k a c s
  | .csrs k c a => Sys2Proof.Machine.execCsrs k c a s
  | .csrc k c a => Sys2Proof.Machine.execCsrc k c a s
  | .eret k => Sys2Proof.Machine.execEret k s
  | .tlbi k a b => Sys2Proof.Machine.execTlbi k a b s
  | .fencei k => Sys2Proof.Machine.execFencei k s
  | .wfe k => Sys2Proof.Machine.execWfe k s
  | .halt k => Sys2Proof.Machine.execHalt k s
  | .trap k imm => Sys2Proof.Machine.execTrap k imm s
  | .stamp tk slot fsel val => Sys2Proof.Machine.execStamp tk slot fsel val s
  | .guardDiscard e => Sys2Proof.Machine.execGuardDiscard e s
  | .powerGrant die => Sys2Proof.Machine.execPowerGrant die s
  | .unitReturn die => Sys2Proof.Machine.execUnitReturn die s
  | .commandCompletion e => Sys2Proof.Machine.execCommandCompletion e s
  | .rd src dst => Sys2Proof.Machine.execRd src dst s
  | .wr src dst => Sys2Proof.Machine.execWr src dst s
  | .atMsg src dst => Sys2Proof.Machine.execAtMsg src dst s
  | .inv src dst => Sys2Proof.Machine.execInv src dst s
  | .dataMsg src dst => Sys2Proof.Machine.execDataMsg src dst s
  | .ack src dst => Sys2Proof.Machine.execAck src dst s
  | .conflict src dst => Sys2Proof.Machine.execConflict src dst s
  | .retry src dst => Sys2Proof.Machine.execRetry src dst s
  | .linkDown port => Sys2Proof.Machine.execLinkDown port s
  | .boundaryComplete dom => Sys2Proof.Machine.execBoundaryComplete dom s
  | .regionPush r => Sys2Proof.Machine.execRegionPush r s
  | .ringPoll die => Sys2Proof.Machine.execRingPoll die s
  | .heldFireRetry die => Sys2Proof.Machine.execHeldFireRetry die s
  | .taskReady die => Sys2Proof.Machine.execTaskReady die s
  | .taskDispatch die => Sys2Proof.Machine.execTaskDispatch die s
  | .preempt die => Sys2Proof.Machine.execPreempt die s
  | .downwardStep die => Sys2Proof.Machine.execDownwardStep die s
  | .upwardStep die => Sys2Proof.Machine.execUpwardStep die s
  | .thermalBudgetLower die => Sys2Proof.Machine.execThermalBudgetLower die s
  | .thermalStep die => Sys2Proof.Machine.execThermalStep die s
  | .thermalTrip die => Sys2Proof.Machine.execThermalTrip die s
  | .scrub die => Sys2Proof.Machine.execScrub die s
  | .dumpRecord die => Sys2Proof.Machine.execDumpRecord die s
  | .dumpMarker die chan => Sys2Proof.Machine.execDumpMarker die chan s
  | .hbmTraining passed => Sys2Proof.Machine.execHbmTraining passed s
  | .rowTesting fails => Sys2Proof.Machine.execRowTesting fails s
  | .plateBinding bind => Sys2Proof.Machine.execPlateBinding bind s
  | .correctedErrorEvent die array => Sys2Proof.Machine.execCorrectedErrorEvent die array s
  | .msixVectorFire v => Sys2Proof.Machine.execMsixVectorFire v s
  | .remap die => Sys2Proof.Machine.execRemap die s
  | .atomicReply => Sys2Proof.Machine.execAtomicReply s
  | .loadResultLand => Sys2Proof.Machine.execLoadResultLand s
  | .bundleIssue => Sys2Proof.Machine.execBundleIssue s
  | .join => Sys2Proof.Machine.execJoin s
  | .mwl => Sys2Proof.Machine.execMwl s
  | .mma => Sys2Proof.Machine.execMma s
  | .mdr => Sys2Proof.Machine.execMdr s
  | .maz => Sys2Proof.Machine.execMaz s
  | .mas => Sys2Proof.Machine.execMas s
  | .mar => Sys2Proof.Machine.execMar s
  | .xtr => Sys2Proof.Machine.execXtr s
  | .xfw => Sys2Proof.Machine.execXfw s
  | .uaw => Sys2Proof.Machine.execUaw s
  | .usm => Sys2Proof.Machine.execUsm s
  | .uax => Sys2Proof.Machine.execUax s
  | .uns => Sys2Proof.Machine.execUns s
  | .cpy => Sys2Proof.Machine.execCpy s
  | .cpyPm => Sys2Proof.Machine.execCpyPm s
  | .cpyCv => Sys2Proof.Machine.execCpyCv s
  | .cpg => Sys2Proof.Machine.execCpg s
  | .cps => Sys2Proof.Machine.execCps s
  | .cpm => Sys2Proof.Machine.execCpm s
  | .cpl => Sys2Proof.Machine.execCpl s
  | .cpz => Sys2Proof.Machine.execCpz s
  | .histogramUpdate => Sys2Proof.Machine.execHistogramUpdate s
  | .iterationClose => Sys2Proof.Machine.execIterationClose s
  | .recordStore => Sys2Proof.Machine.execRecordStore s
  | .boundaryRelease => Sys2Proof.Machine.execBoundaryRelease s
  | .phwtTimeout => Sys2Proof.Machine.execPhwtTimeout s
  | .bbwtDone => Sys2Proof.Machine.execBbwtDone s
  | .bbwtTimeout => Sys2Proof.Machine.execBbwtTimeout s
  | .qfullTimeout => Sys2Proof.Machine.execQfullTimeout s
  | .tspawnTimeout => Sys2Proof.Machine.execTspawnTimeout s
  | .pwreqTimeout => Sys2Proof.Machine.execPwreqTimeout s
  | .staleTimeout => Sys2Proof.Machine.execStaleTimeout s
  | .allreduce => Sys2Proof.Machine.execAllreduce s
  | .reducescatter => Sys2Proof.Machine.execReducescatter s
  | .allgather => Sys2Proof.Machine.execAllgather s
  | .broadcast => Sys2Proof.Machine.execBroadcast s
  | .agree => Sys2Proof.Machine.execAgree s
  | .barrier => Sys2Proof.Machine.execBarrier s
  | .collectiveComplete => Sys2Proof.Machine.execCollectiveComplete s
  | .fireCopy => Sys2Proof.Machine.execFireCopy s
  | .fireSum => Sys2Proof.Machine.execFireSum s
  | .fireMax => Sys2Proof.Machine.execFireMax s
  | .continuationEnqueue => Sys2Proof.Machine.execContinuationEnqueue s
  | .traceSample => Sys2Proof.Machine.execTraceSample s
  | .enqueue => Sys2Proof.Machine.execEnqueue s
  | .functionLevelReset => Sys2Proof.Machine.execFunctionLevelReset s
  | .powerOnReset => Sys2Proof.Machine.execPowerOnReset s
  | .cycleCharge => Sys2Proof.Machine.execCycleCharge s
  | .write port f => Sys2Proof.Machine.execWrite port f s
  | .reduce port f => Sys2Proof.Machine.execReduce port f s
  | .readRequest port f => Sys2Proof.Machine.execReadRequest port f s
  | .readReply port f => Sys2Proof.Machine.execReadReply port f s
  | .control port f => Sys2Proof.Machine.execControl port f s
  | .flipMarker port f => Sys2Proof.Machine.execFlipMarker port f s
  | .link port f => Sys2Proof.Machine.execLink port f s
  | .stop port vc => Sys2Proof.Machine.execStop port vc s
  | .go port vc => Sys2Proof.Machine.execGo port vc s
  | .replay port seq => Sys2Proof.Machine.execReplay port seq s
  | .info m => Sys2Proof.Machine.execInfo m s
  | .attest m nonce => Sys2Proof.Machine.execAttest m nonce s
  | .fwLoad m image => Sys2Proof.Machine.execFwLoad m image s
  | .fwCommit m => Sys2Proof.Machine.execFwCommit m s
  | .queueSet m die queue asid root priv accbase accctl => Sys2Proof.Machine.execQueueSet m die queue asid root priv accbase accctl s
  | .domainCreate m dom asid rootDie rootDev parent k => Sys2Proof.Machine.execDomainCreate m dom asid rootDie rootDev parent k s
  | .regionSet m r entry => Sys2Proof.Machine.execRegionSet m r entry s
  | .policySet m index entry => Sys2Proof.Machine.execPolicySet m index entry s
  | .carve m die count => Sys2Proof.Machine.execCarve m die count s
  | .retnGrant m die index en asid => Sys2Proof.Machine.execRetnGrant m die index en asid s
  | .fatSet m entry flipdom map len => Sys2Proof.Machine.execFatSet m entry flipdom map len s
  | .fatArm m entry map len => Sys2Proof.Machine.execFatArm m entry map len s
  | .devidSet m id => Sys2Proof.Machine.execDevidSet m id s
  | .opSet m die point => Sys2Proof.Machine.execOpSet m die point s
  | .budget m die units => Sys2Proof.Machine.execBudget m die units s
  | .rowmapRead m die off len => Sys2Proof.Machine.execRowmapRead m die off len s
  | .eventRead m die off len => Sys2Proof.Machine.execEventRead m die off len s
  | .kill m target => Sys2Proof.Machine.execKill m target s
  | .thaw m target => Sys2Proof.Machine.execThaw m target s
  | .thawMode1 m target => Sys2Proof.Machine.execThawMode1 m target s
  | .acctRead m die off len => Sys2Proof.Machine.execAcctRead m die off len s
  | .imageMove m ctx dev die => Sys2Proof.Machine.execImageMove m ctx dev die s
  | .dbgSet m plate comp => Sys2Proof.Machine.execDbgSet m plate comp s
  | .dbgResume m ctx steps engstep => Sys2Proof.Machine.execDbgResume m ctx steps engstep s
  | .dbgTrace m plate base logsz kinds interval => Sys2Proof.Machine.execDbgTrace m plate base logsz kinds interval s
  | .dbgInject m ctx upset => Sys2Proof.Machine.execDbgInject m ctx upset s
  | .dump m group ranges keep => Sys2Proof.Machine.execDump m group ranges keep s
  | .dumpRead m die off len => Sys2Proof.Machine.execDumpRead m die off len s
  | .hqTailWrite v entries => Sys2Proof.Machine.execHqTailWrite v entries s
  | .controlPageWrite off v => Sys2Proof.Machine.execControlPageWrite off v s
  | .softError u => Sys2Proof.Machine.execSoftError u s

end Sys2Proof.Machine
end

