-- ==== Sys2Proof/Machine/Plan.lean ====
section
/-! DEFINITION. What the next step does (MODEL): the order in which the agents of the device take their turns. Inputs first;
then in every cycle the die units and the scheduler, then plate by plate the engines and the issue slots, then the charge. -/

namespace Sys2Proof.Machine

/-- A step to take: an instruction in a state that is ready for it, or a state that needs none. -/
inductive Act where
  | run (i : Instr) (s : State)
  | idle (s : State)

/-! ### Inputs (R376, R377) -/

/-- The mailbox a command came through. Log entry 24 (DESIGN CHOICE). -/
def mailOf : Instr → Option Mail
  | .info m => some m
  | .attest m _ => some m
  | .fwLoad m _ => some m
  | .fwCommit m => some m
  | .queueSet m _ _ _ _ _ _ _ => some m
  | .domainCreate m _ _ _ _ _ _ => some m
  | .regionSet m _ _ => some m
  | .policySet m _ _ => some m
  | .carve m _ _ => some m
  | .retnGrant m _ _ _ _ => some m
  | .fatSet m _ _ _ _ => some m
  | .fatArm m _ _ _ => some m
  | .devidSet m _ => some m
  | .opSet m _ _ => some m
  | .budget m _ _ => some m
  | .rowmapRead m _ _ _ => some m
  | .eventRead m _ _ _ => some m
  | .kill m _ => some m
  | .thaw m _ => some m
  | .thawMode1 m _ => some m
  | .acctRead m _ _ _ => some m
  | .imageMove m _ _ _ => some m
  | .dbgSet m _ _ => some m
  | .dbgResume m _ _ _ => some m
  | .dbgTrace m _ _ _ _ _ => some m
  | .dbgInject m _ _ => some m
  | .dump m _ _ _ => some m
  | .dumpRead m _ _ _ => some m
  | _ => none

/-- A command must wait for one of another mailbox that is in progress; after a failure none is (R377, R380). -/
def State.mailWaits (s : State) (m : Mail) : Bool :=
  !(s.control.stage == 15) && !s.inProgress.isEmpty && !(s.mailMine m)

/-- The input taken next: the oldest, but for commands that must wait for the one in progress (R377).
Log entry 24 (DESIGN CHOICE). -/
def State.nextInput (s : State) : Option Instr :=
  s.inbox.find? (fun i => match mailOf i with
    | some m => !(s.mailWaits m)
    | none => true)

/-! ### The staged start (R380) -/

/-- The next part of the staged start. Log entry 9 (DESIGN CHOICE). -/
def bootRow (stage : Nat) : Instr :=
  match stage with
  | 0 => .powerOnReset
  | 1 => .hbmTraining Config.trained
  | 2 => .hbmTraining Config.trained
  | 3 => .rowTesting Config.rowFails
  | _ => .plateBinding Config.binding

/-! ### The die units and the scheduler -/

/-- An entry of the agenda: the row that is due, if one is. -/
abbrev Entry := State → Option Instr

/-- A row that is due under a condition. -/
def duly (c : State → Bool) (i : Instr) : Entry := fun s => if c s then some i else none

/-- The dies as arguments. -/
def dieNums : List (BitVec 2) := [0, 1, 2, 3]

/-- The row that takes a message from die a to die h. -/
def rowOfMsg (a h : BitVec 2) : Msg → Instr
  | .rd _ _ _ => .rd a h
  | .wr _ _ _ _ _ _ _ => .wr a h
  | .atom _ _ _ _ _ _ _ => .atMsg a h
  | .inv _ => .inv a h
  | .data _ _ _ => .dataMsg a h
  | .ack _ _ => .ack a h
  | .conflict _ => .conflict a h
  | .retry _ _ _ => .retry a h
  | .marker c => .dumpMarker h (.die a (BitVec.ofNat 2 c))

/-- The row that takes the message of a channel from die a to die h that comes next; a request may have to wait (R273, R299). -/
def messageRow (a h : BitVec 2) (ch : Nat) : Entry := fun s =>
  if ch = 0 then
    match s.request a.toNat h.toNat with
    | some (q, m) =>
      let l := m.line
      if s.sliceCopied h.toNat l || (!q && m.chan == 0 && s.mustWait h.toNat l && (s.die h.toNat).sliceFull l) then none
      else some (rowOfMsg a h m)
    | none => none
  else (s.oldest a.toNat h.toNat ch).map (rowOfMsg a h)

/-- The messages between the dies, one of each channel a cycle. -/
def messageRows : List Entry :=
  dieNums.flatMap (fun a => (dieNums.filter (fun h => !(h == a))).flatMap (fun h => [0, 1, 2].map (messageRow a h)))

/-- The first domain whose boundary is due. -/
def boundaryRow : Entry := fun s =>
  ((s.domains.map (fun e => BitVec.ofNat 10 e.1)).find? s.boundaryDue).map Instr.boundaryComplete

/-- The first push on its way; when it arrives is open (R290). Log entry 35 (DESIGN CHOICE). -/
def pushRow : Entry := fun s =>
  if Config.freeBit s.cycle 4003 then s.pushes.head?.map (fun e => .regionPush (BitVec.ofNat 8 e.1)) else none

/-- The first port that has failed eight replays. -/
def linkRow : Entry := fun s =>
  (s.ports.find? (fun e => !e.2.down && decide (8 ≤ e.2.fails))).map (fun e => .linkDown (BitVec.ofNat 4 e.1))

/-- A collective row: its data can move, and no dump has stopped the fabric engines. -/
def collEntry (op : Nat) (i : Instr) : Entry := duly (fun s => !s.dumpStop && s.colls.any (s.collDue op)) i

/-- The step of a die: evacuation or its map, and its end (R264, R274). -/
def stepRow (d : BitVec 2) : Entry := fun s =>
  match (s.die d.toNat).step with
  | none => none
  | some r =>
    if r.target < (s.die d.toNat).point then
      (if !r.moving || s.moveDone d.toNat r then some (.downwardStep d) else none)
    else if !r.moving then (if r.wait = 0 then some (.remap d) else none)
    else if s.moveDone d.toNat r then some (.upwardStep d) else none

/-- Thermal protection (R385). -/
def thermalRows (d : BitVec 2) : List Entry :=
  [duly (fun s => decide (115 ≤ (s.die d.toNat).junction)) (.thermalTrip d),
   duly (fun s => let t := s.die d.toNat
     decide (105 ≤ t.junction) && s.thermalDue d.toNat t.stepped && !t.stepping && (s.coolPoint d.toNat).isSome) (.thermalStep d),
   duly (fun s => let t := s.die d.toNat
     decide (95 ≤ t.junction) && s.thermalDue d.toNat t.lowered && (if t.keepsTop then !t.stepping else decide (600 < t.budget)))
     (.thermalBudgetLower d)]

/-- The scheduler of a die (R326, R328 to R333); it dispatches nothing while a dump has stopped it (R370).
Log entry 54 (UNVERIFIED). -/
def schedulerRows (d : BitVec 2) : List Entry :=
  [duly (fun s => s.readyDue d.toNat) (.taskReady d),
   duly (fun s => !s.dumpStop && s.dispatchDue d.toNat) (.taskDispatch d),
   duly (fun s => (s.saveDue d.toNat).isSome || (!s.dumpStop && !(s.saving d.toNat) && (s.victim d.toNat).isSome)) (.preempt d)]

/-- Posting, scrubbing, samples and the dump (R359, R368, R371). Log entry 41 (DESIGN CHOICE). -/
def recordRows (d : BitVec 2) : List Entry :=
  [duly (fun s => s.cycle % max (s.micros d.toNat 10000000) 1 == 0) (.scrub d),
   fun s => ((s.die d.toNat).corrected.find? (fun e => s.correctedDue d.toNat e.1)).map
     (fun e => .correctedErrorEvent d (BitVec.ofNat 8 e.1)),
   duly (fun s => s.recordDue d.toNat) (.dumpRecord d)]

/-- What the die units and the scheduler do in a cycle, in this order, each at most once. Log entry 2 (DESIGN CHOICE). -/
def agenda : List Entry :=
  dieNums.map (fun d => duly (fun s => s.wantsGrant d.toNat) (.powerGrant d)) ++
  [duly (fun s => s.contribFirst) .histogramUpdate, duly (fun s => !s.contribFirst && !s.recStores.isEmpty) .recordStore,
   duly (fun s => s.closeNext.isSome) .iterationClose] ++
  messageRows ++ [boundaryRow, pushRow, linkRow] ++
  dieNums.map (fun d => duly (fun s => !s.dumpStop && !(s.die d.toNat).rings.isEmpty &&
    s.cycle % max (s.micros d.toNat 1) 1 == 0) (.ringPoll d)) ++
  [collEntry 1 .allreduce, collEntry 2 .reducescatter, collEntry 3 .allgather, collEntry 4 .broadcast, collEntry 5 .agree,
   collEntry 6 .barrier,
   duly (fun s => !s.dumpStop && s.colls.any (fun c => !c.past && c.code.isSome)) .collectiveComplete] ++
  dieNums.map (fun d => duly (fun s => !s.dumpStop && !(s.die d.toNat).fires.isEmpty) (.heldFireRetry d)) ++
  [duly (fun s => !s.dumpStop && s.fires.any (s.canFire 0)) .fireCopy,
   duly (fun s => !s.dumpStop && s.fires.any (s.canFire 1)) .fireSum,
   duly (fun s => !s.dumpStop && s.fires.any (s.canFire 2)) .fireMax,
   duly (fun s => s.continDue.isSome) .continuationEnqueue, duly State.hqDue .enqueue] ++
  dieNums.flatMap schedulerRows ++ dieNums.map stepRow ++ dieNums.flatMap thermalRows ++ dieNums.flatMap recordRows ++
  [duly (fun s => s.allPlates.any s.sampleDue) .traceSample] ++
  dieNums.map (fun v => duly (fun s => decide (v.toNat < 3) && s.msixDue v.toNat) (.msixVectorFire v))

/-- The first entry from place n on that is due, and the place after it. -/
def State.firstDue (s : State) : List Entry → Nat → Option (Nat × Instr)
  | [], _ => none
  | e :: es, n =>
    match e s with
    | some i => some (n + 1, i)
    | none => s.firstDue es (n + 1)

/-- The lowest plate from p on that has something to do. -/
def State.plateFrom (s : State) (p : Nat) : Option Nat :=
  (((s.allPlates.filter (fun q => decide (p ≤ q.id) && (q.places.toList.any (fun i => !(i == 0)) ||
    q.running.toList.any (fun r => !r.isEmpty)))).map (fun q => q.id))).foldl (fun b q => match b with
      | none => some q
      | some a => some (min a q)) none

/-- The phase after plate p, or the first plate's. -/
def State.phaseFrom (s : State) (p : Nat) : Phase :=
  match s.plateFrom p with
  | some q => .plate q 0
  | none => .charge

/-- The turn of the die units and the scheduler. Log entry 2 (DESIGN CHOICE). -/
def State.planManage (s : State) (n : Nat) : Act :=
  let s := if n = 0 ∧ s.dumpStop = false then s.noteFires else s
  match s.firstDue (agenda.drop n) n with
  | some (k, i) => .run i { s with phase := .manage k }
  | none => .idle { s with phase := s.phaseFrom 0 }

/-! ### The engines of a plate -/

/-- The row of an operation of an engine. -/
def opRow : EngOp → Instr
  | .mwl => .mwl
  | .mma => .mma
  | .mdr => .mdr
  | .maz => .maz
  | .mas => .mas
  | .mar => .mar
  | .xtr => .xtr
  | .xfw => .xfw
  | .uaw => .uaw
  | .usm => .usm
  | .uax => .uax
  | .uns => .uns
  | .cpy => .cpy
  | .cpyPm => .cpyPm
  | .cpyCv => .cpyCv
  | .cpg => .cpg
  | .cps => .cps
  | .cpm => .cpm
  | .cpl => .cpl
  | .cpz => .cpz

/-- A started command that has not yet read or written. -/
def State.unbegun (s : State) (e : Engine) : Option Running := (s.plate.running.get e.num).find? (fun r => !r.begun)

/-- What an engine does at its first turn of a cycle: a discard, or the start of the eligible head; an engine breakpoint stops its
context instead (R17, R72, R160, R180, R365). The Bool says that the turn goes on. -/
def State.engineAct (s : State) (e : Engine) : Option (Bool × Act) :=
  if (s.doomed e).isSome then some (true, .run (.guardDiscard e) s)
  else if (s.unbegun e).isSome then none
  else match s.nextHead e with
    | none => none
    | some (c, q, u, b) =>
      match s.plate.engineStop c q with
      | some i => some (true, .idle (s.stopAtCommand i c q))
      | none => some (false, .idle (s.beginCommand e c q u b))

/-- A started command's reads and writes, after the cycle's words (R34): they arrive before the words of the next cycle, CPM's
first, then in ascending engine number (R129). -/
def State.bodyAct (s : State) (e : Engine) (cpm : Bool) : Option Act :=
  match s.unbegun e with
  | some r => (opOf r.ent.stencil).bind (fun o => if (o == .cpm) = cpm then some (.run (opRow o) s) else none)
  | none => none

/-- A command of an engine completes in this cycle (R161). -/
def State.completes (s : State) (e : Engine) : Bool :=
  (s.plate.running.get e.num).any Running.ends

/-- The first resident context of the plate in focus with an engine fault to deliver (R348 to R350). -/
def State.faultDue (s : State) (old : Nat → Bool) : Option (BitVec 32 × Nat × HeldFault) :=
  s.plate.places.toList.findSome? (fun id => (s.ctxOf id).bind (fun c =>
    if c.life = .resident ∧ c.saving = false then (c.dueFault old).map (fun f => (c.id, f.1, f.2)) else none))

/-! ### The slots of a plate -/

/-- Why no strand of the context in focus issues: a step or a dump or a save (SWITCH), or what it is held for. -/
def State.heldFor (s : State) : Option Slot :=
  if s.enginesHeld s.ctx.die ∨ s.ctx.saving = true then some .switch
  else if 0 < s.ctx.hold then some s.ctx.holdFor
  else if s.ctx.joining.isSome ∧ (s.strand .c).mark = false ∧ s.ctx.csr.act = false then some .barrier
  else none

/-- The row under which a waiting word, or the bundle it stands in, goes on; `i` when no wait ends (R194, R196, R201, R204,
R209, R291). -/
def State.endRow (s : State) (i : Instr) : Instr :=
  if s.boundaryReady then .boundaryRelease
  else match s.waitingC with
    | some (.phwt _ _ a) => if (s.xOfC a).toNat ≤ s.waitedC then .phwtTimeout else i
    | some (.bbwt _ _ a b) =>
      if s.barrierDone a then .bbwtDone else if (s.xOfC b).toNat ≤ s.waitedC then .bbwtTimeout else i
    | some (.req _ _ _) => if s.reqtoPassed then .qfullTimeout else i
    | some (.tspawn _ _ _) => if s.reqtoPassed then .tspawnTimeout else i
    | some (.pwreq _ _ _) => if s.reqtoPassed then .pwreqTimeout else i
    | _ => i

/-- Nothing of the bundle or word of strand k has issued yet. -/
def State.untouched (s : State) (k : Strand) : Bool := !(s.strand k).mark && !(s.strand k).past

/-- The bundle's turn (R53): an instruction breakpoint stops before a bundle of which nothing has issued (R365). -/
def State.bundleAct (s : State) : Act :=
  let pc := (s.strand .c).pc
  match (if [Strand.c, .l, .x, .s].all s.untouched then s.instrStop pc else none) with
  | some i => .idle (s.stopAtWord i pc)
  | none =>
    if s.staleStrand.isSome then .run .staleTimeout s else .run (s.endRow .bundleIssue) s

/-- An apart strand's turn (R55). Log entry 45 (DESIGN CHOICE). -/
def State.strandAct (s : State) (k : Strand) : Act :=
  let t := s.strand k
  if t.joined then .idle (s.slotFor k .barrier)
  else if s.ctx.ending ∧ k ≠ .c ∧ (s.strand .c).since ≠ some s.cycle then .idle (s.slotFor k .idle)
  else match (if s.untouched k then s.instrStop t.pc else none) with
    | some i => .idle (s.stopAtWord i t.pc)
    | none =>
      match s.apartWord k with
      | .error u => .idle u
      | .ok (u, i) =>
        if s.staleStrand = some k then .run .staleTimeout s
        else if k = .c ∧ t.mark = true then
          (match s.endRow i with
            | .boundaryRelease => .run .boundaryRelease s
            | .phwtTimeout => .run .phwtTimeout s
            | .bbwtDone => .run .bbwtDone s
            | .bbwtTimeout => .run .bbwtTimeout s
            | .qfullTimeout => .run .qfullTimeout s
            | .tspawnTimeout => .run .tspawnTimeout s
            | .pwreqTimeout => .run .pwreqTimeout s
            | _ => .run i u)
        else .run i u

/-- Strand S acts before L in this cycle: it stands at a memory word that raises no fault (R129).
Log entry 45 (DESIGN CHOICE). -/
def State.sFirst (s : State) : Bool :=
  !(s.strand .s).joined && !s.ctx.ending && (match s.apartWord .s with
    | .ok (_, i) => isMemWord i && !(s.trial .s).parts
    | .error _ => false)

/-- The strand whose turn it is: C, S if it acts before L, L, X, S (R129). Log entry 45 (DESIGN CHOICE). -/
def strandTurn : Nat → Option Strand
  | 8 => some .c
  | 9 => some .s
  | 10 => some .l
  | 11 => some .x
  | 12 => some .s
  | _ => none

/-- Something of the cycle is still to act after strand turn n: another strand's word, one that was put off, or an engine's
command, whose fault may freeze the context. -/
def State.moreTurns (s : State) (n : Nat) : Bool :=
  let free (k : Strand) : Bool := !(s.strand k).joined
  !s.late.isEmpty || s.plate.running.toList.any (fun q => !q.isEmpty) ||
    (decide (n < 10) && free .l) || (decide (n < 11) && free .x) || (decide (n < 12) && !(n == 9) && !s.sDone && free .s)

/-- The turn of strand k in apart mode: a word that traps or leaves is put off to the end of its cycle (R208, R349, R387). -/
def State.strandTurnAct (s : State) (n : Nat) (k : Strand) : Act :=
  let e := if (s.strand k).joined || !(s.moreTurns n) then Event.none else s.trial k
  if e.parts then .idle { s.slotFor k .trap with late := s.late ++ [k] } else s.strandAct k

/-- A lock-step bundle's turn: one that traps is put off while an engine's command may fault in its cycle (R349). -/
def State.bundleTurn (s : State) : Act :=
  if s.plate.running.toList.any (fun q => !q.isEmpty) && s.bundleTraps then .idle { s.chargeAll .trap with late := [.c] }
  else s.bundleAct

/-- Charge the slots of a context that issues nothing: the strands that have joined wait for the others (R55, R340). -/
def State.chargeHold (s : State) (c : Slot) : State :=
  let joined (k : Strand) : Bool :=
    !s.ctx.lockstep && (s.strand k).joined && (c == .wake || c == .bankport || c == .dmem)
  [Strand.c, .l, .x, .s].foldl (fun t k => t.slotFor k (if joined k then .barrier else c)) s

/-- The slots of strands that have joined are charged BARRIER (R55, R340). -/
def State.chargeJoined (s : State) : State :=
  [Strand.c, .l, .x, .s].foldl (fun t k => if (s.strand k).joined then t.slotFor k .barrier else t) s

/-- The act of a slot's turn for the context in focus; none when the turn has nothing to do. -/
def State.slotAct (s : State) (turn : Nat) : Option Act :=
  match s.heldFor with
  | some c =>
    if turn ≠ 8 then none
    else if s.creationJoin.isSome ∧ s.ctx.hold = 0 then some (.run .boundaryRelease (s.chargeAll .barrier))
    else some (.idle (s.chargeHold c))
  | none =>
    if s.ctx.lockstep then (if turn = 8 then some s.bundleTurn else none)
    else if turn = 7 then some (.idle s.groupTurn)
    else match strandTurn turn with
      | none => none
      | some k =>
        if turn = 8 then some (s.chargeJoined.strandTurnAct 8 .c)
        else if turn = 9 then (if s.sFirst then some (s.strandTurnAct 9 .s) else none)
        else if turn = 12 ∧ s.sDone = true then none
        else some (s.strandTurnAct turn k)

/-- The active context of the plate in focus has turns in this cycle. -/
def State.hasTurns (s : State) : Bool := s.plate.active.isSome && !s.plate.charged

/-! ### The turns of a plate: 0 to 3 engine starts, 4 heads, 7 faults of earlier cycles and the issue group, 8 to 12 slots, 13 to
17 engine commands, 18 to 21 completions, 22 words put off, 23 join, 24 results, 25 engine faults -/

/-- A result in flight lands: a PREF in its cycle, a load when a strand has come to its bound, else at a time that is open, but not
while a full queue of a slice stops its die's requests (R59, R68, R124, R136, R137, R299). Log entry 12 (DEDUCED). -/
def State.landAct (s : State) : Option Act :=
  if s.ctx.flight.any s.prefDue then some (.run .loadResultLand s.bump)
  else if s.ctx.flight.any (fun f => !f.atomic && f.due.isNone) ∧ s.reqStopped s.ctx.die = false ∧
      ([Strand.c, .l, .x, .s].any (fun k => s.ctx.missBound k) = true ∨ Config.freeBit s.fresh 4001 = true) then
    some (.run .loadResultLand s.bump)
  else if s.ctx.flight.any (fun f => f.atomic && !f.wait) ∧ Config.freeBit s.fresh 4002 = true then some (.run .atomicReply s.bump)
  else none

/-- Words put off to the end of the cycle act; an engine fault that freezes the context goes first (R349). -/
def State.lateAct (s : State) : Act :=
  let froze := match s.faultDue (fun c => decide (c = s.cycle)) with
    | some (id, _, h) => id == s.ctx.id && h.cause == .prot
    | none => false
  let t := if s.ctx.lockstep then (if froze then s else s.bundleStep) else s.runLate froze
  .idle { t with late := [] }

/-- What turn n of the plate in focus does: the phase after it, and the act; none when there is nothing to do. The turn of a
lock-step bundle is the turn of all four slots, whether it splits the strands or not (R53, R54). -/
def State.plateAct (s : State) (n : Nat) : Option (Nat × Act) :=
  if n < 4 then (s.engineAct (Engine.ofNum n)).map (fun r => (if r.1 then n else n + 1, r.2))
  else if n = 4 then some (5, .idle ([Engine.mxe, .txe, .ude, .cpe].foldl State.judgeHeads s))
  else if n < 7 then none
  else if n < 13 then (if s.hasTurns then (s.slotAct n).map (fun a => (if s.ctx.lockstep then 13 else n + 1, a)) else none)
  else if n = 13 then (s.bodyAct .cpe true).map (fun a => (14, a))
  else if n < 18 then (s.bodyAct (Engine.ofNum (n - 14)) false).map (fun a => (n + 1, a))
  else if n < 22 then
    (if s.completes (Engine.ofNum (n - 18)) then some (n, .run (.commandCompletion (Engine.ofNum (n - 18))) s) else none)
  else if n = 22 then (if s.hasTurns ∧ s.late.isEmpty = false then some (23, s.lateAct) else none)
  else if n = 23 then (if s.hasTurns ∧ s.joinDue = true then some (24, .run .join s) else none)
  else if n = 24 then (if s.hasTurns then s.landAct.map (fun a => (25, a)) else none)
  else (s.faultDue (fun c => decide (c = s.cycle))).map (fun f => (25, .idle ((s.focus f.1).deliverFault f.2.1 f.2.2)))

/-- An engine fault of an earlier cycle is delivered before any word issues, and this cycle is the first of its entry (R214, R349,
R350). -/
def State.oldFault (s : State) (n : Nat) : Option Act :=
  if n = 7 then (s.faultDue (fun c => decide (c < s.cycle))).map (fun f =>
    .idle (((s.focus f.1).deliverFault f.2.1 f.2.2).mctx (fun c => { c with hold := c.hold - 1 }))) else none

/-- The first turn from n on that does something. -/
def State.turnFrom (s : State) : List Nat → Option (Nat × Nat × Act)
  | [] => none
  | n :: ns =>
    match s.oldFault n with
    | some a => some (n, n, a)
    | none =>
      match s.plateAct n with
      | some (k, a) => some (n, k, a)
      | none => s.turnFrom ns

/-- Set the phase after an act, and whether strand S has had its turn. -/
def Act.withPhase (a : Act) (p : Phase) (sDone : Bool) : Act :=
  match a with
  | .run i t => .run i { t with phase := p, sDone := sDone }
  | .idle t => .idle { t with phase := p, sDone := sDone }

/-- The plate comes into focus with its active context. -/
def State.focusActive (s : State) (p : Nat) : State :=
  let s := s.focusPlate p
  match s.plate.active with
  | some id => s.focus id
  | none => s

/-- The turn of a plate; what holds for one cycle of it ends with its last turn. Log entry 2 (DESIGN CHOICE). -/
def State.planPlate (s : State) (p n : Nat) : Act :=
  let s := s.focusActive p
  match s.turnFrom ((List.range 26).drop n) with
  | some (m, k, a) => a.withPhase (.plate p k) (s.sDone || m == 9)
  | none => .idle { s with phase := s.phaseFrom (p + 1), sDone := false, late := [], grouped := false }

/-! ### The whole -/

/-- The end of a cycle: units that may be freed, then the charge. Log entry 2 (DESIGN CHOICE). -/
def State.planCharge (s : State) : Act :=
  match dieNums.find? (fun d => decide (0 < (s.die d.toNat).returnable s.cycle)) with
  | some d => .run (.unitReturn d) s
  | none => .run .cycleCharge s

/-- The next step; after a failure of the start or a trip the plates are stopped, and inputs alone are served (R380, R385).
Log entry 2 (DESIGN CHOICE). -/
def State.plan (s : State) : Act :=
  match s.nextInput with
  | some i => .run i { s with inbox := s.inbox.erase i }
  | none =>
    if s.control.stage = 15 then .idle { s with cycle := s.cycle + 1 }
    else if s.control.stage < 5 then .run (bootRow s.control.stage) s
    else match s.phase with
      | .manage n => s.planManage n
      | .plate p n => s.planPlate p n
      | .charge => s.planCharge

end Sys2Proof.Machine
end

