-- ==== Sys2Proof/Machine/Place.lean ====
section
/-! DEFINITION. Placing one instruction where the next step fetches it: what the host, the firmware and the scheduler would
do before a program runs, in one state change. -/

namespace Sys2Proof.Machine

/-- A strand whose stream admits a word: C, unless its row of R81 or R84 keeps it to L, X or S.
Log entry 9 (DESIGN CHOICE). -/
def strandFor (w : Nat) : Strand :=
  let f := w % 8
  match w / 2 ^ 26 % 64 with
  | 0x16 => .x
  | 0x17 => .l
  | 0x18 => .l
  | 0x19 => .s
  | 0x1A => .s
  | 0x1B => if f = 0 ∨ f = 2 ∨ f = 4 ∨ f = 6 then .l else .s
  | 0x1C => if f = 3 ∨ f = 4 then .s else if f = 7 then .l else .c
  | 0x1D => .l
  | 0x1E => .l
  | m => if 0x1F ≤ m ∧ m ≤ 0x26 then .x else if 0x30 ≤ m then .l else .c

/-- The turn of a strand in a plate's cycle. -/
def turnOf : Strand → Nat
  | .c => 8 | .l => 10 | .x => 11 | .s => 12

/-- A page of 2 MiB at address 0 of address space 0: V, L, R, W, X and U set, TYPE UNC, physical base 0 (R255).
Log entry 9 (DESIGN CHOICE). -/
def placedPage : TlbEnt := { asid := 0, va := 0, size := 0x200000, pte := 0xBF }

/-- A context of S privilege, apart, whose strand k alone has not joined and stands at address 0.
Log entry 9 (DESIGN CHOICE). -/
def placedCtx (plate : Nat) (k : Strand) : Ctx :=
  Ctx.mstrand { Ctx.blank with
    id := 1, life := .resident, die := dieOfPlate plate, plate := plate, space := { Space.blank with priv := .s },
    lockstep := false, cur := k,
    strands := Quad.all { StrandSt.init 0 with joined := true } } k (fun t => { t with joined := false })

/-- The device in service, with one context on plate 0 whose strand stands at an instruction that lies at physical address 0:
it is that strand's turn. Log entry 9 (DESIGN CHOICE). -/
def State.placeWord (s : State) (nbits w : Nat) : State :=
  let w := w % 2 ^ nbits
  let k := strandFor w
  let s := s.enter (placedCtx 0 k)
  { s with
    plate := { s.plate with places := ⟨1, 0, 0, 0⟩, active := some 1, tlb := [placedPage], icache := [], bound := some 0,
                            charged := false, running := Quad.all [], ibps := [] },
    mem := writeBytes s.mem 0 (toBytes 4 w), poison := SMap.set false s.poison 0 false,
    dies := s.dies.set 0 { (s.die 0) with step := none }, dump := none, inbox := [],
    control := { s.control with stage := 5 }, phase := .plate 0 (turnOf k), sDone := false, bundle := false, late := [], grouped := true }

end Sys2Proof.Machine
end

