-- ==== Sys2Proof/Machine/Step.lean ====
section
/-! DEFINITION. The step: what `plan` picks, done by `exec`; and the placing of one instruction where the next step
fetches it. -/

namespace Sys2Proof.Machine

/-- One step of the machine. -/
def step (s : State) : Host.Outcome State Fault Refusal :=
  match s.plan with
  | .run i t => exec i t
  | .idle t => .next t

/-- The machine with an instruction placed where the next step fetches it: `placeWord`. Log entry 9 (DESIGN CHOICE). -/
def State.withFetchWord (s : State) (nbits w : Nat) : State := s.placeWord nbits w

end Sys2Proof.Machine
end

