-- ==== Sys2Proof/Safety.lean ====
section
/-! DEFINITION. The words that statements use: the canonical form of memory, what a word needs to issue, the state in which
its operands are read, and what closing a word may change. -/

namespace Sys2Proof.Machine

/-! ### Memory -/

/-- The canonical form of the byte memory: addresses strictly rising, no listed byte equal to what an unlisted address
reads as. Log entry 1 (DESIGN CHOICE). -/
abbrev Memory.wf (m : SMap Byte) : Bool := SMap.wf 0 m

/-- The canonical form of the memory of a state. -/
def State.memWf (s : State) : Prop := Memory.wf s.mem = true

/-- The keys of a table strictly rise: what a write needs to be read back. -/
def rising {α : Type} (m : SMap α) : Prop := (m.map (fun e => e.1)).Pairwise (· < ·)

/-- A byte of the coherent memory. -/
def State.byteAt (s : State) (pa : Nat) : Byte := SMap.get 0 s.mem pa

/-- A byte of the scratchpad of the context in focus. -/
def Ctx.spadAt (c : Ctx) (off : Nat) : Byte := SMap.get 0 c.spad off

/-! ### The issue of a word -/

/-- What a word needs to issue, beyond its own checks: it is well formed and stands where its row of R81 admits it (R52, R54,
R55, R91), it does not already wait (R194), no result or reply it needs is outstanding and its tokens are there and have room
(R58, R59, R68, R137, R351), its banks need no extra cycle (R66, R67), no register it reads holds an error (R357), and a join
of strand C has an aligned resume address (R55). -/
def State.ready (s : State) (i : Instr) (k : Ctl) (allowed : Strand → Bool) (ct : Bool) : Prop :=
  s.bump.misplaced i k.sy allowed ct = false ∧ (s.strand s.ctx.cur).mark = false ∧ s.bump.blocked i k = none ∧
  s.bump.bankStall i = none ∧ s.bump.regBad i.reads = none ∧ s.joinBad k = false

/-- The state in which a word's operands are read: its strand has counted it and made its pops (R73, R96), and registers that
it writes whole hold no error any more (R357). -/
def State.operands (s : State) (i : Instr) (k : Ctl) : State :=
  ((s.bump.mctx (fun c => { c with ported := false })).begin k).cureRegs i.writes

/-! ### What closing a word may change -/

/-- The words whose flags have not joined FSTAT are the same, with the same flags; their bounds may have counted down (R38, R68). -/
def Ctx.sameFlags (c d : Ctx) : Prop :=
  d.lateFlags.map (fun e => (e.strand, e.flags)) = c.lateFlags.map (fun e => (e.strand, e.flags))

/-- What closing a word leaves of a context: everything but the registers and the state of strands, tokens, results in flight
and slots, which statements about a word name one by one. -/
def Ctx.kept (c d : Ctx) : Prop :=
  c.sameFlags d ∧ d = { c with
    x := d.x, p := d.p, vp := d.vp, lines := d.lines, strands := d.strands, lockstep := d.lockstep, ported := d.ported,
    lateFlags := d.lateFlags, newNext := d.newNext, newPrev := d.newPrev, outNext := d.outNext, outPrev := d.outPrev, latch := d.latch,
    pends := d.pends, flight := d.flight, slots := d.slots, slotPcs := d.slotPcs }

/-- Every register of a context holds the same value: x, p, vp, the register-space lines, b0 to b3. -/
def Ctx.sameX (c d : Ctx) : Prop := d.x = c.x
def Ctx.sameP (c d : Ctx) : Prop := d.p = c.p
def Ctx.sameV (c d : Ctx) : Prop := d.vp = c.vp ∧ d.lines = c.lines
def Ctx.sameB (c d : Ctx) : Prop := ∀ j : Strand, (d.strands.get j.num).b = (c.strands.get j.num).b

/-- Nothing outside the context in focus has changed but the model's note of how the word ended. -/
def State.aside (u t : State) : Prop := t = { u with ctx := t.ctx, event := t.event }

/-- t is u once its word has closed: every register, and everything but control state, stays. -/
def State.closes (u t : State) : Prop :=
  u.aside t ∧ u.ctx.kept t.ctx ∧ u.ctx.sameX t.ctx ∧ u.ctx.sameP t.ctx ∧ u.ctx.sameV t.ctx ∧ u.ctx.sameB t.ctx

/-- What strand k must still issue before it may read a result in d: with bound n, n − 1 words (R68). -/
def Ctx.within (c : Ctx) (k : Strand) (d : Dest) (n : Nat) : Prop :=
  (c.pends.filter (fun p => p.strand == k && p.dest == d)).map (fun p => p.left) = if 1 < n then [n - 1] else []

/-- A word wrote v to x[d] with bound n and nothing else: x0 discards (R50), every other register and all memory stay. -/
def State.wroteX (u t : State) (d : Reg) (v : Word) (n : Nat) : Prop :=
  u.aside t ∧ u.ctx.kept t.ctx ∧ u.ctx.sameP t.ctx ∧ u.ctx.sameV t.ctx ∧ u.ctx.sameB t.ctx ∧
  (d ≠ 0 → (SMap.get (Cell.init 0) t.ctx.x d.toNat).val = v ∧ t.ctx.within u.ctx.cur (.x d.toNat) n) ∧
  ∀ r : Nat, r ≠ d.toNat ∨ d = 0 → SMap.get (Cell.init 0) t.ctx.x r = SMap.get (Cell.init 0) u.ctx.x r

/-- A word wrote v to p[d] with bound 1 and nothing else: p0 ignores (R95). -/
def State.wroteP (u t : State) (d : BitVec 4) (v : Bool) : Prop :=
  u.aside t ∧ u.ctx.kept t.ctx ∧ u.ctx.sameX t.ctx ∧ u.ctx.sameV t.ctx ∧ u.ctx.sameB t.ctx ∧
  (d ≠ 0 → (SMap.get (Cell.init false) t.ctx.p d.toNat).val = v ∧ t.ctx.within u.ctx.cur (.p d.toNat) 1) ∧
  ∀ r : Nat, r ≠ d.toNat ∨ d = 0 → SMap.get (Cell.init false) t.ctx.p r = SMap.get (Cell.init false) u.ctx.p r

/-- A word wrote w to line m of the register space with bound n and nothing else of the registers. -/
def State.wroteV (u t : State) (m : Nat) (w : VReg) (n : Nat) : Prop :=
  u.aside t ∧ u.ctx.kept t.ctx ∧ u.ctx.sameX t.ctx ∧ u.ctx.sameP t.ctx ∧ t.ctx.vp = u.ctx.vp ∧ u.ctx.sameB t.ctx ∧
  (SMap.get (Cell.init 0) t.ctx.lines m).val = w ∧ t.ctx.within u.ctx.cur (.v m) n ∧
  ∀ r : Nat, r ≠ m → SMap.get (Cell.init 0) t.ctx.lines r = SMap.get (Cell.init 0) u.ctx.lines r

/-- A word wrote v to b[n] of its strand and nothing else of the registers (R107, R108). -/
def State.wroteB (u t : State) (n : BitVec 2) (v : Word) : Prop :=
  u.aside t ∧ u.ctx.kept t.ctx ∧ u.ctx.sameX t.ctx ∧ u.ctx.sameP t.ctx ∧ u.ctx.sameV t.ctx ∧
  (t.strand u.ctx.cur).b.get n.toNat = v ∧
  (∀ m : BitVec 2, m ≠ n → (t.strand u.ctx.cur).b.get m.toNat = (u.strand u.ctx.cur).b.get m.toNat) ∧
  ∀ j : Strand, j ≠ u.ctx.cur → (t.strand j).b = (u.strand j).b

/-- The word made its strand (in lock-step, the bundle) go on at dest after n delay slots (R110); a word of a bundle leaves
that to the bundle (R53). -/
def State.jumpedTo (s t : State) (dest : Word) (n : Nat) : Prop :=
  t.event = .jumped s.ctx.cur dest n ∧
  (s.bundle = false →
    (t.strand s.ctx.cur).pc = (if n = 0 then dest else (s.strand s.ctx.cur).pc + BitVec.ofNat 64 s.ctx.stepOf) ∧
    (t.strand s.ctx.cur).xfer = (if n = 0 then none else some (dest, n)))

/-! ### The completion of a word, as statements say it -/

/-- When nothing holds the word, it goes on to a state that holds the value in x[d]. -/
def completesX (s : State) (i : Instr) (k : Ctl) (d : Reg) (n : Nat) (v : State → Word) : Prop :=
  s.ready i k anyStrand false →
    ∃ t, exec i s = .next t ∧ (s.operands i k).wroteX t d (v (s.operands i k)) n

/-- When nothing holds the word, it goes on to a state that holds the value in p[d]. -/
def completesP (s : State) (i : Instr) (k : Ctl) (allowed : Strand → Bool) (d : BitVec 4) (v : State → Bool) : Prop :=
  s.ready i k allowed false →
    ∃ t, exec i s = .next t ∧ (s.operands i k).wroteP t d (v (s.operands i k))

/-- When nothing holds the word and its vector registers lie in the register space (R61), it goes on to a state that holds
the value in the line that v[d] names. -/
def completesV (s : State) (i : Instr) (k : Ctl) (d : Reg) (regs : List Reg) (n : Nat) (v : State → VReg) : Prop :=
  s.ready i k onlyX false → (∀ r ∈ regs, (s.operands i k).vok r = true) →
    ∃ t, exec i s = .next t ∧ (s.operands i k).wroteV t ((s.operands i k).vline d) (v (s.operands i k)) n

/-- When nothing holds the word and its own checks pass, it goes on to its effect e, closed. -/
def completes (s : State) (i : Instr) (k : Ctl) (allowed : Strand → Bool) (ct : Bool) (e : State → State) : Prop :=
  s.ready i k allowed ct → ∃ t, exec i s = .next t ∧ (e (s.operands i k)).closes t

/-- When nothing holds the word it goes on to the effect e, closed. -/
def goesTo (s : State) (i : Instr) (k : Ctl) (allowed : Strand → Bool) (ct : Bool) (e : State) : Prop :=
  s.ready i k allowed ct → ∃ t, exec i s = .next t ∧ e.closes t

/-- When nothing holds the word it goes on to the effect e with its pushes still owed: what it started brings them, and f is
in flight (R59, R68, R137). -/
def goesLater (s : State) (i : Instr) (k : Ctl) (allowed : Strand → Bool) (e : State) (f : InFlight) : Prop :=
  s.ready i k allowed false → ∃ t, exec i s = .next t ∧ e.closes t ∧ f ∈ t.ctx.flight

/-- When nothing holds the word it goes on to e with v in x[d] and nothing else. -/
def goesToX (s : State) (i : Instr) (k : Ctl) (allowed : Strand → Bool) (e : State) (d : Reg) (v : Word) (n : Nat) : Prop :=
  s.ready i k allowed false → ∃ t, exec i s = .next t ∧ e.wroteX t d v n

/-! ### What memory operations may touch -/

/-- A WR or AT that its home has not performed may write a byte (R299). -/
def Msg.covers (m : Msg) (pa : Nat) : Bool :=
  m.pending && (match m with
    | .wr line _ mask _ _ _ _ => line == pa / 128 && mask.getLsbD (pa % 128)
    | .atom addr _ _ _ _ _ _ => decide (addr ≤ pa) && decide (pa < addr + 16)
    | _ => false)

/-- A byte that still goes home: a cache of the plate in focus or a SWM copy of a die holds it dirty, or a WR or AT that is on its
way, or waits at the home, writes it (R245, R299). -/
def State.owed (s : State) (pa : Nat) : Bool :=
  s.plate.l1.any (fun l => l.line == pa / 128 && l.dirty.getLsbD (pa % 128)) ||
  s.dies.toList.any (fun t => t.l2.any (fun e => e.swm && e.line == pa / 128 && e.dirty.getLsbD (pa % 128))) ||
  s.net.any (fun e => (e.2.skid ++ e.2.out).any (fun p => p.msg.covers pa)) ||
  s.dies.toList.any (fun t => t.waitq.any (fun e => e.2.covers pa))

/-- Coherent memory after t reads as before at every byte that nothing owed and that is outside a set. -/
def State.spares (s t : State) (inside : Nat → Prop) : Prop :=
  ∀ pa, s.owed pa = false → ¬ inside pa → t.byteAt pa = s.byteAt pa

/-- The physical bytes of resolved parts. -/
def bytesOf (ps : List Piece) (pa : Nat) : Prop :=
  ∃ p ∈ ps, match p.tgt with | .mem x => x.pa ≤ pa ∧ pa < x.pa + p.len | .win _ => False

/-! ### Words that wait, and exceptions -/

/-- The word issues now, or has issued and is attempted again (R194). -/
def State.takes (s : State) (i : Instr) (k : Ctl) (allowed : Strand → Bool) (ct : Bool) : Prop :=
  s.ready i k allowed ct ∨
    ((s.strand s.ctx.cur).mark = true ∧ s.bump.misplaced i k.sy allowed ct = false ∧ s.joinBad k = false)

/-- The state in which the word's effect runs: at its issue, or at a later attempt. -/
def State.begun (s : State) (i : Instr) (k : Ctl) : State :=
  if (s.strand s.ctx.cur).mark then s.bump else s.operands i k

/-- When nothing holds the word, or it has issued already, it goes on to the effect e, closed. -/
def endsIn (s : State) (i : Instr) (k : Ctl) (allowed : Strand → Bool) (e : State) : Prop :=
  s.takes i k allowed false → ∃ t, exec i s = .next t ∧ e.closes t

/-- When nothing holds the word, or it has issued already, it leaves e behind and waits at its address, charged c (R194). -/
def waitsIn (s : State) (i : Instr) (k : Ctl) (allowed : Strand → Bool) (e : State) (c : Slot) : Prop :=
  s.takes i k allowed false →
    ∃ t, exec i s = .next t ∧ e.closes t ∧ (t.strand s.ctx.cur).mark = true ∧
      (t.strand s.ctx.cur).pc = (s.strand s.ctx.cur).pc ∧ ∃ hold, t.event = .waiting s.ctx.cur c hold

/-- An exception of strand k has been taken (R213, R214): the trap CSRs hold it with ACT set, the frame holds the strands of f, the
trapping word's wait over, and its mode, and the four strands stand in lock-step at the handler. -/
def State.tookTrap (f t : State) (c : Cause) (k : Strand) (tpc addr : Word) (word : BitVec 32) : Prop :=
  t.ctx.csr.tcause = BitVec.ofNat 64 (c.code + 512) ∧ t.ctx.csr.tpc = tpc ∧ t.ctx.csr.taddr = addr ∧
  t.ctx.csr.tword = word.setWidth 64 ∧ t.ctx.csr.tesn = 0 ∧ t.ctx.csr.tstrand = BitVec.ofNat 64 k.num ∧
  (∃ a, t.ctx.frame = some
    { strands := (f.ctx.unmark k.num).strands.map StrandSt.frame, lockstep := f.ctx.lockstep, after := a }) ∧
  t.ctx.lockstep = true ∧
  ∀ j : Strand, (t.strand j).pc = f.ctx.csr.vector ∧ (t.strand j).xfer = none ∧ (t.strand j).joined = false ∧
    (t.strand j).mark = false

/-- A handler is installed and no trap is being handled (R213). -/
def State.canTrap (s : State) : Prop := s.ctx.csr.act = false ∧ s.ctx.csr.vector ≠ 0

/-- Die d's journal holds an entry of a kind, source, status and object (R338, R339). -/
def State.logged (s : State) (d kind source : Nat) (status : BitVec 32) (object : Word) : Prop :=
  ∃ e ∈ (s.die d).journal, e.kind = kind ∧ e.source = source ∧ e.status = status ∧ e.object = object

/-! ### Engine commands -/

/-- Engine e runs the body of command q, of operation op: q has started and waits for its body, or no such command does and q is the
head that its engine takes, eligible with its units and without an error. r is its started command, o its state, and u the state
its body runs in, with what it holds from its start (R17, R160, R161, R189, R279). -/
def State.atBody (s : State) (e : Engine) (op : EngOp) (q : QEntry) (o u : State) (r : Running) : Prop :=
  let waits := (s.plate.running.get e.num).find? (fun x => !x.begun && opOf x.ent.stencil == some op)
  ((waits = some r ∧ r.ent = q ∧ (s.ctxOf r.ctx).isSome = true ∧ o = (s.focus r.ctx).bump) ∨
    ∃ (c : Ctx) (n : Nat) (b : Bool), waits = none ∧
      s.nextHead e = some (c, q, n, b) ∧ opOf q.stencil = some op ∧ (s.focus c.id).entryBad e = false ∧
      o = (s.takeHead e c q n b).commandAcquire q ∧ r = Running.start c q s.cycle n b) ∧
  u = o.latchFor r

/-- What a command's body may change of its context: the scratchpad with its tags and bits, the staging buffer, the weight and
the tiles; no register, flag or queue. -/
def Ctx.engineKept (c d : Ctx) : Prop :=
  d = { c with spad := d.spad, tags := d.tags, fe := d.fe, staging := d.staging, weight := d.weight, tiles := d.tiles }

/-- What a body that moves no data outside the plate may change: the context's working storage, the state of the generator, the
note of whose weight the array holds, and errors that it overwrites. -/
def State.engineOnly (u v : State) : Prop :=
  u.ctx.engineKept v.ctx ∧
  v = { u with ctx := v.ctx, bad := v.bad, plate := { u.plate with lfsr := v.plate.lfsr, arrayOf := v.plate.arrayOf } }

/-- The started command r is busy for n cycles, and x is what its running entry holds. -/
def State.busyFor (t : State) (r : Running) (n : Nat) (x : Running) : Prop :=
  x.ent = r.ent ∧ x.ctx = r.ctx ∧ x.begun = true ∧ x.left = n ∧ x ∈ t.plate.running.get (engineOf r.ent.stencil).num

/-- What follows a body that has run, for a command whose state was o: r's running entry becomes y, begun and busy for n cycles. -/
def State.afterBody (v o : State) (r : Running) (n : Nat) (y : Running) : State :=
  (v.unlatch o).mrunning (engineOf r.ent.stencil) (fun l => l.map (fun x =>
    if x.ent == r.ent && x.ctx == r.ctx then { y with begun := true, left := max n 1 } else x))

/-! ### Mailbox commands -/

/-- A command of mailbox m was completed: its response, unless another command written meanwhile has spoilt it, GO clear and DONE set;
the host mailbox's vector 0 waits (R374 to R377). -/
def State.mailDone (s t : State) (m : Mail) (status : Nat) (data : List Word) : Prop :=
  (Mail.key m ∉ s.spoilt → SMap.get none t.resp (Mail.key m) = some { status := status, tag := m.tag, data := data }) ∧
  (m.sup = none → t.control.go = false ∧ t.control.done = true ∧ (t.msix.get 0).waiting = true) ∧
  ∀ d, m.sup = some d → (t.die d.toNat).mail.go = false ∧ (t.die d.toNat).mail.done = true

/-- Nothing but a mailbox's own state has changed: the dies, GO, DONE and OVR of the mailboxes, responses, vectors (R374 to R377). -/
def State.mailOnly (s t : State) : Prop :=
  t = { s with resp := t.resp, spoilt := t.spoilt, msix := t.msix, dies := t.dies, control := t.control } ∧
  t.control = { s.control with go := t.control.go, done := t.control.done, ovr := t.control.ovr } ∧
  ∀ d : BitVec 2, t.die d.toNat = { s.die d.toNat with mail := (t.die d.toNat).mail }

/-- A command written while one of its mailbox is in progress is ignored, with OVR set and the response to come undefined; one turned
away is answered with its status; neither does anything else (R375 to R378, R380). -/
def State.mailAway (s : State) (m : Mail) (stage : Nat) (sup : Bool) (i : Instr) : Prop :=
  (s.mailMine m = true → ∃ t, exec i s = .next t ∧ s.mailOnly t ∧ t.resp = s.resp ∧ Mail.key m ∈ t.spoilt ∧
    (m.sup = none → t.control = { s.control with ovr := true }) ∧
    ∀ d, m.sup = some d → (t.die d.toNat).mail = { (s.die d.toNat).mail with ovr := true }) ∧
  ∀ n, s.mailMine m = false → s.turnedAway m stage sup = some n → ∃ t, exec i s = .next t ∧ s.mailDone t m n [] ∧ s.mailOnly t

/-- A command is served: no other of its mailbox is in progress, and nothing turns it away (R376, R378). -/
def State.mailServed (s : State) (m : Mail) (stage : Nat) (sup : Bool) : Prop :=
  s.mailMine m = false ∧ s.turnedAway m stage sup = none

/-! ### Words of the encoding tables -/

/-- A word of the layout F-R (R81): major [31:26], TK [25:22], SY [21], d [20:15], a [14:9], b [8:3], f [2:0]. -/
def frWord (major f : Nat) (k : Ctl) (d a b : Reg) : Nat :=
  major * 2 ^ 26 + k.tk.toNat * 2 ^ 22 + k.sy.toNat * 2 ^ 21 + d.toNat * 2 ^ 15 + a.toNat * 2 ^ 9 + b.toNat * 2 ^ 3 + f

/-- A word of the layout of PLOG (R106): TK and SY as everywhere, pd [20:17], pa [16:13], pb [12:9], f [2:0]. -/
def plogWord (f : Nat) (k : Ctl) (p q r : BitVec 4) : Nat :=
  0x11 * 2 ^ 26 + k.tk.toNat * 2 ^ 22 + k.sy.toNat * 2 ^ 21 + p.toNat * 2 ^ 17 + q.toNat * 2 ^ 13 + r.toNat * 2 ^ 9 + f

/-! ### The tables of the machine -/

/-- The tables of a context that statements read are in order. -/
def Ctx.ordered (c : Ctx) : Prop :=
  SMap.wf (Cell.init false) c.p = true ∧ SMap.wf 0 c.spad = true ∧ SMap.wf false c.fe = true ∧ SMap.wf none c.tags = true ∧ rising c.x ∧ rising c.lines ∧
  ∀ i < 4, SMap.wf 0 (c.tiles.get i).elems = true

/-- The tables of the machine that statements read are in order, those of every context that exists among them, and every valid
policy entry is one that POLICY_SET admits (R231). -/
def State.ordered (s : State) : Prop :=
  rising s.writers ∧ rising s.net ∧ rising s.ports ∧ rising s.fat ∧ rising s.regions ∧ rising s.resp ∧ SMap.wf none s.ctxs = true ∧
  (∀ d < 4, rising (s.die d).queues ∧ rising (s.die d).grants) ∧
  (∀ n, polV (s.policyOf n) = true → polOk (s.policyOf n) = true) ∧
  s.ctx.ordered ∧ ∀ e ∈ s.ctxs, ∀ c, e.2 = some c → c.ordered

end Sys2Proof.Machine
end

