-- ==== Sys2Proof/Certificates/Slice0/Obligations.lean ====
section
/-! DEFINITION. The statements for the provers. Words are stated through `completesX`, `completesP`, `completesV` and `completes`
of Sys2Proof/Safety.lean: a word that nothing holds goes on to a state with its result, and everything else unchanged. -/

open Sys2Proof Sys2Proof.Machine

/-! ### Encoding -/

/-- Decoding what encoding gives is the identity on every well-formed word, with every operand at every value. -/
def Obligations.DecodeEncode : Prop :=
  ∀ i : Instr, i.isWord = true → i.wellFormed = true → decodeWord (encodeWord i) = .ok i

/-! ### Scalar words (05) -/

/-- The three-register words of R97: value and bound, and nothing else changes. Shifts take the low six bits; division never
traps, a divisor of zero gives all ones and the dividend, and −2^63 by −1 wraps. Last, the major and minor of each word. -/
def Obligations.ScalarResults : Prop :=
  (∀ (k : Ctl) (d a b : Reg) (s : State),
     completesX s (.add k d a b) k d 1 (fun u => u.x a + u.x b) ∧
     completesX s (.sub k d a b) k d 1 (fun u => u.x a - u.x b) ∧
     completesX s (.and k d a b) k d 1 (fun u => u.x a &&& u.x b) ∧
     completesX s (.or k d a b) k d 1 (fun u => u.x a ||| u.x b) ∧
     completesX s (.xor k d a b) k d 1 (fun u => u.x a ^^^ u.x b) ∧
     completesX s (.shl k d a b) k d 1 (fun u => u.x a <<< ((u.x b).toNat % 64)) ∧
     completesX s (.shr k d a b) k d 1 (fun u => u.x a >>> ((u.x b).toNat % 64)) ∧
     completesX s (.sar k d a b) k d 1 (fun u => (u.x a).sshiftRight ((u.x b).toNat % 64)) ∧
     completesX s (.min k d a b) k d 1 (fun u => if (u.x b).toInt < (u.x a).toInt then u.x b else u.x a) ∧
     completesX s (.max k d a b) k d 1 (fun u => if (u.x b).toInt < (u.x a).toInt then u.x a else u.x b) ∧
     completesX s (.minu k d a b) k d 1 (fun u => if (u.x b).toNat < (u.x a).toNat then u.x b else u.x a) ∧
     completesX s (.maxu k d a b) k d 1 (fun u => if (u.x b).toNat < (u.x a).toNat then u.x a else u.x b) ∧
     completesX s (.andn k d a b) k d 1 (fun u => u.x a &&& ~~~(u.x b)) ∧
     completesX s (.slt k d a b) k d 1 (fun u => if (u.x a).toInt < (u.x b).toInt then 1 else 0) ∧
     completesX s (.sltu k d a b) k d 1 (fun u => if (u.x a).toNat < (u.x b).toNat then 1 else 0) ∧
     completesX s (.orn k d a b) k d 1 (fun u => u.x a ||| ~~~(u.x b))) ∧
  (∀ (k : Ctl) (d a b : Reg) (s : State),
     completesX s (.mul k d a b) k d 3 (fun u => BitVec.ofNat 64 ((u.x a).toNat * (u.x b).toNat)) ∧
     completesX s (.mulh k d a b) k d 3 (fun u => BitVec.ofInt 64 ((u.x a).toInt * (u.x b).toInt / 2 ^ 64)) ∧
     completesX s (.mulhu k d a b) k d 3 (fun u => BitVec.ofNat 64 ((u.x a).toNat * (u.x b).toNat / 2 ^ 64)) ∧
     completesX s (.div k d a b) k d 20 (fun u => if (u.x b).toNat = 0 then BitVec.allOnes 64
       else BitVec.ofInt 64 ((u.x a).toInt.tdiv (u.x b).toInt)) ∧
     completesX s (.divu k d a b) k d 20 (fun u => if (u.x b).toNat = 0 then BitVec.allOnes 64
       else BitVec.ofNat 64 ((u.x a).toNat / (u.x b).toNat)) ∧
     completesX s (.rem k d a b) k d 20 (fun u => if (u.x b).toNat = 0 then u.x a
       else BitVec.ofInt 64 ((u.x a).toInt.tmod (u.x b).toInt)) ∧
     completesX s (.remu k d a b) k d 20 (fun u => if (u.x b).toNat = 0 then u.x a
       else BitVec.ofNat 64 ((u.x a).toNat % (u.x b).toNat))) ∧
  (∀ (k : Ctl) (d a b : Reg), ∀ e ∈ (
       [(0x00, 0, .add k d a b), (0x00, 1, .sub k d a b), (0x00, 2, .and k d a b), (0x00, 3, .or k d a b),
        (0x00, 4, .xor k d a b), (0x00, 5, .shl k d a b), (0x00, 6, .shr k d a b), (0x00, 7, .sar k d a b),
        (0x01, 0, .mul k d a b), (0x01, 1, .mulh k d a b), (0x01, 2, .mulhu k d a b), (0x01, 3, .min k d a b),
        (0x01, 4, .max k d a b), (0x01, 5, .minu k d a b), (0x01, 6, .maxu k d a b), (0x01, 7, .andn k d a b),
        (0x02, 0, .div k d a b), (0x02, 1, .divu k d a b), (0x02, 2, .rem k d a b), (0x02, 3, .remu k d a b),
        (0x02, 4, .slt k d a b), (0x02, 5, .sltu k d a b), (0x02, 6, .orn k d a b)] : List (Nat × Nat × Instr)),
    decodeWord (frWord e.1 e.2.1 k d a b) = .ok e.2.2)

/-- The unary words of R98, each result named by its defining property, the immediate words of R99 and R100, and the address
and bit-field words of R101 to R104: value, bound 1, and nothing else changes. LSI and BFI read their own destination.
Last, the major and minor of the words of R98, R101, R102 and R104. -/
def Obligations.UnaryAndImmediate : Prop :=
  (∀ (k : Ctl) (d a : Reg) (s : State),
     (∃ f : Word → Word, completesX s (.clz k d a) k d 1 (fun u => f (u.x a)) ∧
       ∀ w : Word, (f w).toNat ≤ 64 ∧ w.toNat < 2 ^ (64 - (f w).toNat) ∧ (w ≠ 0 → 2 ^ (63 - (f w).toNat) ≤ w.toNat) ∧
         (w = 0 → f w = 64)) ∧
     (∃ f : Word → Word, completesX s (.ctz k d a) k d 1 (fun u => f (u.x a)) ∧
       ∀ w : Word, (w = 0 → f w = 64) ∧
         (w ≠ 0 → w.getLsbD (f w).toNat = true ∧ ∀ i < (f w).toNat, w.getLsbD i = false)) ∧
     completesX s (.popc k d a) k d 1 (fun u => BitVec.ofNat 64 ((List.range 64).countP (fun i => (u.x a).getLsbD i))) ∧
     (∃ f : Word → Word, completesX s (.brev k d a) k d 1 (fun u => f (u.x a)) ∧
       ∀ (w : Word) (i : Nat), i < 64 → (f w).getLsbD (63 - i) = w.getLsbD i) ∧
     completesX s (.abs k d a) k d 1 (fun u => BitVec.ofNat 64 (u.x a).toInt.natAbs) ∧
     completesX s (.sxb k d a) k d 1 (fun u => ((u.x a).setWidth 8).signExtend 64) ∧
     completesX s (.sxh k d a) k d 1 (fun u => ((u.x a).setWidth 16).signExtend 64) ∧
     completesX s (.sxw k d a) k d 1 (fun u => ((u.x a).setWidth 32).signExtend 64)) ∧
  (∀ (k : Ctl) (d a : Reg) (i : BitVec 9) (n : BitVec 6) (j : BitVec 15) (s : State),
     completesX s (.addi k d a i) k d 1 (fun u => u.x a + i.signExtend 64) ∧
     completesX s (.andi k d a i) k d 1 (fun u => u.x a &&& i.signExtend 64) ∧
     completesX s (.ori k d a i) k d 1 (fun u => u.x a ||| i.signExtend 64) ∧
     completesX s (.xori k d a i) k d 1 (fun u => u.x a ^^^ i.signExtend 64) ∧
     completesX s (.slti k d a i) k d 1 (fun u => if (u.x a).toInt < i.toInt then 1 else 0) ∧
     completesX s (.sltiu k d a i) k d 1 (fun u => if (u.x a).toNat < (i.signExtend 64).toNat then 1 else 0) ∧
     completesX s (.shli k d a n) k d 1 (fun u => u.x a <<< n.toNat) ∧
     completesX s (.shri k d a n) k d 1 (fun u => u.x a >>> n.toNat) ∧
     completesX s (.sari k d a n) k d 1 (fun u => (u.x a).sshiftRight n.toNat) ∧
     completesX s (.li k d j) k d 1 (fun _ => j.signExtend 64) ∧
     completesX s (.lsi k d j) k d 1 (fun u => BitVec.ofNat 64 ((u.x d).toNat * 2 ^ 15 + j.toNat))) ∧
  (∀ (k : Ctl) (d a b : Reg) (p : BitVec 4) (n : BitVec 3) (s : State),
     completesX s (.adds1 k d a b) k d 1 (fun u => BitVec.ofNat 64 ((u.x a).toNat + (u.x b).toNat * 2)) ∧
     completesX s (.adds2 k d a b) k d 1 (fun u => BitVec.ofNat 64 ((u.x a).toNat + (u.x b).toNat * 4)) ∧
     completesX s (.adds3 k d a b) k d 1 (fun u => BitVec.ofNat 64 ((u.x a).toNat + (u.x b).toNat * 8)) ∧
     completesX s (.adds4 k d a b) k d 1 (fun u => BitVec.ofNat 64 ((u.x a).toNat + (u.x b).toNat * 16)) ∧
     completesX s (.bfx k d a b) k d 1 (fun u =>
       BitVec.ofNat 64 ((u.x a).toNat / 2 ^ ((u.x b).toNat % 64) % 2 ^ ((u.x b).toNat / 256 % 64))) ∧
     completesX s (.bfi k d a b) k d 1 (fun u =>
       let pos := (u.x b).toNat % 64
       let mask : Word := BitVec.ofNat 64 ((2 ^ ((u.x b).toNat / 256 % 64) - 1) * 2 ^ pos)
       (u.x d &&& ~~~mask) ||| (BitVec.ofNat 64 ((u.x a).toNat * 2 ^ pos) &&& mask)) ∧
     completesX s (.ptox k d p) k d 1 (fun u => if u.p p.toNat then 1 else 0) ∧
     completesX s (.sel k d a b n) k d 1 (fun u => if u.p n.toNat then u.x a else u.x b)) ∧
  (∀ (k : Ctl) (d a : Reg), ∀ e ∈ (
       [(0x03, 0, .clz k d a), (0x03, 1, .ctz k d a), (0x03, 2, .popc k d a), (0x03, 3, .brev k d a), (0x03, 4, .abs k d a),
        (0x03, 5, .sxb k d a), (0x03, 6, .sxh k d a), (0x03, 7, .sxw k d a)] : List (Nat × Nat × Instr)),
    decodeWord (frWord e.1 e.2.1 k d a 0) = .ok e.2.2) ∧
  (∀ (k : Ctl) (d a b : Reg), ∀ e ∈ (
       [(0x0D, 0, .adds1 k d a b), (0x0D, 1, .adds2 k d a b), (0x0D, 2, .adds3 k d a b), (0x0D, 3, .adds4 k d a b),
        (0x0D, 4, .bfx k d a b), (0x0D, 5, .bfi k d a b)] : List (Nat × Nat × Instr)),
    decodeWord (frWord e.1 e.2.1 k d a b) = .ok e.2.2) ∧
  (∀ (k : Ctl) (d a b : Reg) (n : BitVec 3), decodeWord (frWord 0x0E n.toNat k d a b) = .ok (.sel k d a b n))

/-- XTOP, the compares with their conditions and modes, predicate logic and votes (R103, R105, R106, R116). -/
def Obligations.PredicateResults : Prop :=
  ∀ (k : Ctl) (p q r : BitVec 4) (a b : Reg) (i : BitVec 6) (c : BitVec 3) (m : BitVec 2) (v : BitVec 3) (s : State),
    completesP s (.xtop k p a) k anyStrand p (fun u => decide (u.x a ≠ 0)) ∧
    completesP s (.cmp k p a b c m) k anyStrand p (fun u => predMode m (u.p p.toNat) (condOf c (u.x a) (u.x b))) ∧
    completesP s (.cmpi k p a i c m) k anyStrand p
      (fun u => predMode m (u.p p.toNat) (condOf c (u.x a) (i.signExtend 64))) ∧
    completesP s (.pand k p q r) k anyStrand p (fun u => u.p q.toNat && u.p r.toNat) ∧
    completesP s (.por k p q r) k anyStrand p (fun u => u.p q.toNat || u.p r.toNat) ∧
    completesP s (.pxor k p q r) k anyStrand p (fun u => u.p q.toNat != u.p r.toNat) ∧
    completesP s (.pandn k p q r) k anyStrand p (fun u => u.p q.toNat && !(u.p r.toNat)) ∧
    completesP s (.pnot k p q r) k anyStrand p (fun u => !(u.p q.toNat)) ∧
    completesP s (.pmov k p q r) k anyStrand p (fun u => u.p q.toNat) ∧
    completesP s (.pset k p q r) k anyStrand p (fun _ => true) ∧
    completesP s (.pclr k p q r) k anyStrand p (fun _ => false) ∧
    completesP s (.vany k p v) k onlyX p (fun u => decide (u.vp v.toNat ≠ 0)) ∧
    completesP s (.vall k p v) k onlyX p (fun u => decide (u.vp v.toNat = BitVec.allOnes 64)) ∧
    completesP s (.vnone k p v) k onlyX p (fun u => decide (u.vp v.toNat = 0)) ∧
    (∀ e ∈ (
       [(0, .pand k p q r), (1, .por k p q r), (2, .pxor k p q r), (3, .pandn k p q r), (4, .pnot k p q r),
        (5, .pmov k p q r), (6, .pset k p q r), (7, .pclr k p q r)] : List (Nat × Instr)), decodeWord (plogWord e.1 k p q r) = .ok e.2) ∧
    ∀ (x y : Word) (old c : Bool),
    condOf 0 x y = decide (x = y) ∧ condOf 1 x y = decide (x ≠ y) ∧
    condOf 2 x y = decide (x.toInt < y.toInt) ∧ condOf 3 x y = decide (y.toInt ≤ x.toInt) ∧
    condOf 4 x y = decide (x.toNat < y.toNat) ∧ condOf 5 x y = decide (y.toNat ≤ x.toNat) ∧
    predMode 0 old c = c ∧ predMode 1 old c = (old && c) ∧ predMode 2 old c = (old || c)

/-! ### Control (05) -/

/-- BPT and BPR (R107, R108): b[n] of the issuing strand takes the value; BTOX and LCR (R108, R114) read into x[d]. A word
that makes strand C join from b0 must leave it aligned (R55). JTAB (R111): the length, then one target, are read as ordinary
loads of a doubleword, here where no watchpoint meets them; the transfer has no delay slot. -/
def Obligations.BranchTargets : Prop :=
  (∀ (k : Ctl) (n : BitVec 2) (o : BitVec 19) (a d : Reg) (s : State),
     (∀ i : Instr, ∀ v : State → Word,
       (i = .bpt k n o ∧ v = (fun u => u.addrOf u.ctx.cur + o.signExtend 64 * 4)) ∨ (i = .bpr k n a ∧ v = (fun u => u.x a)) →
       s.ready i k anyStrand false →
       (k.sy = true → s.ctx.lockstep = false → s.ctx.cur = .c → n = 0 → (v (s.operands i k)).toNat % 16 = 0) →
       ∃ t, exec i s = .next t ∧ (s.operands i k).wroteB t n (v (s.operands i k))) ∧
     completesX s (.btox k d n) k d 1 (fun u => (u.strand u.ctx.cur).b.get n.toNat) ∧
     (s.ready (.lcr k d) k onlyC false →
       ∃ t, exec (.lcr k d) s = .next t ∧ (s.operands (.lcr k d) k).wroteX t d s.ctx.loop.lc 1)) ∧
  (∀ (k : Ctl) (a b : Reg) (s s1 s2 : State) (n v : Nat) (h1 h2 : Bool),
     s.ready (.jtab k a b) k anyStrand true →
     let u := s.operands (.jtab k a b) k
     let base := u.x a
     let ea := base + (if (u.x b).toNat < n then BitVec.ofNat 64 (8 * ((u.x b).toNat + 2)) else 8)
     let e := s2.traceJump (BitVec.ofNat 64 v)
     base.toNat % 8 = 0 → u.memRead base.toNat 8 0 0 anyTarget = .ok (.val s1 n h1) →
     s1.memRead ea.toNat 8 0 0 anyTarget = .ok (.val s2 v h2) →
     (BitVec.ofNat 64 v).toNat % u.ctx.stepOf = 0 →
     e.watched .load base.toNat 8 = none → e.watched .load ea.toNat 8 = none →
     ∃ t, exec (.jtab k a b) s = .next t ∧ s.jumpedTo t (BitVec.ofNat 64 v) 0 ∧ e.closes t)

/-- JD (R109, R110): predicate and target are read at issue; taken, it goes on at the target after its delay slots, and with L
writes the link to x63; not taken, it goes on behind its delay slots. -/
def Obligations.DelayedJump : Prop :=
  ∀ (k : Ctl) (n : BitVec 2) (p : BitVec 4) (g : Bool) (e : BitVec 2) (l : Bool) (s : State),
    s.ready (.jd k n p g e l) k anyStrand true →
    let u := s.operands (.jd k n p g e l) k
    let taken := u.p p.toNat != g
    let target := u.b n
    let past := u.addrOf u.ctx.cur + BitVec.ofNat 64 (u.ctx.stepOf * (e.toNat + 1))
    (taken = true → target.toNat % u.ctx.stepOf = 0) →
    ∃ t, exec (.jd k n p g e l) s = .next t ∧ s.jumpedTo t (if taken then target else past) e.toNat ∧
      (if taken then (if l then u.setX 63 past 1 else u).traceJump target else u).closes t

/-- The hardware loop (R112 to R115): LPS starts a loop and its window, and raises ILLEGAL in one; LBR repeats, drains or ends it,
shifting the predicates that strand C sees all at once; LCW sets LC and LCR reads it. Of the context LPS and LBR change the loop,
p8 to p15 and what closing a word changes; p0 to p7 stay. -/
def Obligations.HardwareLoop : Prop :=
  ∀ (k : Ctl) (a d : Reg) (n : BitVec 3) (m : BitVec 2) (s : State), SMap.wf (Cell.init false) s.ctx.p = true →
    let pcell (c : Ctx) (j : Nat) : Cell Bool := SMap.get (Cell.init false) c.p j
    let seen (u : State) (j : Nat) : Bool := u.p (8 + j)
    let turned (u e : State) (loop : LoopSt) (window : Nat → Bool) : Prop :=
      e.ctx.loop = loop ∧ (∀ j < 8, (pcell e.ctx (8 + j)).val = window j) ∧ (∀ j < 8, pcell e.ctx j = pcell u.ctx j) ∧
      e = { u with ctx := { u.ctx with loop := loop, p := e.ctx.p, pends := e.ctx.pends, flight := e.ctx.flight } }
    (let i : Instr := .lps k a n;
     let u := s.operands i k
     s.ready i k onlyC false →
     (s.ctx.loop.active = false →
       ∃ e t : State, exec i s = .next t ∧ e.closes t ∧
         turned u e { lc := u.x a, ls := n.toNat + 1, ldc := if u.x a = 0 then 0 else n.toNat, active := true }
           (fun j => decide (j = 0) && decide (u.x a ≠ 0))) ∧
     (s.ctx.loop.active = true → s.canTrap → s.bundle = false →
       ∃ t, exec i s = .next t ∧ s.tookTrap t .illegal .c (s.addrOf .c) 0 (BitVec.ofNat 32 (encodeWord i)) ∧
         t.ctx.loop = s.ctx.loop)) ∧
    (let i : Instr := .lcw k a;
     completes s i k onlyC false (fun u => u.mctx (fun c => { c with loop := { c.loop with lc := u.x a } }))) ∧
    (let i : Instr := .lcr k d;
     s.ready i k onlyC false → ∃ t, exec i s = .next t ∧ (s.operands i k).wroteX t d s.ctx.loop.lc 1) ∧
    (let i : Instr := .lbr k m;
     let u := s.operands i k
     let l := s.ctx.loop
     let target := u.b m
     let shift (v : Bool) (j : Nat) : Bool := if j = 0 then v else seen u (j - 1)
     let goes (loop : LoopSt) (v : Bool) : Prop :=
       ∃ e t : State, exec i s = .next t ∧ s.jumpedTo t target 0 ∧ (e.traceJump target).closes t ∧ turned u e loop (shift v)
     s.ready i k onlyC true → l.active = true →
     (1 < l.lc.toNat → target.toNat % s.ctx.stepOf = 0 → goes { l with lc := l.lc - 1 } true) ∧
     (l.lc.toNat ≤ 1 → 0 < l.ldc → target.toNat % s.ctx.stepOf = 0 → goes { l with lc := 0, ldc := l.ldc - 1 } false) ∧
     (l.lc.toNat ≤ 1 → l.ldc = 0 →
       let counts := bitOf s.ctx.csr.accctl 2 && bitOf s.ctx.csr.accctl 0
       let ended := u.mctx (fun c => { c with loop := { l with lc := 0, active := false } })
       (counts = false → ∃ t, exec i s = .next t ∧ t.event = .issued s.ctx.cur ∧ ended.closes t) ∧
       (counts = true → ∃ e t : State, exec i s = .next t ∧ t.event = .issued s.ctx.cur ∧ e.closes t ∧ e.ctx.loop = ended.ctx.loop ∧
         (∀ j, pcell e.ctx j = pcell u.ctx j) ∧ e.ctx.x = u.ctx.x ∧ e.ctx.vp = u.ctx.vp ∧ e.ctx.lines = u.ctx.lines)))

/-- After a word that makes no transfer an apart strand goes on 4 bytes further, a lock-step context 16, unless a pending
transfer has run its delay slots (R53, R110). -/
def Obligations.SequentialFetch : Prop :=
  ∀ (k : Ctl) (d : Reg) (i : BitVec 15) (s : State), s.ready (.li k d i) k anyStrand false → s.bundle = false →
    let me := s.strand (if s.ctx.lockstep then .c else s.ctx.cur)
    let step := BitVec.ofNat 64 (if s.ctx.lockstep then 16 else 4)
    ∃ t, exec (.li k d i) s = .next t ∧
      (s.ctx.lockstep = false → k.sy = false → (t.strand s.ctx.cur).joined = false) ∧
      (s.ctx.lockstep = false → k.sy = true → (t.strand s.ctx.cur).joined = true) ∧
      (s.ctx.lockstep = true → s.ctx.cur = .c → k.sy = false → t.ctx.lockstep = false ∧
        ∀ j : Strand, (t.strand j).pc = (s.strand j).b.q0) ∧
      (s.ctx.lockstep = false ∨ k.sy = true ∨ s.ctx.cur ≠ .c →
        (t.strand s.ctx.cur).pc = (match me.xfer with | some (dest, n) => if n ≤ 1 then dest else me.pc + step | none => me.pc + step))

/-! ### Memory words (06) -/

/-- LD and LDP (R121 to R124): an aligned access that no watchpoint meets reads its bytes; a hit is in the destination
within the bound of R68, a miss is in flight with its word's pushes; LDP adds the size to the base first. The sizes of R121:
bytes, alignment, and how a loaded value fills 64 bits. -/
def Obligations.LoadResults : Prop :=
  ∀ (k : Ctl) (d a : Reg) (sb : BitVec 4) (h : BitVec 2) (z : BitVec 3) (post hit : Bool) (s t : State) (v : Nat),
    let i : Instr := if post then .ldp k d a sb h z else .ld k d a sb h z
    let u := s.operands i k
    let va := u.x a
    let m := if post then t.setX a (va + BitVec.ofNat 64 (szBytes z)) 1 else t
    (z = 7 → u.vok d = true) → va.toNat % szAlign z = 0 → t.watched .load va.toNat (szBytes z) = none →
    u.memRead va.toNat (szBytes z) sb.toNat h.toNat anyTarget = .ok (.val t v hit) →
    (hit = true → z ≠ 7 → goesToX s i k onlyL m d (szExtend z v) 8) ∧
    (hit = true → z = 7 → s.ready i k onlyL false →
      ∃ r, exec i s = .next r ∧ m.wroteV r (m.vline d) (BitVec.ofNat 2048 v) 10) ∧
    (hit = false → goesLater s i k onlyL m
      { strand := .l, atomic := false, qp := k.qp, qn := k.qn, clk := (u.strand .l).clk, left := if z = 7 then 9 else 7,
        arr := if z = 7 then .v (m.vline d) (BitVec.ofNat 2048 v) else if d = 0 then .none else .x d.toNat (szExtend z v) }) ∧
    (szBytes 0 = 1 ∧ szBytes 1 = 2 ∧ szBytes 2 = 4 ∧ szBytes 3 = 8 ∧ szBytes 4 = 1 ∧ szBytes 5 = 2 ∧ szBytes 6 = 4 ∧
      szBytes 7 = 256) ∧
    (∀ z : BitVec 3, z ≠ 7 → szAlign z = szBytes z) ∧ szAlign 7 = 32 ∧
    szExtend 0 v = (BitVec.ofNat 8 v).signExtend 64 ∧ szExtend 1 v = (BitVec.ofNat 16 v).signExtend 64 ∧
    szExtend 2 v = (BitVec.ofNat 32 v).signExtend 64 ∧ (v < 2 ^ 64 → (szExtend 3 v).toNat = v) ∧
    ∀ z : BitVec 3, 4 ≤ z.toNat → z ≠ 7 → v < 256 ^ szBytes z → (szExtend z v).toNat = v

/-- ST and STP (R125): an aligned access that no watchpoint meets writes the low bytes of its source at x[a]. -/
def Obligations.StoreResults : Prop :=
  ∀ (k : Ctl) (c a : Reg) (h : BitVec 2) (z : BitVec 3) (post : Bool) (s t : State),
    let i : Instr := if post then .stp k c a h z else .st k c a h z
    let u := s.operands i k
    let va := u.x a
    let v := if z = 7 then (u.v c).toNat else (u.x c).toNat % 256 ^ szBytes z
    let m := if post then t.setX a (va + BitVec.ofNat 64 (szBytes z)) 1 else t
    (z = 7 → u.vok c = true) → va.toNat % szAlign z = 0 → t.watched .store va.toNat (szBytes z) = none →
    u.memWrite va.toNat (szBytes z) v h.toNat false anyTarget = .ok t →
    goesTo s i k onlyS false m

/-- What a memory access may touch. A read: the context stays, and every byte of coherent memory that no cache owed (a line
that leaves goes home, R245). A store: of coherent memory the bytes it resolves to and bytes a cache owed; of the context the
scratchpad and its row tags. -/
def Obligations.AccessFrame : Prop :=
  ∀ (s r t : State) (va n sb v rh : Nat) (hit engine : Bool) (ps : List Piece), s.memWf →
    (s.memRead va n sb rh anyTarget = .ok (.val t v hit) → t.ctx = s.ctx ∧ t.memWf ∧ s.spares t (fun _ => False)) ∧
    (s.resolve va n .store anyTarget = .ok (r, ps) → s.memWrite va n v rh engine anyTarget = .ok t →
    t.memWf ∧ s.spares t (bytesOf ps) ∧ t.ctx = { s.ctx with spad := t.ctx.spad, tags := t.ctx.tags })

/-- The scratchpad window (R117, R166): a store inside the reservation writes exactly its bytes, little-endian, takes the
tags from the rows it meets, and a read gives it back; memory is untouched. -/
def Obligations.WindowBytes : Prop :=
  ∀ (s : State) (off n v rh : Nat), SMap.wf 0 s.ctx.spad = true → SMap.wf none s.ctx.tags = true → s.bad = [] → 0 < n →
    n ≤ 256 → off + n ≤ s.ctx.spres * 65536 → s.ctx.spres ≤ 24 →
    ∃ t, s.memWrite (winBase + off) n v rh false anyTarget = .ok t ∧
      (∀ i < n, t.ctx.spadAt (off + i) = BitVec.ofNat 8 (v / 256 ^ i)) ∧
      (∀ o, o < off ∨ off + n ≤ o → t.ctx.spadAt o = s.ctx.spadAt o) ∧
      (∀ i < n, SMap.get none t.ctx.tags ((off + i) / 4096) = none) ∧
      t.mem = s.mem ∧ t.ctx.x = s.ctx.x ∧ t.ctx.p = s.ctx.p ∧ t.ctx.csr = s.ctx.csr ∧
      t.memRead (winBase + off) n 0 0 anyTarget = .ok (.val t (v % 256 ^ n) true)

/-- LDACQ (R126): the value is that of its scope, then acquire(scope); STREL (R127): release(scope), then the write. Both
take an aligned doubleword. -/
def Obligations.AcquireRelease : Prop :=
  ∀ (k : Ctl) (d a b : Reg) (c : BitVec 2) (s t r : State) (v : Nat) (hit : Bool) (p : Piece),
    (let u := s.operands (.ldacq k d a c) k;
      (u.x a).toNat % 8 = 0 → u.resolve (u.x a).toNat 8 .load anyTarget = .ok (t, [p]) →
      (if c = 0 then t.readPieces 0 0 [p] else t.readAt p c.toNat) = .val r v hit →
      r.watched .load (u.x a).toNat 8 = none →
      goesTo s (.ldacq k d a c) k onlyL false ((r.setX d (BitVec.ofNat 64 v) 8).acquire c.toNat)) ∧
    (let u := s.operands (.strel k c a b) k;
      let m := t.release c.toNat
      let e := if c = 0 then m.writePieces (u.x b).toNat 0 false [p] else m.writeAt p (u.x b).toNat c.toNat
      (u.x a).toNat % 8 = 0 → u.resolve (u.x a).toNat 8 .store anyTarget = .ok (t, [p]) →
      e.watched .store (u.x a).toNat 8 = none → goesTo s (.strel k c a b) k onlyS false e)

/-- The full/empty words (R128, R129): once the word's bit is as it must be, one step reads or writes the 4-byte word and
sets the bit; FEPR reads the bit and FESET sets it. A word read with an error is not read (R118). -/
def Obligations.FullEmpty : Prop :=
  ∀ (k : Ctl) (d a b : Reg) (p : BitVec 4) (s : State) (off : Nat),
    let read (i : Instr) (e : State → State) (full : Bool) : Prop :=
      let u := s.operands i k
      u.feOffset (u.x a) = .ok off → u.full off = full →
      u.eccFault { va := (u.x a).toNat, len := 4, tgt := .win off } false = false → (e u).watched .load (u.x a).toNat 4 = none →
      goesTo s i k onlyL false (e u)
    let write (i : Instr) (e : State → State) (ready : Bool → Prop) : Prop :=
      let u := s.operands i k
      u.feOffset (u.x a) = .ok off → ready (u.full off) → (e u).watched .store (u.x a).toNat 4 = none →
      goesTo s i k onlyS false (e u)
    let put (u : State) : State := u.writePiece { va := winBase + off, len := 4, tgt := .win off } ((u.x b).toNat % 2 ^ 32) 0 false
    let bit (u : State) (v : Bool) : State := u.mctx (fun c => { c with fe := SMap.set false c.fe (off / 4) v })
    let word (u : State) : Word := BitVec.ofNat 64 (spadNat u.ctx.spad off 4)
    read (.ldfe k d a) (fun u => bit (u.setX d (word u) 8) false) true ∧
    read (.ldf k d a) (fun u => u.setX d (word u) 8) true ∧
    write (.stfe k a b) (fun u => bit (put u) true) (fun f => f = false) ∧
    write (.stf k a b) (fun u => bit (put u) true) (fun _ => True) ∧
    (let u := s.operands (.fepr k p a) k;
      u.feOffset (u.x a) = .ok off → goesTo s (.fepr k p a) k onlyL false (u.setP p.toNat (u.full off) 8)) ∧
    (let u := s.operands (.feset k a b) k;
      u.feOffset (u.x a) = .ok off → goesTo s (.feset k a b) k onlyS false (bit u ((u.x b).getLsbD 0)))

/-- FENCE, RPUB and RVIEW (R130 to R132), CWBR and CINVR (R133), CPIN and CUNPIN (R134, R135), PREF (R136). -/
def Obligations.FencesAndRanges : Prop :=
  ∀ (k : Ctl) (m : BitVec 4) (c : BitVec 2) (d a b : Reg) (n : BitVec 3) (s t : State),
    (let u := s.operands (.fence k m c) k;
      goesTo s (.fence k m c) k anyStrand false (if m.getLsbD 2 || m.getLsbD 3 then u.release c.toNat else u)) ∧
    (let u := s.operands (.rpub k a) k;
      let r := (u.x a).toNat
      let w := u.release 2
      r < 256 → goesTo s (.rpub k a) k onlyC false
        (if r = 0 ∨ w.effRegion r ≠ r then w
         else (w.advanceRound r).mctx (fun c => { c with view := SMap.set 0 c.view r ((w.advanceRound r).region r).round }))) ∧
    (let u := s.operands (.rview k d a) k;
      let e := u.effRegion (u.x a).toNat
      (u.x a).toNat < 256 → goesToX s (.rview k d a) k onlyC u d
        (BitVec.ofNat 64 ((u.ctx.viewOf e).toNat + (u.mirror (dieOfPlate u.plate.id) e).toNat * 65536)) 2) ∧
    (let u := s.operands (.cwbr k a b) k;
      (u.x b).toNat < 2 ^ 48 → goesTo s (.cwbr k a b) k onlyS false
        (if u.x b = 0 then u else u.maintain (u.x a).toNat (u.x b).toNat false)) ∧
    (let u := s.operands (.cinvr k a b) k;
      (u.x b).toNat < 2 ^ 48 → goesTo s (.cinvr k a b) k onlyS false
        (if u.x b = 0 then u else u.maintain (u.x a).toNat (u.x b).toNat true)) ∧
    (∀ x : Xlat, let u := s.operands (.cpin k n a b) k;
      let va := u.x a
      let len := (u.x b).toNat % 2 ^ 48
      let ways := (u.x b).toNat / 2 ^ 48
      let die := t.die (dieOfPlate t.plate.id)
      let others := (List.range 8).foldl (fun m i => if i = n.toNat then m else m + (die.retnOf i).ways) 0
      0 < len → 1 ≤ ways → ways ≤ 8 → inWindow va.toNat = false →
      u.xlate u.ctx.space.asid u.ctx.space.root va.toNat = .ok (t, x) → va.toNat + len ≤ x.vpage + x.size →
      x.forbids (u.ctx.space.priv == .u) .load = false → t.pinDenied n.toNat = false →
      ways + others + die.carve + die.worstLost die.point ≤ 12 →
      goesTo s (.cpin k n a b) k onlyC false
        (t.pin (dieOfPlate t.plate.id) n.toNat ways (x.pa / 128 * 128) ((x.pa + len + 127) / 128 * 128) t.ctx.space.asid va)) ∧
    (let u := s.operands (.cunpin k n) k;
      u.pinDenied n.toNat = false → goesTo s (.cunpin k n) k onlyC false
        ((u.mdie (dieOfPlate u.plate.id) (fun e => e.unpin n.toNat)).dropLost (dieOfPlate u.plate.id) (u.die (dieOfPlate u.plate.id)).point)) ∧
    (let u := s.operands (.pref k a) k;
      ∃ w, (w = u ∨ ∃ r ps v hit, u.resolve (u.x a).toNat 1 .load memTarget = .ok (r, ps) ∧ r.readPieces 0 0 ps = .val w v hit) ∧
        goesLater s (.pref k a) k onlyL w
          { strand := .l, atomic := false, arr := .none, qp := k.qp, qn := k.qn, clk := (u.strand .l).clk, left := 7,
            due := some (s.cycle + 1) })

/-- ATOM and ACAS (R137, R138): after release(device) the bank ALU at the line's home replaces the word at x[a] with its operation on
the old value, the operand x[b] and the expected x[d]; the old value comes to x[d] with the reply. At the home die it acts at once,
at another it travels as AT. The bank ALU answers the old value, memory holds the new one, and other bytes stay unless something
owed them; AADD on a byte barrier makes the barrier's check as well (R199). -/
def Obligations.Atomics : Prop :=
  (∀ (k : Ctl) (d a b : Reg) (s r : State) (x : Xlat) (p : Piece),
    let go (i : Instr) (n op : Nat) : Prop :=
      let u := s.operands i k
      let m := (r.release 2).dropCopy (x.pa / 128)
      let here := dieOfPlate m.plate.id
      let q := m.atomStep x.pa op x.region (u.x b) (u.x d)
      let away := m.settle here (fun l => l == x.pa / 128)
      let e := if homeDie x.pa = here then q.1
        else away.send here (homeDie x.pa) (.atom x.pa op (u.x b) (u.x d) x.region (away.ctx.id, away.fresh) none)
      (u.x a).toNat % n = 0 → u.resolve (u.x a).toNat n .atomic atomicTarget = .ok (r, [p]) → p.tgt = .mem x →
      e.watched .atomic (u.x a).toNat n = none →
      ∃ f : InFlight, goesLater s i k onlyLS e.bump f ∧ f.strand = u.ctx.cur ∧ f.atomic = true ∧ f.qp = k.qp ∧ f.qn = k.qn ∧
        f.wait = decide (homeDie x.pa ≠ here) ∧
        f.arr = if d = 0 then .none else .x d.toNat (if homeDie x.pa = here then BitVec.ofNat 64 q.2 else 0)
    go (.aadd k d a b) 8 0 ∧ go (.amax k d a b) 8 1 ∧ go (.amin k d a b) 8 2 ∧ go (.aand k d a b) 8 3 ∧ go (.aor k d a b) 8 4 ∧
    go (.axor k d a b) 8 5 ∧ go (.aswp k d a b) 8 6 ∧ go (.afadd k d a b) 4 7 ∧ go (.acas k d a b) 8 8 ∧ go (.acasW k d a b) 4 9) ∧
  (∀ (s : State) (pa region op : Nat) (w x : Word), s.memWf → s.poisoned pa = false → op < 10 →
    let n := if op = 7 ∨ op = 9 then 4 else 8
    pa % n = 0 →
    let old := s.memNat pa n
    let q := s.atomStep pa op region w x
    let result : Nat := match op with
      | 0 => (BitVec.ofNat 64 old + w).toNat
      | 1 => (if (BitVec.ofNat 64 old).toInt ≤ w.toInt then w else BitVec.ofNat 64 old).toNat
      | 2 => (if (BitVec.ofNat 64 old).toInt ≤ w.toInt then BitVec.ofNat 64 old else w).toNat
      | 3 => (BitVec.ofNat 64 old &&& w).toNat
      | 4 => (BitVec.ofNat 64 old ||| w).toNat
      | 5 => (BitVec.ofNat 64 old ^^^ w).toNat
      | 6 => w.toNat
      | 7 => (fp32.round .rne false 0 (Sys2Proof.Num.add .rne (fp32.decodeIeee (old % 2 ^ 32)) (fp32.decodeIeee (w.toNat % 2 ^ 32))).1).1
      | 8 => if old = x.toNat % 256 ^ 8 then w.toNat % 256 ^ 8 else old
      | _ => if old = x.toNat % 256 ^ 4 then w.toNat % 256 ^ 4 else old
    let barrier : Prop := op = 0 ∧ pa % 16 = 0 ∧ pa ∈ s.barriers
    q.1.memWf ∧ q.2 = old ∧ q.1.ctx = s.ctx ∧ q.1.memNat pa n = result % 256 ^ n ∧
    (¬ barrier → s.spares q.1 (fun a => pa ≤ a ∧ a < pa + n)) ∧ (barrier → s.spares q.1 (fun a => pa ≤ a ∧ a < pa + 16)))

/-! ### Vector words (07) -/

/-- How a vector result is laid out (R139, R38): element i of width w holds its word, bytes past the last element are zero,
the flags of the elements join FSTAT at once under a bound of 1, else when the word completes (R141); nothing else of the context
changes but the note of the bound. -/
def Obligations.VectorElements : Prop :=
  ∀ (s : State) (d : Reg) (w bound : Nat) (l : List (Nat × BitVec 6)) (rounded : Bool), 0 < s.now → 0 < w →
    w * l.length ≤ 2048 →
    let t := s.setElems d w l rounded bound
    let r := (SMap.get (Cell.init 0) t.ctx.lines (s.vline d)).val
    (∀ i < l.length, r.toNat / 2 ^ (w * i) % 2 ^ w = (l.getD i (0, 0)).1 % 2 ^ w) ∧ r.toNat < 2 ^ (w * l.length) ∧
    (bound ≤ 1 → t.ctx.lateFlags = s.ctx.lateFlags ∧
      ∀ j < 6, t.ctx.csr.fstat.getLsbD j = (s.ctx.csr.fstat.getLsbD j || l.any (fun e => e.2.getLsbD j))) ∧
    (1 < bound → t.ctx.csr = s.ctx.csr ∧ ∃ f, t.ctx.lateFlags = s.ctx.lateFlags ++ [{ strand := s.ctx.cur, left := bound, tick := s.now + (bound - 1), flags := f }] ∧
      (∀ j < 6, f.getLsbD j = l.any (fun e => e.2.getLsbD j)) ∧
      (s.ctx.lateFlags = [] → ∀ j < 6, (t.ctx.joinFlags (fun _ => true)).csr.fstat.getLsbD j =
        (s.ctx.csr.fstat.getLsbD j || l.any (fun e => e.2.getLsbD j)))) ∧
    (∀ m, m ≠ s.vline d → SMap.get (Cell.init 0) t.ctx.lines m = SMap.get (Cell.init 0) s.ctx.lines m) ∧
    t.ctx = { s.ctx with lines := t.ctx.lines, pends := t.ctx.pends, flight := t.ctx.flight, lateFlags := t.ctx.lateFlags, csr := { s.ctx.csr with fstat := t.ctx.csr.fstat } } ∧
    t.mem = s.mem ∧ (rounded = false ∨ s.mode ≠ .sr → t.plate = s.plate)

/-- VF (R142): each of the 64 elements is the exact result rounded once into the type of VTYPE under RNDM; VMAX and VMIN
pick. ILLEGAL under VTYPE 10 is a check of its own. -/
def Obligations.VectorFloat : Prop :=
  ∀ (k : Ctl) (d a b : Reg) (s : State),
    let go (i : Instr) (rounds : Bool) (lane : State → Nat → Nat → Nat → Nat → Nat × BitVec 6) : Prop :=
      let u := s.operands i k
      let w := fmtWidth u.vt
      let el (r : Reg) (n : Nat) : Nat := (u.v r).toNat / 2 ^ (w * n) % 2 ^ w
      u.vt ≠ 10 → (∀ r ∈ [d, a, b], u.vok r = true) →
      goesTo s i k onlyX false
        (u.setElems d w ((List.range 64).map (fun n => lane u n (el a n) (el b n) (el d n))) rounds 4)
    let rounded (f : RMode → Sys2Proof.Num → Sys2Proof.Num → Sys2Proof.Num → NumFlag) (u : State) (n x y z : Nat) : Nat × BitVec 6 :=
      let val (x : Nat) : Sys2Proof.Num := (decodeFmt u.vt x).1
      let e := f u.mode (val x) (val y) (val z)
      let o := roundFmt u.vt e.1 u.mode false (u.laneRnd n)
      (o.1, o.2 ||| e.2)
    let picked (most : Bool) (u : State) (_ x y _ : Nat) : Nat × BitVec 6 :=
      (pickMax u.vt most x y (vtFmt u.vt).nan, 0)
    go (.vadd k d a b) true (rounded (fun m x y _ => Sys2Proof.Num.add m x y)) ∧
    go (.vsub k d a b) true (rounded (fun m x y _ => Sys2Proof.Num.add m x y.neg)) ∧
    go (.vmul k d a b) true (rounded (fun _ x y _ => Sys2Proof.Num.mul x y)) ∧
    go (.vfma k d a b) true (rounded (fun m x y z => ((Sys2Proof.Num.add m z (Sys2Proof.Num.mul x y).1).1, (Sys2Proof.Num.mul x y).2 ||| (Sys2Proof.Num.add m z (Sys2Proof.Num.mul x y).1).2))) ∧
    go (.vfms k d a b) true (rounded (fun m x y z =>
      ((Sys2Proof.Num.add m z (Sys2Proof.Num.mul x y).1.neg).1, (Sys2Proof.Num.mul x y).2 ||| (Sys2Proof.Num.add m z (Sys2Proof.Num.mul x y).1.neg).2))) ∧
    go (.vabd k d a b) true (rounded (fun m x y _ => ((Sys2Proof.Num.add m x y.neg).1.abs, (Sys2Proof.Num.add m x y.neg).2))) ∧
    go (.vmax k d a b) false (picked true) ∧ go (.vmin k d a b) false (picked false)

/-- VI (R143): 32-bit lanes, wrapping, shifts by the low five bits, whatever VTYPE holds. VPERM (R148): the moves among 32-bit
lanes, VEXT to x[d], VROT by bytes; bound 2. Last, the major and minor of each word. -/
def Obligations.VectorLanes : Prop :=
  (∀ (k : Ctl) (d a b : Reg) (s : State),
     let lanes (u : State) (f : BitVec 32 → BitVec 32 → BitVec 32) : VReg :=
       vregLanes (fun n => (f (BitVec.ofNat 32 (lane32 (u.v a) n)) (BitVec.ofNat 32 (lane32 (u.v b) n))).toNat)
     completesV s (.viadd k d a b) k d [d, a, b] 1 (fun u => lanes u (fun x y => x + y)) ∧
     completesV s (.visub k d a b) k d [d, a, b] 1 (fun u => lanes u (fun x y => x - y)) ∧
     completesV s (.vimul k d a b) k d [d, a, b] 3 (fun u => lanes u (fun x y => x * y)) ∧
     completesV s (.vand k d a b) k d [d, a, b] 1 (fun u => lanes u (fun x y => x &&& y)) ∧
     completesV s (.vor k d a b) k d [d, a, b] 1 (fun u => lanes u (fun x y => x ||| y)) ∧
     completesV s (.vxor k d a b) k d [d, a, b] 1 (fun u => lanes u (fun x y => x ^^^ y)) ∧
     completesV s (.vshl k d a b) k d [d, a, b] 1 (fun u => lanes u (fun x y => x <<< (y.toNat % 32))) ∧
     completesV s (.vshr k d a b) k d [d, a, b] 1 (fun u => lanes u (fun x y => x >>> (y.toNat % 32)))) ∧
  (∀ (k : Ctl) (d a b : Reg) (s : State),
     completesV s (.vsel k d a b) k d [d, a, b] 2 (fun u =>
       vregLanes (fun n => if (u.vp 0).getLsbD n then lane32 (u.v a) n else lane32 (u.v b) n)) ∧
     completesV s (.vprm k d a b) k d [d, a, b] 2 (fun u => vregLanes (fun n => lane32 (u.v a) (lane32 (u.v b) n % 64))) ∧
     completesV s (.vbc k d a) k d [d] 2 (fun u => vregLanes (fun _ => (u.x a).toNat % 2 ^ 32)) ∧
     ((∀ r ∈ [a], (s.operands (.vext k d a b) k).vok r = true) → goesToX s (.vext k d a b) k onlyX (s.operands (.vext k d a b) k) d
       (BitVec.ofNat 64 (lane32 ((s.operands (.vext k d a b) k).v a) (((s.operands (.vext k d a b) k).x b).toNat % 64))) 2) ∧
     completesV s (.vins k d a b) k d [d] 2 (fun u =>
       vregLanes (fun n => if n = (u.x b).toNat % 64 then (u.x a).toNat % 2 ^ 32 else lane32 (u.v d) n)) ∧
     completesV s (.vrot k d a b) k d [d, a] 2 (fun u => (u.v a).rotateRight (8 * ((u.x b).toNat % 256))) ∧
     completesV s (.vzip k d a b) k d [d, a, b] 2 (fun u =>
       vregLanes (fun n => if n % 2 = 0 then lane32 (u.v a) (n / 2) else lane32 (u.v b) (n / 2))) ∧
     completesV s (.vuzp k d a b) k d [d, a, b] 2 (fun u =>
       vregLanes (fun n => if n < 32 then lane32 (u.v a) (2 * n) else lane32 (u.v b) (2 * (n - 32))))) ∧
  (∀ (k : Ctl) (d a b : Reg), ∀ e ∈ (
       [(0x20, 0, .viadd k d a b), (0x20, 1, .visub k d a b), (0x20, 2, .vimul k d a b), (0x20, 3, .vand k d a b),
        (0x20, 4, .vor k d a b), (0x20, 5, .vxor k d a b), (0x20, 6, .vshl k d a b), (0x20, 7, .vshr k d a b),
        (0x24, 0, .vsel k d a b), (0x24, 1, .vprm k d a b), (0x24, 3, .vext k d a b), (0x24, 4, .vins k d a b),
        (0x24, 5, .vrot k d a b), (0x24, 6, .vzip k d a b), (0x24, 7, .vuzp k d a b)] : List (Nat × Nat × Instr)),
    decodeWord (frWord e.1 e.2.1 k d a b) = .ok e.2.2) ∧
  (∀ (k : Ctl) (d a : Reg), decodeWord (frWord 0x24 2 k d a 0) = .ok (.vbc k d a))

/-- VU (R144): VNEG, VABS and VMOV with bound 1, in both kinds of type; the rounded functions with bound 8, and VFLR with bound 4,
where VTYPE is not 10; and the table of special operands, each exact and with the flags that it names. -/
def Obligations.VectorUnary : Prop :=
  (∀ (k : Ctl) (d a : Reg) (s : State),
    let w (u : State) : Nat := fmtWidth u.vt
    let el (u : State) (n : Nat) : Nat := (u.v a).toNat / 2 ^ (w u * n) % 2 ^ w u
    let val (u : State) (n : Nat) : Sys2Proof.Num := (decodeFmt u.vt (el u n)).1
    let sign (f : Sys2Proof.Num → Sys2Proof.Num) (u : State) : VReg :=
      vregOf (w u) ((List.range 64).map (fun n => (roundFmt u.vt (f (val u n)) .rne false 0).1))
    let ints (f : BitVec 32 → BitVec 32) (u : State) : VReg :=
      vregLanes (fun n => (f (BitVec.ofNat 32 (lane32 (u.v a) n))).toNat)
    let rounds (i : Instr) (f : Sys2Proof.Num → NumFlag) (negative : Bool) : Prop :=
      let u := s.operands i k
      u.vt ≠ 10 → (∀ r ∈ [d, a], u.vok r = true) → goesTo s i k onlyX false
        (u.setElems d (w u) ((List.range 64).map (fun n =>
            let e := f (val u n)
            let o := roundFmt u.vt e.1 u.mode false (u.laneRnd n)
            (o.1, o.2 ||| e.2)))
          ((List.range 64).any (fun n => match val u n with | .fin neg m _ _ => decide (m ≠ 0) && (negative || !neg) | _ => false)) 8)
    completesV s (.vneg k d a) k d [d, a] 1 (fun u => if u.vt = 10 then ints (fun x => -x) u else sign Sys2Proof.Num.neg u) ∧
    completesV s (.vabs k d a) k d [d, a] 1
      (fun u => if u.vt = 10 then ints (fun x => if x.toInt < 0 then -x else x) u else sign Sys2Proof.Num.abs u) ∧
    completesV s (.vmov k d a) k d [d, a] 1 (fun u => u.v a) ∧
    ((s.operands (.vflr k d a) k).vt ≠ 10 → completesV s (.vflr k d a) k d [d, a] 4 (sign floorNum)) ∧
    rounds (.vrcp k d a) rcpNum true ∧ rounds (.vrsq k d a) rsqNum false ∧ rounds (.vex2 k d a) ex2Num true ∧
    rounds (.vlg2 k d a) lg2Num false ∧
    ∀ i : Instr, (i = .vrcp k d a ∨ i = .vrsq k d a ∨ i = .vex2 k d a ∨ i = .vlg2 k d a ∨ i = .vflr k d a) →
      s.ready i k onlyX false → (s.operands i k).vt = 10 → s.canTrap → s.bundle = false →
      ∃ t, exec i s = .next t ∧ ∃ addr, s.tookTrap t .illegal .x (s.addrOf .x) addr (BitVec.ofNat 32 (encodeWord i)) ∧
        (s.ctx.flight = [] → t.ctx.lines = s.ctx.lines)) ∧
  (let word (t : Nat) (r : NumFlag) : Nat × BitVec 6 := ((roundFmt t r.1 .rne false 0).1, (roundFmt t r.1 .rne false 0).2 ||| r.2)
   ∀ e ∈ ([(0, 0x80000000, 0x7F800000, 0x3F800000, 0x7FC00000), (1, 0x8000, 0x7F80, 0x3F80, 0x7FC0),
           (2, 0x8000, 0x7C00, 0x3C00, 0x7E00)] : List (Nat × Nat × Nat × Nat × Nat)),
     let t := e.1
     let neg := e.2.1
     let inf := e.2.2.1
     let one := e.2.2.2.1
     let nan := e.2.2.2.2
     let of (f : Sys2Proof.Num → NumFlag) (x : Nat) : Nat × BitVec 6 := word t (f (decodeFmt t x).1)
     let flr (x : Sys2Proof.Num) : NumFlag := (floorNum x, 0)
     of rcpNum 0 = (inf, 0) ∧ of rcpNum neg = (neg + inf, 0) ∧ of rcpNum inf = (0, 0) ∧ of rcpNum (neg + inf) = (neg, 0) ∧
     of rcpNum nan = (nan, 0) ∧
     of rsqNum 0 = (inf, 0) ∧ of rsqNum neg = (neg + inf, 0) ∧ of rsqNum inf = (0, 0) ∧ of rsqNum (neg + inf) = (nan, fNV) ∧
     of rsqNum (neg + one) = (nan, fNV) ∧ of rsqNum nan = (nan, 0) ∧
     of ex2Num 0 = (one, 0) ∧ of ex2Num neg = (one, 0) ∧ of ex2Num inf = (inf, 0) ∧ of ex2Num (neg + inf) = (0, 0) ∧ of ex2Num nan = (nan, 0) ∧
     of lg2Num 0 = (neg + inf, 0) ∧ of lg2Num neg = (neg + inf, 0) ∧ of lg2Num inf = (inf, 0) ∧ of lg2Num (neg + inf) = (nan, fNV) ∧
     of lg2Num (neg + one) = (nan, fNV) ∧ of lg2Num nan = (nan, 0) ∧
     of flr 0 = (0, 0) ∧ of flr neg = (neg, 0) ∧ of flr inf = (inf, 0) ∧ of flr (neg + inf) = (neg + inf, 0) ∧ of flr nan = (nan, 0)) ∧
  ∀ (m : Nat) (x : Int) (st : Bool), m ≠ 0 →
    rsqNum (.fin true m x st) = (.nan, fNV) ∧ lg2Num (.fin true m x st) = (.nan, fNV)

/-- VCVT (R145, R146): 64 elements, or 32 when ACC48 is one of the two; it completes without a trap where no scale was
invalid. VCMP (R147): one bit a lane in vp[p], bound 2. -/
def Obligations.ConvertAndCompare : Prop :=
  ∀ (k : Ctl) (d a b : Reg) (dst src : BitVec 4) (sat : Bool) (p : BitVec 3) (c : BitVec 3) (s : State),
    (let i : Instr := .vcvt k d a dst src sat;
      let u := s.operands i k
      let n := if dst = 11 ∨ src = 11 then 32 else 64
      let l := (List.range n).map (fun j =>
        let x := decodeFmt src.toNat ((u.v a).toNat / 2 ^ (fmtWidth src.toNat * j) % 2 ^ fmtWidth src.toNat)
        let o := roundFmt dst.toNat x.1 u.mode sat (u.laneRnd j)
        (o.1, o.2 ||| x.2))
      (∀ r ∈ [d, a], u.vok r = true) → (∀ e ∈ l, e.2 &&& fSINV = 0) →
      goesTo s i k onlyX false (u.setElems d (fmtWidth dst.toNat) l (cvtSteps dst.toNat src.toNat) 3)) ∧
    (let i : Instr := .vcmp k p a b c;
      let u := s.operands i k
      let w := fmtWidth u.vt
      let val (r : Reg) (n : Nat) : Sys2Proof.Num := (decodeFmt u.vt ((u.v r).toNat / 2 ^ (w * n) % 2 ^ w)).1
      (∀ r ∈ [a, b], u.vok r = true) →
      ∃ m : Word, goesTo s i k onlyX false (u.setVp p.toNat m 2) ∧
        ∀ n < 64, m.getLsbD n = vcond c.toNat (val a n) (val b n))

/-- VRED (R149): element 0 is the result of the tree of neighbours, every other byte is 0; bound 6. Under VTYPE 10 sums wrap
and the largest and smallest are taken of signed words, for VRAMX of absolute values. -/
def Obligations.VectorReduce : Prop :=
  ∀ (k : Ctl) (d a b : Reg) (s : State),
    let go (i : Instr) (regs : List Reg) (rounds : Bool) (f : State → List Nat × BitVec 6) : Prop :=
      let u := s.operands i k
      (∀ r ∈ regs, u.vok r = true) → goesTo s i k onlyX false
        (((u.setV d (vregOf (fmtWidth u.vt) ((f u).1.take 1)) 6).raiseIn (f u).2 6).vsteps (rounds && !(u.vt == 10)))
    let leaf (u : State) (r : Reg) (n : Nat) : Nat := (u.v r).toNat / 2 ^ (fmtWidth u.vt * n) % 2 ^ fmtWidth u.vt
    let leaves (f : Nat → Nat) : List Nat := (List.range 64).map f
    let total (l : List Nat) : List Nat × BitVec 6 := ([l.foldl (fun n x => (n + x) % 2 ^ 32) 0], 0)
    let tree (u : State) (l : List NumFlag) : List Nat × BitVec 6 :=
      let r := redTree (sumNode u.vt u.mode u.laneRnd) 6 0 (l.map (fun x => (x.1, 0)))
      (r.1.map (fun x => x.2), l.foldl (fun f x => f ||| x.2) r.2)
    go (.vradd k d a) [d, a] true (fun u => if u.vt = 10 then total (leaves (leaf u a))
      else tree u ((leaves (leaf u a)).map (decodeFmt u.vt))) ∧
    go (.vdot k d a b) [d, a, b] true (fun u =>
      if u.vt = 10 then total (leaves (fun n => leaf u a n * leaf u b n % 2 ^ 32))
      else tree u ((List.range 64).map (fun n => Sys2Proof.Num.mul (decodeFmt u.vt (leaf u a n)).1 (decodeFmt u.vt (leaf u b n)).1))) ∧
    go (.vrmax k d a) [d, a] false (fun u => u.pickTree true (fun n => (BitVec.ofNat 32 n).toInt) (leaves (leaf u a))) ∧
    go (.vrmin k d a) [d, a] false (fun u => u.pickTree false (fun n => (BitVec.ofNat 32 n).toInt) (leaves (leaf u a))) ∧
    go (.vramx k d a) [d, a] false (fun u => u.pickTree true (fun n => (n : Int)) ((leaves (leaf u a)).map (fun x =>
      if u.vt = 10 then (BitVec.ofNat 32 x).toInt.natAbs else (roundFmt u.vt (Sys2Proof.Num.abs (decodeFmt u.vt x).1) .rne false 0).1)))

/-- VSCL (R151 to R157) under a bound and usable record: quantising stores send their counts to the record's histogram and leave
the entry's version in VERSEL; they complete where saturation is tolerated and no scale was invalid. A decode needs an entry whose
format a scaled tensor may have (R151). -/
def Obligations.ScaledVectors : Prop :=
  ∀ (k : Ctl) (d a : Reg) (h : BitVec 5) (s : State) (pa : Nat) (r : List Word),
    let at_ (i : Instr) : State := (s.operands i k).touchRecord pa
    let found (i : Instr) (regs : List Reg) : Prop :=
      (∀ v ∈ regs, (s.operands i k).vok v = true) ∧ (s.operands i k).resolveHandle h.toNat = some (pa, r)
    let cur := recCur r
    let stored (u : State) (q : Quant) (flags : BitVec 6) : State :=
      ((((u.setV d (q.reg cur.fmt.toNat) 6).raiseIn (q.flags ||| flags) 6).vsteps (takesStep cur.fmt.toNat)).setVersel cur.ver 6).sendContrib
        (q.contrib u.ctx.id pa)
    (let u := at_ (.vqnt k d a h);
      let q := u.quantWord cur (fp32Elems (u.v a))
      found (.vqnt k d a h) [d, a] → (∀ n, u.tolerance r = some n → q.sat ≤ n) →
      goesTo s (.vqnt k d a h) k onlyX false (stored u q 0)) ∧
    (let u := at_ (.vhist k a h);
      let q := u.quantWord cur (fp32Elems (u.v a))
      found (.vhist k a h) [a] →
      goesTo s (.vhist k a h) k onlyX false ((u.vsteps (takesStep cur.fmt.toNat)).sendContrib (q.contrib u.ctx.id pa))) ∧
    (∀ old : ScaleEnt, recVersion r (at_ (.vscx k d a h)).versel = some old → old.admitted = true →
      let u := at_ (.vscx k d a h)
      let xs := scaledElems old.fmt.toNat (u.v a)
      let flags := xs.foldl (fun f x => f ||| x.2) 0
      let q := u.quantWord cur (xs.map (fun x => x.1.scale old.e))
      found (.vscx k d a h) [d, a] → (∀ n, u.tolerance r = some n → q.sat ≤ n) → flags &&& fSINV = 0 →
      goesTo s (.vscx k d a h) k onlyX false (stored u q flags)) ∧
    (∀ ent : ScaleEnt, recVersion r (at_ (.vdq k d a h)).versel = some ent → ent.admitted = true →
      let u := at_ (.vdq k d a h)
      let xs := scaledElems ent.fmt.toNat (u.v a)
      let l := (List.range 64).map (fun n =>
        let x := xs.getD n (.nan, 0)
        let o := roundFmt 0 (x.1.scale ent.e) u.mode false (u.laneRnd n)
        (o.1, o.2 ||| x.2))
      found (.vdq k d a h) [d, a] → (∀ e ∈ l, e.2 &&& fSINV = 0) →
      goesTo s (.vdq k d a h) k onlyX false (u.setElems d 32 l true 6)) ∧
    ∀ (u : State) (c : Contrib), ∃ n, (u.sendContrib c).contribs = u.contribs ++ [{ c with sent := n }] ∧
      u.sendContrib c = { u with contribs := (u.sendContrib c).contribs }

/-- Rounding a value that a binary format holds gives back its word, in every mode and with no flag (R33, R36): FP32, BF16,
FP16 and ACC48, every word but the NaNs; and every code of GF8 and GF6 is the rounding of its own value (R28 to R30). -/
def Obligations.RoundingExact : Prop :=
  (∀ (f : FFmt) (mode : RMode) (sat : Bool) (rnd w : Nat), (f = fp32 ∨ f = bf16 ∨ f = fp16 ∨ f = acc48) →
    w < 2 ^ (f.ebits + f.mbits + 1) → f.decodeIeee w ≠ .nan → f.round mode sat rnd (f.decodeIeee w) = (w, 0)) ∧
  (∀ c < 256, gfRound 8 (gfDecode 8 c) = (c, 0)) ∧ ∀ c < 64, gfRound 6 (gfDecode 6 c) = (c, 0)

/-! ### Metadata words (08) -/

/-- MD (R189 to R193): binding, reading and setting a record, its postmark, a close, and the wait for a version. A record
stored at its owner die reads back (R222, R226), and a new version (R227) is the next slot's entry with the version one
higher, wrapping. -/
def Obligations.MetadataWords : Prop :=
  (∀ (k : Ctl) (d a : Reg) (h : BitVec 5) (s : State) (pa : Nat) (r : List Word),
     let u (i : Instr) : State := (s.begun i k).touchRecord pa
     let found (i : Instr) : Prop := (s.begun i k).resolveHandle h.toNat = some (pa, r)
     (∀ (t : State) (x : Xlat) (p : Piece),
       let i : Instr := .mdbind k a h
       let va := (s.operands i k).x a
       va.toNat % 128 = 0 → (s.operands i k).resolve va.toNat 128 .load mdTarget = .ok (t, [p]) → p.tgt = .mem x →
       goesTo s i k anyStrand false
         ((t.mctx (fun c => { c with h := SMap.set none c.h h.toNat (some x.pa) })).touchRecord x.pa)) ∧
     (let i : Instr := .mdread k d a h;
       (s.operands i k).resolveHandle h.toNat = some (pa, r) →
       goesToX s i k anyStrand ((s.operands i k).touchRecord pa) d (r.getD (((s.operands i k).x a).toNat % 16) 0) 8) ∧
     (let i : Instr := .mdclose k h;
       let busy := (u i).handleBusy h.toNat (u i).before || (u i).contribs.any (fun c => c.ctx == s.ctx.id && c.record == pa)
       found i → (busy = false → endsIn s i k anyStrand ((u i).addClose pa)) ∧ (busy = true → waitsIn s i k anyStrand (u i) .scalever)) ∧
     (∀ (t : State) (n : Nat) (hit : Bool),
       let i : Instr := .mdset k a h
       found i → mdsetPriv s = none → ((u i).x a).toNat % 16 = 0 →
       (u i).memRead ((u i).x a).toNat 16 0 0 anyTarget = .ok (.val t n hit) → scaledFormat (n % 256) = true → n < 65536 →
       (t.recHeld pa = true → waitsIn s i k anyStrand t .scalever) ∧
       (t.recHeld pa = false → endsIn s i k anyStrand ((t.settleRecord pa).newVersion pa (n % 256) (BitVec.ofNat 8 (n / 256)).toInt))) ∧
     (∀ (t : State) (pm : Nat) (hit : Bool) (ent : ScaleEnt),
       let i : Instr := .mdpm k d a h
       let m := (s.operands i k).touchRecord pa
       (s.operands i k).resolveHandle h.toNat = some (pa, r) →
       m.postmark r ((m.x a).toNat / 4096) 0 = .ok (.val t pm hit) → recPostmark r pm = some ent → ent.admitted = true →
       goesTo s i k anyStrand false ((t.setX d (ent.ver.setWidth 64) 8).setVersel ent.ver 8)) ∧
     (let i : Instr := .mdwait k a h;
       let behind := (BitVec.ofNat 16 ((u i).x a).toNat - (recCur r).ver).toNat
       found i → (behind = 0 ∨ 32768 ≤ behind → endsIn s i k anyStrand (u i)) ∧
         (0 < behind → behind < 32768 → waitsIn s i k anyStrand (u i) .scalever))) ∧
  (∀ (s : State) (pa fmt : Nat) (e : Int), s.memWf →
     (∀ r : List Word, r.length = 16 → (s.putRecord pa r).recordAt pa = r) ∧
     (fmt < 16 → -128 ≤ e → e < 128 →
       let r := s.recordAt pa
       let q := (s.newVersion pa fmt e).recordAt pa
       recHead q = (recHead r + 1) % 4 ∧ (recCur q).ver = (recCur r).ver + 1 ∧ (recCur q).fmt.toNat = fmt ∧ (recCur q).e = e ∧
         recValid q (recHead q) = true ∧ recSlot q (recHead r) = recCur r ∧ recValid q (recHead r) = true))

/-! ### Stencils, guards, phases and waits (09) -/

/-- STLD, STWR, STRD (R205), GSET and GCLR (R206), and the stamp (R70, R71): a command enters its engine's queue with the
next ESN once its capture passes. -/
def Obligations.StencilWords : Prop :=
  ∀ (k : Ctl) (d a : Reg) (slot : BitVec 6) (f g : BitVec 4) (s : State),
    (∀ (t : State) (v : Nat) (hit : Bool),
      let i : Instr := .stld k slot a
      let u := s.operands i k
      let m := (t.setSlot slot.toNat (BitVec.ofNat 256 v) 10).cureSlot slot
      (u.x a).toNat % 32 = 0 → u.memRead (u.x a).toNat 32 0 0 anyTarget = .ok (.val t v hit) →
      m.watched .load (u.x a).toNat 32 = none →
      (hit = true → goesTo s i k anyStrand false m) ∧
      (hit = false → goesLater s i k anyStrand m
        { strand := u.ctx.cur, atomic := false, arr := .none, qp := k.qp, qn := k.qn, clk := (u.strand u.ctx.cur).clk, left := 9 })) ∧
    (let i : Instr := .stwr k slot a f;
      let u := s.operands i k
      ∃ w : BitVec 256, goesTo s i k anyStrand false (u.setSlot slot.toNat w 1) ∧
        ∀ j, j < 256 → w.getLsbD j = (if j / 16 = f.toNat then (u.x a).getLsbD (j % 16) else (u.slotNow slot.toNat).getLsbD j)) ∧
    (let i : Instr := .strd k d slot f;
      let u := s.operands i k
      u.slotBad slot = false → u.early (.stencil slot.toNat) = false →
      goesToX s i k anyStrand u d (BitVec.ofNat 64 ((u.slot slot.toNat).toNat / 2 ^ (16 * f.toNat) % 65536)) 2) ∧
    (let i : Instr := .gset k g a;
      let u := s.operands i k
      goesTo s i k anyStrand false
        (u.mctx (fun c => { c with g := SMap.set none c.g g.toNat (some (decide (u.x a ≠ 0))), latch := true }))) ∧
    (let i : Instr := .gclr k g;
      goesTo s i k anyStrand false ((s.operands i k).mctx (fun c => { c with g := SMap.set none c.g g.toNat none }))) ∧
    (∀ (tk fsel : BitVec 4) (val : BitVec 16),
      let i : Instr := .stamp tk slot fsel val
      let ct : Ctl := { tk := tk, sy := false }
      let u := s.operands i ct
      let st := stampOf (u.slot slot.toNat) fsel val
      let e := engineOf st
      let regs := (stencilRegs st).map u.captured
      u.landingOwn (.stencil slot.toNat) = false → u.slotBad slot = false → stencilOk st = true → u.regsPending st = false →
      (e = .txe → u.inEngine .txe < 8) → (u.ctx.queues.get e.num).length < queueDepth e →
      let q : QEntry :=
        { stencil := st, rega := regs.getD 0 0, regb := regs.getD 1 0, esn := u.ctx.esn + 1,
          rmode := BitVec.ofNat 3 ((u.csrAs 0x009 u.ctx.csr.rndm).toNat % 8), spc := setBits (u.addrOf u.ctx.cur) 63 57 0,
          sstr := BitVec.ofNat 2 u.ctx.cur.num, qp := ct.qp, qn := ct.qn, armed := false, clk := (u.strand u.ctx.cur).clk,
          views := u.ctx.view, stamped := u.fresh }
      goesTo s i ct notC false
        (u.mctx (fun c => { c with esn := c.esn + 1, queues := c.queues.set e.num (c.queues.get e.num ++ [q]) })))

/-- PHASE and PHWT (R196): a member waits for its commands, arrives once with release(device), and when the boundary has
reached its die takes the new phase with acquire(device); PHWT gives 0 then, and 1 when its limit has passed. DMJOIN and
DMLEAVE (R197, R198). -/
def Obligations.PhaseWords : Prop :=
  ∀ (k : Ctl) (d a : Reg) (s : State),
    let ready (u : State) : Prop := u.ctx.csr.dmrV = true ∧ (u.ctx.csr.dmrArr = false → u.phaseBusy u.before = false)
    let arrived (u : State) : State := if u.ctx.csr.dmrArr then u else
      ((u.release 2).arrive u.ctx.csr.dmrDom u.ctx.id).mcsr (fun c => { c with dmr := setBits c.dmr 14 14 1 })
    let passed (u : State) : State :=
      ((arrived u).mcsr (fun c => { c with phcnt := c.phcnt + 1, dmr := setBits c.dmr 14 14 0 })).acquire 2
    (let i : Instr := .phase k;
      let u := s.begun i k
      (u.ctx.csr.dmrV = true → u.ctx.csr.dmrArr = false → u.phaseBusy u.before = true → waitsIn s i k onlyC u .barrier) ∧
      (ready u → (arrived u).boundarySeen = true → endsIn s i k onlyC (passed u)) ∧
      (ready u → (arrived u).boundarySeen = false → waitsIn s i k onlyC (arrived u) .barrier)) ∧
    (let i : Instr := .phwt k d a;
      let u := s.begun i k
      let limit := (u.x a).toNat
      (ready u → (arrived u).boundarySeen = true → endsIn s i k onlyC ((passed u).setX d 0 1)) ∧
      (ready u → (arrived u).boundarySeen = false → limit ≤ u.waited → endsIn s i k onlyC ((arrived u).setX d 1 1)) ∧
      (ready u → (arrived u).boundarySeen = false → u.waited < limit → waitsIn s i k onlyC (arrived u) .barrier)) ∧
    (let i : Instr := .dmjoin k a;
      let u := s.begun i k
      let dom := u.ctx.joining.getD (BitVec.ofNat 10 (u.x a).toNat)
      let m := if u.ctx.joining.isSome then u else (u.registerJoin dom u.ctx.id).mctx (fun c => { c with joining := some dom })
      (u.ctx.joining = none → u.ctx.csr.dmrV = false ∧ (u.x a).toNat < 1024 ∧ u.joinable dom = true) →
      (m.joinSeen dom = true → endsIn s i k onlyC ((m.takeJoin dom).acquire 2)) ∧
      (m.joinSeen dom = false → waitsIn s i k onlyC m .barrier)) ∧
    (let i : Instr := .dmleave k;
      let u := s.operands i k
      u.ctx.csr.dmrV = true → goesTo s i k onlyC false (u.release 2).withdraw)

/-- BBPOST (R199, R200) posts at the bank ALU: POSTED and PV are set, the arrived count stays, DONE follows once the count
meets it, ERR once it passes it and its pushes land with the answer; BBWT (R201) ends with 0 and
acquire(device) once DONE is set without ERR, with 2, acquire(device) and then the exception BB_OVERRUN once both are set, and with
1 when its limit has passed. -/
def Obligations.ByteBarrierWords : Prop :=
  ∀ (k : Ctl) (d a b : Reg) (s t : State) (x : Xlat) (p : Piece),
    (let i : Instr := .bbpost k a b;
      let u := s.operands i k
      (u.x b).toNat < 2 ^ 48 → (u.x a).toNat % 16 = 0 →
      u.resolve (u.x a).toNat 16 .atomic atomicTarget = .ok (t, [p]) → p.tgt = .mem x →
      goesLater s i k onlyC (t.barrierUpdate x.pa x.region (barrierPost (u.x b).toNat))
        { strand := .c, atomic := false, arr := .none, qp := k.qp, qn := k.qn, clk := (u.strand .c).clk, left := 7 }) ∧
    (let i : Instr := .bbwt k d a b;
      let u := s.begun i k
      let w := (t.memDw (x.pa + 8)).toNat
      (u.x a).toNat % 16 = 0 → u.resolve (u.x a).toNat 16 .atomic atomicTarget = .ok (t, [p]) → p.tgt = .mem x →
      (w.testBit 49 = true → w.testBit 50 = false → endsIn s i k onlyC ((t.setX d 0 1).acquire 2)) ∧
      (w.testBit 49 = true → w.testBit 50 = true → t.canTrap → s.bundle = false → s.takes i k onlyC false →
        ∃ m r : State, exec i s = .next r ∧ ((t.setX d 2 1).acquire 2).closes m ∧
          m.tookTrap r .bbOverrun s.ctx.cur (s.addrOf s.ctx.cur) (u.x a) (BitVec.ofNat 32 (encodeWord i))) ∧
      (w.testBit 49 = false → (u.x b).toNat ≤ u.waited → endsIn s i k onlyC (t.setX d 1 1)) ∧
      (w.testBit 49 = false → u.waited < (u.x b).toNat → waitsIn s i k onlyC t .barrier)) ∧
  ∀ (n v : Nat), n < 2 ^ 48 → v < 2 ^ 128 →
    let w := barrierPost n v
    let arrived := v % 2 ^ 64
    w % 2 ^ 64 = arrived ∧ w / 2 ^ 64 % 2 ^ 48 = n ∧ w / 2 ^ 112 % 2 = 1 ∧
    w / 2 ^ 113 % 2 = (if n ≤ arrived then 1 else 0) ∧
    w / 2 ^ 114 % 2 = (if n < arrived ∨ v / 2 ^ 114 % 2 = 1 then 1 else 0)

/-! ### Tasks, power, counters and CSRs (09, 11) -/

/-- REQ (R203): the block in the window becomes a command of the destination context, after release(device), with the
destination's next ESN and the requester's pushes owed to it. -/
def Obligations.RemoteRequest : Prop :=
  ∀ (k : Ctl) (a b : Reg) (s : State) (c : Ctx),
    let i : Instr := .req k a b
    let u := s.begun i k
    let off := (u.x b).toNat - winBase
    let st := BitVec.ofNat 256 (spadNat u.ctx.spad off 32)
    let flags := spadNat u.ctx.spad (off + 48) 16
    let e := engineOf st
    let m := if (s.strand s.ctx.cur).mark then u else u.release 2
    let dst := (m.ctxOf c.id).getD c
    let qp := decide (flags % 2 = 1)
    let qn := decide (flags / 2 % 2 = 1)
    (u.x b).toNat % 64 = 0 → inWindow (u.x b).toNat = true → off < u.ctx.spres * 65536 →
    u.ctxOf (BitVec.ofNat 32 (u.x a).toNat) = some c → c.id = BitVec.ofNat 32 (u.x a).toNat → c.space.asid = u.ctx.space.asid →
    u.eccFault { va := (u.x b).toNat, len := 64, tgt := .win off } false = false → stencilOk st = true → flags < 4 →
    m.destFull c e = false → c.canPush .c qp qn = true →
    let q : QEntry :=
      { stencil := st, rega := BitVec.ofNat 64 (spadNat u.ctx.spad (off + 32) 8),
        regb := BitVec.ofNat 64 (spadNat u.ctx.spad (off + 40) 8), esn := dst.esn + 1, rmode := 0,
        spc := setBits (u.addrOf u.ctx.cur) 63 57 0, sstr := 0, qp := qp, qn := qn, armed := false, clk := Clock.zero,
        views := dst.view, stamped := m.fresh }
    endsIn s i k onlyC (m.putCtx
      ({ dst with esn := dst.esn + 1, queues := dst.queues.set e.num (dst.queues.get e.num ++ [q]) }.owe .c qp qn))

/-- TSPAWN (R207): once the record is read, status 2 for one that is not valid, 1 when its queue stays full past REQTO, and
acceptance with the entry's sequence number in x[d]. PWREQ and PWREL (R209). -/
def Obligations.SpawnAndPower : Prop :=
  ∀ (k : Ctl) (d a : Reg) (s : State),
    (∀ (t r : State) (v w : Nat) (h1 h2 : Bool) (rec : TaskRec),
      let i : Instr := .tspawn k d a
      let u := s.begun i k
      let dws := (List.range 32).map (fun n => BitVec.ofNat 64 (v / 2 ^ (64 * n)))
      let uses := usesTile ((List.range 64).map (fun n => BitVec.ofNat 256 (w / 2 ^ (256 * n))))
      let m := if (r.strand r.ctx.cur).mark then r else r.release 2
      let limit := (m.ctx.csr.reqto.toNat) % 2 ^ 32
      (u.x a).toNat % 256 = 0 → inWindow (u.x a).toNat = false →
      u.memRead (u.x a).toNat 256 0 0 memTarget = .ok (.val t v h1) → t.readBlock dws = .ok (.val r w h2) →
      (m.spawnable (parseTask dws) uses = false → endsIn s i k onlyC (m.setX d 2 1)) ∧
      (m.spawnable (parseTask dws) uses = true → parseTask dws = some rec →
        (m.queueFull m.ctx.die rec.queue = false → endsIn s i k onlyC
          ((m.acceptTask m.ctx.die rec (u.x a) 1 (some m.ctx.plate)).1.setX d (BitVec.ofNat 64 (m.jseq * 256)) 1)) ∧
        (m.queueFull m.ctx.die rec.queue = true → limit ≠ 0 → limit ≤ m.waited → endsIn s i k onlyC (m.setX d 1 1)) ∧
        (m.queueFull m.ctx.die rec.queue = true → limit = 0 ∨ m.waited < limit → waitsIn s i k onlyC m .qfull))) ∧
    (let i : Instr := .pwreq k d a;
      let u := s.begun i k
      let limit := u.ctx.csr.reqto.toNat % 2 ^ 32
      let n := (u.x a).toNat
      let answer (v : Word) : State := (u.mctx (fun c => { c with asked := none, granted := false })).setX d v 1
      (u.ctx.granted = true → endsIn s i k onlyC (answer 0)) ∧
      (u.ctx.granted = false → (u.ctx.asked = none → u.ctx.booking = none) →
        ((n = 0 ∨ 64 < n) → endsIn s i k onlyC (answer 1)) ∧
        (0 < n → n ≤ 64 → limit ≠ 0 → limit ≤ u.waited → endsIn s i k onlyC (answer 2)) ∧
        (0 < n → n ≤ 64 → limit = 0 ∨ u.waited < limit →
          waitsIn s i k onlyC (u.mctx (fun c => { c with asked := some n })) .grant))) ∧
    (let i : Instr := .pwrel k; goesTo s i k onlyC false (s.operands i k).giveBooking)

/-- CSR access (R88 to R90, R211) and the counters (R210): CSRR, ACCR and ESNR read with bound 2; CSRW, CSRS and CSRC write what
the CSR can hold, VERSEL with bound 1. A CSR that is read-only keeps its value, a writable one reads back the bits of its fields,
a reserved value, and a number that names no CSR, are ILLEGAL, which is taken before any effect. For FSTAT the flags of words that
the strand's tokens show to be complete have joined (R38, R59). -/
def Obligations.CsrWords : Prop :=
  (∀ (k : Ctl) (d a : Reg) (c : BitVec 9) (n : BitVec 4) (s : State),
    let listed := Machine.csrListed c.toNat = true
    let mayWrite := s.ctx.space.priv = .u → c ≠ 0x040 ∧ c ≠ 0x041
    let wrote (u : State) (csr : Csrs) : State :=
      let w := (if csr = u.ctx.csr then u else u.noteCsr c.toNat (u.csrRead c.toNat) 1).mcsr (fun _ => csr)
      if c = 0x00D then w.notePend .versel 1 0 else if c = 0x030 then w.banksOff u.ctx.csr else w
    let illegal (i : Instr) : Prop := s.canTrap → s.bundle = false → ∃ t addr, exec i s = .next t ∧
      s.tookTrap t .illegal s.ctx.cur (s.addrOf s.ctx.cur) addr (BitVec.ofNat 32 (encodeWord i)) ∧ t.ctx.spad = s.ctx.spad
    let put (i : Instr) (v : State → Word) : Prop :=
      let m := (s.operands i k).joined c.toNat
      (∀ csr, m.ctx.csr.write c.toNat (v (s.operands i k)) = some csr → listed → mayWrite →
        goesTo s i k anyStrand false (wrote m csr)) ∧
      (m.ctx.csr.write c.toNat (v (s.operands i k)) = none → listed → mayWrite → s.ready i k anyStrand false → illegal i) ∧
      (¬ listed → illegal i)
    (listed →
      goesToX s (.csrr k d c) k anyStrand (s.operands (.csrr k d c) k) d ((s.operands (.csrr k d c) k).csrSeen c.toNat) 2) ∧
    (¬ listed → illegal (.csrr k d c)) ∧
    put (.csrw k a c) (fun u => u.x a) ∧
    put (.csrs k c a) (fun u => if c = 0x071 then u.x a else u.csrSeen c.toNat ||| u.x a) ∧
    put (.csrc k c a) (fun u => if c = 0x071 then 0 else u.csrSeen c.toNat &&& ~~~(u.x a)) ∧
    goesToX s (.accr k d n) k anyStrand (s.operands (.accr k d n) k) d (BitVec.ofNat 64 (SMap.get 0 s.ctx.acct n.toNat)) 2 ∧
    goesToX s (.esnr k d) k anyStrand (s.operands (.esnr k d) k) d (s.ctx.esn.setWidth 64) 2) ∧
  (∀ (s : State) (n : Nat) (v : Word), n ∈ [0x000, 0x001, 0x002, 0x003, 0x004, 0x010, 0x011, 0x021, 0x023, 0x024, 0x025, 0x026,
      0x031, 0x032] → s.ctx.csr.write n v = some s.ctx.csr) ∧
  (∀ (s : State) (v : Word), ∀ e ∈ (
      [(0x008, 0xF), (0x009, 0x7), (0x00A, 0x7F00), (0x00B, 0x7C00), (0x00C, 0xF), (0x00D, 0xFFFF), (0x00E, 0x3F), (0x020, 0x1FFFFFFFFFFFFF0),
       (0x022, 0xFFFFFFFFFFFFFFFF), (0x030, 0xFFFFFFF0), (0x040, 0x1FFFFFFFFFFFFF0), (0x050, 0xFFFFFFFF), (0x051, 0xFFFFFFFF),
       (0x070, 0x3)] : List (Nat × Word)),
    ∀ csr, s.ctx.csr.write e.1 v = some csr → (s.mcsr (fun _ => csr)).csrRead e.1 = v &&& e.2) ∧
  (∀ (s : State) (v : Word) (csr : Csrs), s.ctx.csr.write 0x071 v = some csr →
    (s.mcsr (fun _ => csr)).csrRead 0x071 = s.csrRead 0x071 &&& ~~~(v &&& 3)) ∧
  (∀ (s : State) (n : Nat), (n ≠ 0x00E → s.joined n = s) ∧
    s.joined 0x00E = s.mctx (fun c => { c with
      lateFlags := c.lateFlags.filter (fun e => e.strand == c.cur || !decide (e.tick ≤ (c.strands.get c.cur.num).clk.of e.strand)),
      csr := { c.csr with fstat := (c.lateFlags.filter (fun e => !(e.strand == c.cur || !decide (e.tick ≤
        (c.strands.get c.cur.num).clk.of e.strand)))).foldl (fun w e => w ||| e.flags.setWidth 64) c.csr.fstat } })) ∧
  (∀ (s : State) (v : Word) (csr : Csrs), s.ctx.csr.write 0x041 v = some csr → ∀ i < 64,
    csr.accctl.getLsbD i = if 8 ≤ i ∧ i ≤ 12 ∨ i ≤ 2 then v.getLsbD i else s.ctx.csr.accctl.getLsbD i) ∧
  (∀ (s : State) (n : Nat) (v : Word), s.ctx.csr.write n v = none ↔
    (n = 0x008 ∧ v.toNat % 16 ∉ [0, 1, 2, 10]) ∨ (n = 0x009 ∧ 5 ≤ v.toNat % 8) ∨ (n = 0x00A ∧ v.toNat / 2 ^ 8 % 128 < 4) ∨
    (n = 0x00B ∧ v.toNat / 2 ^ 10 % 32 = 0) ∨ (n = 0x00C ∧ (v.toNat / 4 % 4 = 3 ∨ v.toNat % 4 = 3)) ∨
    (n = 0x030 ∧ ∃ i, 2 ≤ i ∧ i < 16 ∧ v.toNat / 2 ^ (2 * i) % 4 = 3) ∨
    (n = 0x041 ∧ (v.toNat / 2 ^ 8 % 32 = 31 ∨ (1 ≤ v.toNat / 2 ^ 8 % 32 ∧ v.toNat / 2 ^ 8 % 32 ≤ 11))))

/-! ### Traps and system words (09, 10) -/

/-- TRAP (R216): the SWTRAP exception with the immediate in TADDR, returning to the next word. ERET (R215): the frame comes
back, ACT clears and the hold of 8 cycles begins. A handler that returns elsewhere than to the trapping word finds the pending
transfer of `after`, the model's choice (log entry 57). -/
def Obligations.TrapAndReturn : Prop :=
  ∀ (k : Ctl) (n : BitVec 15) (s : State), s.bundle = false →
    (s.ready (.trap k n) k anyStrand false → s.canTrap →
      ∃ m t : State, exec (.trap k n) s = .next t ∧ (s.operands (.trap k n) k).closes m ∧
        m.tookTrap t .swtrap s.ctx.cur (m.strand s.ctx.cur).pc (n.setWidth 64) (BitVec.ofNat 32 (encodeWord (.trap k n))) ∧
        t.ctx.spad = s.ctx.spad ∧ (s.ctx.flight = [] → t.ctx.x = s.ctx.x ∧ t.ctx.lines = s.ctx.lines)) ∧
    (∀ f : Frame, s.ready (.eret k) k onlyC true → s.ctx.csr.act = true → s.ctx.lockstep = true → s.ctx.frame = some f →
      ∃ t, exec (.eret k) s = .next t ∧ t.ctx.csr.act = false ∧ t.ctx.frame = none ∧ t.ctx.lockstep = f.lockstep ∧
        t.ctx.hold = 9 ∧ t.ctx.x = s.ctx.x ∧ t.ctx.lines = s.ctx.lines ∧ t.ctx.vp = s.ctx.vp ∧
        (s.ctx.csr.eng = true → ∀ j : Strand, (t.strand j).frame = f.strands.get j.num) ∧
        (s.ctx.csr.eng = false → f.lockstep = true → ∀ j : Strand,
          (t.strand j).frame = if bundleOf s.ctx.csr.tpc = f.strands.q0.pc then f.strands.get j.num
            else { f.strands.get j.num with
                   pc := bundleOf s.ctx.csr.tpc, xfer := if j = .c then f.after else (f.strands.get j.num).xfer }) ∧
        (s.ctx.csr.eng = false → f.lockstep = false → ∀ j : Strand,
          (t.strand j).frame = if j ≠ Strand.ofNum (bitsOf s.ctx.csr.tstrand 1 0) ∨ (f.strands.get j.num).pc = s.ctx.csr.tpc
            then f.strands.get j.num else { f.strands.get j.num with pc := s.ctx.csr.tpc, xfer := f.after }))

/-- TLBI, FENCEI, WFE, HALT, TEND and WAITC (R202, R208, R217 to R220). A privileged word in U mode takes PRIV in place of its
effect (R90). -/
def Obligations.SystemWords : Prop :=
  (∀ (k : Ctl) (a b : Reg) (s : State),
     (let i : Instr := .tlbi k a b;
       let u := s.begun i k
       let va := (u.x a).toNat
       let n := (u.x b).toNat
       let m := if (s.strand s.ctx.cur).mark then u else u.shootdown u.ctx.space.asid va n
       s.ctx.space.priv ≠ .u →
       (n = 0 → endsIn s i k onlyC u) ∧
       (n ≠ 0 → m.spanHeld u.ctx.space.asid va n = false → endsIn s i k onlyC m) ∧
       (n ≠ 0 → m.spanHeld u.ctx.space.asid va n = true → waitsIn s i k onlyC m .dmem)) ∧
     (let i : Instr := .fencei k; goesTo s i k onlyC false ((s.operands i k).mplate (fun p => { p with icache := [] }))) ∧
     (let i : Instr := .wfe k;
       let u := s.begun i k
       (u.ctx.latch = true → endsIn s i k onlyC (u.mctx (fun c => { c with latch := false }))) ∧
       (u.ctx.latch = false → waitsIn s i k onlyC u .idle)) ∧
     (let i : Instr := .halt k;
       s.takes i k onlyC false → s.ctx.space.priv ≠ .u → s.bundle = false →
       ∃ t, exec i s = .next t ∧ t.ctx.life = .halted ∧ t.logged s.ctx.die 11 2 0 (BitVec.ofNat 64 s.ctx.id.toNat) ∧
         t.ctx.x = s.ctx.x ∧ t.ctx.lines = s.ctx.lines) ∧
     (let i : Instr := .tend k a;
       let u := (s.begun i k).mctx (fun c => { c with ending := true })
       (u.drained = false → waitsIn s i k onlyC u .dep) ∧
       (s.takes i k onlyC false → u.drained = true → s.bundle = false →
         ∃ t, exec i s = .next t ∧ t.ctx.life = .ended ∧
           t.logged s.ctx.die 3 2 (BitVec.ofNat 32 (u.x a).toNat) (BitVec.ofNat 64 s.ctx.id.toNat))) ∧
     (∀ (t : State) (x : Xlat) (p : Piece),
       let i : Instr := .waitc k a b
       let u := s.begun i k
       let ev := (u.x a).toNat
       let mask := setBits (u.x b) 0 0 0
       s.ctx.lockstep = true → s.ctx.task.mode ≠ 0 → ev % 16 ≤ 1 → (popcOp mask).toNat ≤ 16 →
       u.resolve (setBits (u.x a) 3 0 0).toNat 8 .atomic atomicTarget = .ok (t, [p]) → p.tgt = .mem x →
       (t.drained = false → waitsIn s i k onlyC (t.mctx (fun c => { c with ending := true })) .dep) ∧
       (s.takes i k onlyC false → s.bundle = false → t.drained = true →
         ∃ r, exec i s = .next r ∧ r.ctx.life = .ended ∧
           r.logged s.ctx.die 3 2 0x80000001 (BitVec.ofNat 64 s.ctx.id.toNat) ∧
           ∃ q ∈ r.contins, q.kind = ev % 16 ∧ q.addr = x.pa ∧ q.die = s.ctx.die ∧ q.task.cmask = mask ∧
             q.task.code = (nextPc (s.strand .c).pc 16 (s.strand .c).xfer none).1))) ∧
  (∀ (k : Ctl) (a b : Reg) (c : BitVec 9) (s : State), s.ctx.space.priv = .u → s.canTrap → s.bundle = false →
     ∀ i : Instr, (i = .tlbi k a b ∨ i = .halt k ∨ ((c = 0x040 ∨ c = 0x041) ∧ (i = .csrw k a c ∨ i = .csrs k c a ∨ i = .csrc k c a))) →
       s.bump.misplaced i k.sy (match i with | .tlbi .. => onlyC | .halt _ => onlyC | _ => anyStrand) false = false →
       ∃ t, exec i s = .next t ∧ ∃ addr, s.tookTrap t .priv s.ctx.cur (s.addrOf s.ctx.cur) addr (BitVec.ofNat 32 (encodeWord i)) ∧
         t.ctx.spad = s.ctx.spad ∧ (s.ctx.flight = [] → t.ctx.x = s.ctx.x))

/-- A misaligned load or store takes MISALIGN with its address in TADDR, before any effect (R91, R118, R387). Taking an
exception (R214, R361): PROT, and any fault while a trap is being handled, freeze the context with the trap CSRs recorded;
with no handler installed the task ends with the cause's status. -/
def Obligations.Exceptions : Prop :=
  (∀ (k : Ctl) (d a : Reg) (sb : BitVec 4) (h : BitVec 2) (z : BitVec 3) (s : State), s.canTrap → s.bundle = false →
     ∀ (i : Instr) (allowed : Strand → Bool), (z = 7 → (s.operands i k).vok d = true) →
       ((i = .ld k d a sb h z ∨ i = .ldp k d a sb h z) ∧ allowed = onlyL) ∨ ((i = .st k d a h z ∨ i = .stp k d a h z) ∧ allowed = onlyS) →
       s.ready i k allowed false → ((s.operands i k).x a).toNat % szAlign z ≠ 0 →
       ∃ t, exec i s = .next t ∧ s.tookTrap t .misalign s.ctx.cur (s.addrOf s.ctx.cur) ((s.operands i k).x a)
         (BitVec.ofNat 32 (encodeWord i)) ∧ t.ctx.spad = s.ctx.spad ∧ (s.ctx.flight = [] → t.ctx.x = s.ctx.x)) ∧
  (∀ (s : State) (e : Exc),
     (e.cause = .prot ∨ s.ctx.csr.act = true →
       (s.enterTrap e).ctx.life = .frozen ∧ (s.enterTrap e).ctx.csr.tpc = e.tpc ∧ (s.enterTrap e).ctx.csr.taddr = e.addr ∧
       (s.enterTrap e).logged s.ctx.die 12 2 0 (BitVec.ofNat 64 s.ctx.id.toNat)) ∧
     (e.cause ≠ .prot → s.ctx.csr.act = false → s.ctx.csr.vector = 0 →
       (s.enterTrap e).ctx.life = .ended ∧
       (s.enterTrap e).logged s.ctx.die 3 2 (BitVec.ofNat 32 (0x80000100 + e.cause.code)) (BitVec.ofNat 64 s.ctx.id.toNat)))


/-! ### Engine commands (08) -/

/-- The start of a command (R160, R161, R164): the eligible head of its engine leaves its queue and runs its body; a body that
has run makes it busy for its time; one that faults holds the queue with its cause and gives its units back; one that waits runs
again, and faults when STALETO has passed (R291). -/
def Obligations.EngineStart : Prop :=
  ∀ (s o u : State) (q : QEntry) (r : Running),
    let row (i : Instr) (e : Engine) (op : EngOp) (body : Body) : Prop :=
      s.atBody e op q o u r →
        ∃ t, exec i s = .next t ∧
          match body u q with
          | .run v n f => t = v.afterBody o r n (f { r with begun := true })
          | .stop v c a => t.ctx.life = v.ctx.life ∧ t.ctx.ecount = v.ctx.ecount ∧
              t.ctx.held.get e.num = some { cause := c, addr := a, ent := q, after := false, at_ := v.cycle, delivered := false } ∧
              ∀ x ∈ t.plate.running.get e.num, x.ent = q → x.ctx = r.ctx → x.left = 0 ∧ x.units = 0
          | .hold addr => t.ctx.x = u.ctx.x ∧ t.ctx.spad = u.ctx.spad ∧ t.ctx.tiles = u.ctx.tiles ∧
              match addr with
              | none => ∀ x ∈ t.plate.running.get e.num, x.ent = q → x.ctx = r.ctx → x.begun = false
              | some a =>
                let from_ := match r.stale with | some (p, c) => if p = a then c else o.cycle | none => o.cycle
                let limit := o.ctx.csr.staleto.toNat % 2 ^ 32
                if limit ≠ 0 ∧ limit ≤ o.cycle - from_ then t.ctx.held.get e.num =
                  some { cause := .staleTimeout, addr := a, ent := q, after := false, at_ := o.cycle, delivered := false }
                else ∀ x ∈ t.plate.running.get e.num, x.ent = q → x.ctx = r.ctx → x.begun = false ∧ x.stale = some (a, from_)
    row .mwl .mxe .mwl mwlBody ∧ row .mma .mxe .mma mmaBody ∧ row .mdr .mxe .mdr mdrBody ∧ row .maz .mxe .maz mazBody ∧
    row .mas .mxe .mas masBody ∧ row .mar .mxe .mar marBody ∧ row .xtr .txe .xtr xtrBody ∧ row .xfw .txe .xfw xfwBody ∧
    row .uaw .ude .uaw uawBody ∧ row .usm .ude .usm usmBody ∧ row .uax .ude .uax uaxBody ∧ row .uns .ude .uns unsBody ∧
    row .cpy .cpe .cpy cpyBody ∧ row .cpyPm .cpe .cpyPm cpyPmBody ∧ row .cpyCv .cpe .cpyCv cpyCvBody ∧
    row .cpg .cpe .cpg cpgBody ∧ row .cps .cpe .cps cpsBody ∧ row .cpm .cpe .cpm cpmBody ∧ row .cpl .cpe .cpl cplBody ∧
    row .cpz .cpe .cpz cpzBody

/-- The matrix engine (R169 to R178): MWL latches the stored rows of its mask, MMA puts or adds its chains into the tile, MDR
converts rows of the tile, MAZ, MAS and MAR clear, save and restore it; each with its busy cycles. -/
def Obligations.MatrixCommands : Prop :=
  ∀ (s o u : State) (q : QEntry) (r : Running), SMap.wf 0 u.ctx.spad = true →
    let st := q.stencil
    let tile := fbits st 2 1 0
    let base := 32 * fieldOf st 3
    let elem (t : Tile) (i : Nat) : BitVec 48 := SMap.get 0 t.elems i
    let rest (v : State) (j : Nat) : Prop := ∀ i < 4, i ≠ j → v.ctx.tiles.get i = u.ctx.tiles.get i
    (s.atBody .mxe .maz q o u r → u.ctx.hasTile tile = true →
      ∃ v, exec .maz s = .next (v.afterBody o r 128 r) ∧ u.engineOnly v ∧ v.ctx.tiles.get tile = Tile.blank ∧ rest v tile ∧
        v.ctx.spad = u.ctx.spad) ∧
    (s.atBody .mxe .mas q o u r → u.ctx.hasTile tile = true → u.spadFault base 98336 = none → u.accBad tile 128 128 = none →
      ∃ v, exec .mas s = .next (v.afterBody o r 392 r) ∧ u.engineOnly v ∧ v.ctx.tiles = u.ctx.tiles ∧
        (∀ i < 16384, spadNat v.ctx.spad (base + 6 * i) 6 = (elem (u.ctx.tiles.get tile) i).toNat) ∧
        (let g := (u.ctx.tiles.get tile).tag;
          spadNat v.ctx.spad (base + 98304) 2 = (g.e % 65536).toNat ∧ spadNat v.ctx.spad (base + 98306) 2 = g.verA.toNat ∧
          spadNat v.ctx.spad (base + 98308) 2 = g.verW.toNat ∧ v.ctx.spadAt (base + 98310) = g.hndA ∧
          v.ctx.spadAt (base + 98311) = g.hndW ∧ v.ctx.spadAt (base + 98312) = (if g.tagged then 1 else 0)) ∧
        ∀ o, o < base ∨ base + 98336 ≤ o → v.ctx.spadAt o = u.ctx.spadAt o) ∧
    (s.atBody .mxe .mar q o u r → u.ctx.hasTile tile = true → u.spadFault base 98336 = none →
      u.spadBad [(base, 98336)] = none → (u.ctx.spadAt (base + 98312)).toNat < 2 → spadNat u.ctx.spad (base + 98313) 23 = 0 →
      ∃ v, exec .mar s = .next (v.afterBody o r 392 r) ∧ u.engineOnly v ∧ rest v tile ∧ v.ctx.spad = u.ctx.spad ∧
        (∀ i < 16384, (elem (v.ctx.tiles.get tile) i).toNat = spadNat u.ctx.spad (base + 6 * i) 6) ∧
        (v.ctx.tiles.get tile).tag.e = (BitVec.ofNat 16 (spadNat u.ctx.spad (base + 98304) 2)).toInt ∧
        (v.ctx.tiles.get tile).tag.tagged = decide (u.ctx.spadAt (base + 98312) = 1)) ∧
    (∀ (fmt : Nat) (ent : Option (ScaleEnt × BitVec 5)) (kept : List Nat),
      let k := fieldOf st 3
      let n := fieldOf st 4
      let sparse := fieldOf st 7
      let mask := (32 * fieldOf st 8, 8 * ((k + 47) / 48))
      let bytes := rowBytes fmt n
      let rows := pitchRanges (fieldOf st 2) (fieldOf st 5) kept.length bytes
      let tagged (ranges : Nat → List (Nat × Nat)) : Prop :=
        if stHv st then ∃ e,
            u.operandEntry (stHnd st) (ranges (rowBytes ((u.operandFmt (stHnd st) (ranges 1)).getD 0) n)) = .ok e ∧
            fmt = e.fmt.toNat ∧ ent = some (e, BitVec.ofNat 5 (stHnd st))
        else fmt = stFmt st ∧ ent = none
      let masked : Prop := if sparse = 0 then kept = List.range k
        else u.spadFault mask.1 mask.2 = none ∧ u.readMask sparse mask.1 k = .ok kept
      let latched (v : State) (w : Weight) : Prop :=
        v.ctx.weight = some w ∧ v.plate.arrayOf = u.ctx.id ∧ w.k = k ∧ w.n = n ∧ w.fmt = fmt ∧ w.sparse = sparse ∧
        w.kept = kept ∧ w.ent = ent ∧ v.ctx.spad = u.ctx.spad ∧ v.ctx.tiles = u.ctx.tiles
      fmtWidth fmt ≤ 32 → n ≤ 128 → k ≤ kLimit sparse (mxClass fmt) → masked →
      (s.atBody .mxe .mwl q o u r → fbits st 1 1 1 = 0 → tagged (fun b => pitchRanges (fieldOf st 2) (fieldOf st 5) kept.length b) →
        pitchOk kept.length (fieldOf st 5) bytes = true →
        u.spadFault (32 * fieldOf st 2) (extent (fieldOf st 5) kept.length bytes) = none →
        u.spadBad (rows ++ (if sparse = 0 then [] else [mask])) = none →
        ∃ v w, exec .mwl s = .next (v.afterBody o r (mwlTime fmt kept.length) r) ∧ u.engineOnly v ∧ latched v w ∧
          ∀ j < kept.length, ∀ c < n, (SMap.get 0 w.elems (128 * j + c)).toNat =
            spadNat u.ctx.spad (32 * (fieldOf st 2 + j * fieldOf st 5)) bytes / 2 ^ (fmtWidth fmt * c) % 2 ^ fmtWidth fmt) ∧
      (s.atBody .mxe .mwl q o u r → fbits st 1 1 1 = 1 → tagged (fun _ => []) → k ≤ 128 →
        (∀ i < (k + 31) / 32, ∀ j < (n + 31) / 32, u.ctx.staging.landed.getLsbD (4 * i + j) = true ∧
          fmtWidth fmt = if u.ctx.staging.esz.getLsbD (4 * i + j) then 16 else 8) →
        ∃ v w, exec .mwl s = .next (v.afterBody o r (mwlTime fmt kept.length) r) ∧ u.engineOnly v ∧ latched v w ∧
          v.ctx.staging = { Staging.blank with full := u.ctx.staging.elems } ∧
          ∀ j < kept.length, ∀ c < n, (SMap.get 0 w.elems (128 * j + c)).toNat =
            (SMap.get 0 u.ctx.staging.elems (128 * j + c)).toNat)) ∧
    (∀ (w : Weight) (fmt : Nat) (ent : Option ScaleEnt),
      let m := fieldOf st 3
      let pitch := fieldOf st 4
      let tile := fbits st 5 1 0
      let add := fbits st 5 2 2 == 1
      let rev := fbits st 5 3 3 == 1
      let passes := if mxClass fmt = 3 then 2 else 1
      let proof := fbits st 1 0 0
      let bytes := rowBytes fmt w.k
      let rows := pitchRanges (fieldOf st 2) pitch m bytes
      let old := u.ctx.tiles.get tile
      let e : Int := (match ent with | some x => x.e | none => 0) + (match w.ent with | some x => x.1.e | none => 0)
      let chainOf (i c : Nat) : Nat :=
        ((mmaRow w (decide (mxClass fmt = 4)) rev (u.aRow w fmt (32 * (fieldOf st 2 + i * pitch)))).getD c (0, 0)).1
      s.atBody .mxe .mma q o u r → u.ctx.weight = some w → u.ctx.hasTile tile = true → w.n ≤ 128 →
      u.aEntry st (fieldOf st 2) pitch m w.k = .ok (fmt, ent, none) → mxClass fmt = mxClass w.fmt →
      m * passes * (1 + proof) ≤ 8192 → pitchOk m pitch bytes = true →
      u.spadFault (32 * fieldOf st 2) (extent pitch m bytes) = none →
      (∀ g ∈ granulesOf rows, ∀ h ∈ w.grans, g % 4 ≠ h % 4) → u.spadBad rows = none →
      (add = true → u.accBad tile (min m 128) w.n = none) →
      ∃ v y, exec .mma s = .next (v.afterBody o r (256 + m * passes * (1 + proof)) y) ∧ u.engineOnly v ∧ rest v tile ∧
        v.ctx.spad = u.ctx.spad ∧ v.ctx.weight = u.ctx.weight ∧ v.plate.arrayOf = u.ctx.id ∧
        y = { r with input := y.input, flags := y.flags, fault := y.fault } ∧
        (y.input = if u.plate.arrayOf = u.ctx.id then 0 else mwlTime w.fmt w.kept.length) ∧
        (y.fault = match (if proof = 1 then u.proofMismatch (v.ctx.tiles.get tile).elems tile (min m 128) w.n else none) with
          | some a => some (.proofMismatch, a)
          | none => if y.flags &&& fSINV ≠ 0 then some (.scaleInv, 0) else none) ∧
        (add = false → (v.ctx.tiles.get tile).tag.e = e) ∧ (add = true → (v.ctx.tiles.get tile).tag = old.tag) ∧
        (SMap.wf 0 old.elems = true → ∀ i < 128, ∀ c < 128, m ≤ i ∨ w.n ≤ c →
          elem (v.ctx.tiles.get tile) (128 * i + c) = elem old (128 * i + c)) ∧
        (SMap.wf 0 old.elems = true → m ≤ 128 → ∀ i < m, ∀ c < w.n, (elem (v.ctx.tiles.get tile) (128 * i + c)).toNat =
          (if add then (accRound (Sys2Proof.Num.add .rne (acc48.decodeIeee (elem old (128 * i + c)).toNat)
              (scale2 (acc48.decodeIeee (chainOf i c)) (e - old.tag.e)).1).1).1 else chainOf i c) % 2 ^ 48)) ∧
    (∀ (fmt : Nat) (ent : Option ScaleEnt) (rec : Option (Nat × List Word)),
      let rows := fieldOf st 4
      let cols := fieldOf st 8
      let pitch := fieldOf st 5
      let bytes := rowBytes fmt cols
      let g := u.ctx.tiles.get tile
      let mode := RMode.ofCode q.rmode.toNat
      let shift : Int := g.tag.e - (match ent with | some e => e.e | none => 0)
      let row (t : State) (i : Nat) : Quant := drainRow fmt ent.isSome (fbits st 6 10 10 == 1) mode
        (fun j => if mode = .sr then t.rnd (i * cols + j) else 0)
        ((List.range cols).map (fun j => (acc48.decodeIeee (elem g (128 * i + j)).toNat).scale shift))
      let sat (t : State) : Nat := ((List.range rows).map (fun i => (row t i).sat)).sum
      let beyond (t : State) : Prop := ∃ pa l n, rec = some (pa, l) ∧ t.tolerance l = some n ∧ n < sat t
      (if stHv st then ∃ p, u.resolveHandle (stHnd st) = some p ∧ fmt = (recCur p.2).fmt.toNat ∧ ent = some (recCur p.2) ∧ rec = some p
        else fmt = stFmt st ∧ ent = none ∧ rec = none) →
      s.atBody .mxe .mdr q o u r → u.ctx.hasTile tile = true → u.accBad tile rows cols = none →
      (fbits st 2 2 2 = 0 → pitchOk rows pitch bytes = true → u.spadFault base (extent pitch rows bytes) = none →
        ∃ v y, exec .mdr s = .next (v.afterBody o r (8 + rows * ((bytes + 255) / 256)) y) ∧ u.engineOnly v ∧
          v.ctx.tiles = u.ctx.tiles ∧ y.ent = r.ent ∧ y.ctx = r.ctx ∧ (y.fault.isSome = true ↔ beyond u) ∧
          (∀ i < rows, ∀ j < bytes, v.ctx.spadAt (base + 32 * (i * pitch) + j) = ((row u i).rowOf fmt).getD j 0) ∧
          ∀ o, (∀ i < rows, o < base + 32 * (i * pitch) ∨ base + 32 * (i * pitch) + bytes ≤ o) → v.ctx.spadAt o = u.ctx.spadAt o) ∧
      (fbits st 2 2 2 = 1 → ∀ (t : State) (n : Nat) (hit : Bool), u.tdtEntry (fbits st 7 11 0) = .ok (.val t n hit) →
        ∃ v y, exec .mdr s = .next (v.afterBody o r (8 + rows * ((bytes + 255) / 256)) y) ∧ t.engineOnly v ∧
          v.ctx.tiles = t.ctx.tiles ∧ v.ctx.spad = t.ctx.spad ∧ y.ent = r.ent ∧ y.ctx = r.ctx ∧ (y.fault.isSome = true ↔ beyond t) ∧
          y.strm = some ((List.range 8).map (fun i => BitVec.ofNat 64 (n / 2 ^ (64 * i))) ++ [BitVec.ofNat 64 bytes], ((List.range rows).map (fun i => (row t i).rowOf fmt)).flatten)))

/-- The transpose engine (R179, R180): XTR lands element (c, r) of its destination from element (r, c) of its source after 96
cycles, XFW the transposed block in the staging buffer. -/
def Obligations.TransposeCommands : Prop :=
  ∀ (s o u : State) (q : QEntry) (r : Running),
    let st := q.stencil
    let w := 2 ^ fieldOf st 4
    let elem (sp i c : Nat) : Nat := spadNat u.ctx.spad (32 * (fieldOf st 2 + i * sp) + w * c) w
    (s.atBody .txe .xtr q o u r →
      u.spadFault (32 * fieldOf st 2) (extent (fieldOf st 5) 32 (32 * w)) = none →
      u.spadFault (32 * fieldOf st 3) (extent (fieldOf st 6) 32 (32 * w)) = none →
      u.spadBad (pitchRanges (fieldOf st 2) (fieldOf st 5) 32 (32 * w)) = none →
      ∃ land : List (Nat × Byte), exec .xtr s = .next (u.afterBody o r 97 { r with land := land }) ∧ land.length = 1024 * w ∧
        ∀ c < 32, ∀ i < 32, ∀ j < w,
          (32 * (fieldOf st 3 + c * fieldOf st 6) + w * i + j, BitVec.ofNat 8 (elem (fieldOf st 5) i c / 256 ^ j)) ∈ land) ∧
    (s.atBody .txe .xfw q o u r →
      u.spadFault (32 * fieldOf st 2) (extent (fieldOf st 6) 32 (32 * w)) = none →
      u.spadBad (pitchRanges (fieldOf st 2) (fieldOf st 6) 32 (32 * w)) = none →
      ∃ els : List Nat, exec .xfw s =
          .next (u.afterBody o r 97 { r with block := some (fieldOf st 4, fbits st 5 1 0 * 4 + fbits st 5 3 2, els) }) ∧
        els.length = 1024 ∧ ∀ i < 32, ∀ j < 32, els.getD (32 * i + j) 0 = elem (fieldOf st 6) j i)

/-- The update engine (R181, R182): each element is the stated expression, every intermediate value rounded once into FP32 (here
in the modes that take no random bits), where the arrays meet index by index or not at all; UNS adds one tree of 64 squares
after another. -/
def Obligations.UpdateCommands : Prop :=
  ∀ (s o u : State) (q : QEntry) (r : Running), SMap.wf 0 u.ctx.spad = true →
    let st := q.stencil
    let mode := RMode.ofCode q.rmode.toNat
    let n := 64 * fieldOf st 6
    let base (i : Nat) : Nat := 32 * fieldOf st i
    let gw := gradWidth st
    let f32 (m : SMap Byte) (i j : Nat) : Sys2Proof.Num := fp32.decodeIeee (spadNat m (base i + 4 * j) 4)
    let old (i j : Nat) : Sys2Proof.Num := f32 u.ctx.spad i j
    let h (j : Nat) : Sys2Proof.Num := f32 u.ctx.spad 7 j
    let g (j : Nat) : Sys2Proof.Num := (decodeFmt (gradFmt st) (spadNat u.ctx.spad (base 3 + gw * j) gw)).1
    let rd (x : Sys2Proof.Num) : Sys2Proof.Num := fp32.decodeIeee (fp32.round mode false u.plate.lfsr.toNat x).1
    let plus (x y : Sys2Proof.Num) : Sys2Proof.Num := (Sys2Proof.Num.add mode x y).1
    let times (x y : Sys2Proof.Num) : Sys2Proof.Num := (Sys2Proof.Num.mul x y).1
    let sound (wr rds : List (Nat × Nat)) : Prop := ∀ a ∈ wr, ∀ b ∈ wr ++ rds, clash a b = false
    let ends (i : Instr) (op : EngOp) (time : Nat) (ps wr rds rdBad : List (Nat × Nat)) (res : State → Prop) : Prop :=
      s.atBody .ude op q o u r → (∀ p ∈ ps, u.spadFault p.1 p.2 = none) → u.spadBad rdBad = none →
        ∃ v y, exec i s = .next (v.afterBody o r time y) ∧ u.engineOnly v ∧ y = { r with flags := y.flags } ∧
          v.ctx.tiles = u.ctx.tiles ∧ (∀ o, (∀ p ∈ wr, o < p.1 ∨ p.1 + p.2 ≤ o) → v.ctx.spadAt o = u.ctx.spadAt o) ∧
          (mode ≠ .sr → v.plate.lfsr = u.plate.lfsr ∧ (sound wr rds → res v))
    let P := (base 2, 4 * n)
    let G := (base 3, gw * n)
    let M := (base 4, 4 * n)
    let V := (base 5, 4 * n)
    let H := (base 7, 64)
    ends .uax .uax (4 + fieldOf st 6 * 2) [P, (base 3, 4 * n), M, H] [M] [P, (base 3, 4 * n), H] [P, (base 3, 4 * n), H] (fun v =>
      ∀ j < n, f32 v.ctx.spad 4 j = rd (plus (times (h 0) (old 2 j)) (times (h 1) (old 3 j)))) ∧
    ends .usm .usm (4 + fieldOf st 6 * 3) [P, G, M, H] [P, M] [G, H] [P, G, M, H] (fun v =>
      base 2 ≠ base 4 → ∀ j < n,
        let m1 := rd (plus (plus (times (h 1) (old 4 j)) (g j)) (times (h 2) (old 2 j)))
        f32 v.ctx.spad 4 j = m1 ∧ f32 v.ctx.spad 2 j = rd (plus (old 2 j) (times (h 0) m1).neg)) ∧
    ends .uaw .uaw (4 + fieldOf st 6 * 4) [P, G, M, V, H] [P, M, V] [G, H] [P, G, M, V, H] (fun v =>
      let c1 := rd (plus .one (h 1).neg)
      let c2 := rd (plus .one (h 2).neg)
      let k1 := rd (oneMinus mode (Sys2Proof.Num.pow (h 1) (h 5)).1).1
      let k2 := rd (oneMinus mode (Sys2Proof.Num.pow (h 2) (h 5)).1).1
      base 2 ≠ base 4 → base 2 ≠ base 5 → base 4 ≠ base 5 → ∀ j < n,
        let m1 := rd (plus (times (h 1) (old 4 j)) (times c1 (g j)))
        let v1 := rd (plus (times (h 2) (old 5 j)) (times (times c2 (g j)) (g j)))
        let mh := rd (Sys2Proof.Num.div m1 k1).1
        let dn := rd (plus (rd (Sys2Proof.Num.sqrt (rd (Sys2Proof.Num.div v1 k2).1)).1) (h 3))
        let d := rd (plus (Sys2Proof.Num.div mh dn).1 (times (h 4) (old 2 j)))
        f32 v.ctx.spad 4 j = m1 ∧ f32 v.ctx.spad 5 j = v1 ∧ f32 v.ctx.spad 2 j = rd (plus (old 2 j) (times (h 0) d).neg)) ∧
    (let xs := (base 2, 256 * fieldOf st 6)
      let ds := (base 4, 4)
      let adds := fieldOf st 5 % 2 == 1
      ends .uns .uns (4 + fieldOf st 6) [xs, ds] [ds] (if base 2 = base 4 then [] else [xs]) (if adds then [xs, ds] else [xs]) (fun v =>
        let group (i : Nat) : Sys2Proof.Num := ((redTree (sumNode 0 mode (fun _ => 0)) 6 0
          ((List.range 64).map (fun j => ((Sys2Proof.Num.mul (old 2 (64 * i + j)) (old 2 (64 * i + j))).1, 0)))).1.headD (Sys2Proof.Num.zero, 0)).1;
        f32 v.ctx.spad 4 0 = (List.range (fieldOf st 6)).foldl (fun a i => rd (plus a (group i))) (if adds then old 4 0 else fp32.decodeIeee 0)))

/-- The copy engine (R183 to R188): a copy that its parts let through is busy for a time that is open, with its barrier
arrival and what it leaves for its completion; CPG and CPS read an element's index when its turn comes, so that they see what they
have written; CPM fills the destination's words and empties its own, CPZ writes zeros. -/
def Obligations.CopyCommands : Prop :=
  ∀ (s o u b v : State) (q : QEntry) (r : Running) (bar : Option (Nat × Nat)),
    let st := q.stencil
    let va := q.rega.toNat
    let sp := cpySpad st
    let n := cpyLen st
    let out := cpyOut st
    let time (v : State) : Nat := 1 + Config.cpeCycles v.fresh
    let arrive (m : Nat) (y : Running) : Running := { y with bbar := bar.map (fun p => (p.1, p.2, m)) }
    let room (lo m : Nat) : Prop := b.spadFault lo m = none ∧ (out = true → b.spadBad [(lo, m)] = none)
    (∀ d : Ctx,
      let off := q.rega.toNat % 2 ^ 32
      let id := BitVec.ofNat 32 (q.rega.toNat / 2 ^ 32)
      s.atBody .cpe .cpm q o u r → u.ctxOf id = some d → d.id = id → u.cpmHeld q = false → id ≠ u.ctx.id → d.space.asid = u.ctx.space.asid → off % 32 = 0 →
      u.spadFault sp n = none → off + n ≤ d.spres * 65536 → u.spadBad [(sp, n)] = none →
      SMap.wf 0 d.spad = true → SMap.wf false d.fe = true → SMap.wf false u.ctx.fe = true → SMap.wf none u.ctxs = true →
      ∃ (w : State) (e : Ctx), exec .cpm s = .next (w.afterBody o r (time w) r) ∧ w.ctxOf id = some e ∧ w.mem = u.mem ∧ w.ctx.spad = u.ctx.spad ∧
        w.ctx.x = u.ctx.x ∧ e.x = d.x ∧
        (∀ i < n, e.spadAt (off + i) = u.ctx.spadAt (sp + i)) ∧ (∀ o, o < off ∨ off + n ≤ o → e.spadAt o = d.spadAt o) ∧
        (∀ i < n / 4, SMap.get false e.fe (off / 4 + i) = true ∧ SMap.get false w.ctx.fe (sp / 4 + i) = false) ∧
        (∀ j, j < off / 4 ∨ off / 4 + n / 4 ≤ j → SMap.get false e.fe j = SMap.get false d.fe j)) ∧
    (s.atBody .cpe .cpl q o u r → ∃ w : State, exec .cpl s = .next (w.afterBody o r (time w) { r with spans := [(va, n)] }) ∧ w.ctx = u.ctx) ∧
    (s.atBody .cpe .cpz q o u r → u.spadFault sp n = none → SMap.wf 0 u.ctx.spad = true →
      ∃ w : State, exec .cpz s = .next (w.afterBody o r (time w) r) ∧ u.engineOnly w ∧ w.ctx.fe = u.ctx.fe ∧ w.ctx.tiles = u.ctx.tiles ∧
        (∀ i < n, w.ctx.spadAt (sp + i) = 0) ∧ ∀ o, o < sp ∨ sp + n ≤ o → w.ctx.spadAt o = u.ctx.spadAt o) ∧
    (u.barrierOf q = .ok (b, bar) →
    (s.atBody .cpe .cpy q o u r → room sp n →
      (if out then b.engWrite va (cpyRh st) (b.getSpad sp n) else b.copyIn st va sp n) = .ok v () →
      exec .cpy s = .next (v.afterBody o r (time v) { arrive n r with watch := b.copyWatch out va n, spans := [(va, n)] })) ∧
    (∀ (pa : Nat) (l : List Word),
      s.atBody .cpe .cpyPm q o u r → room sp n → b.resolveHandle (fbits st 5 6 2) = some (pa, l) → va % 4096 = 0 →
      goList (fun s p _ => if out then s.pmOut st l sp p else s.pmIn st l sp p) b (blockParts va n) () = .ok v () →
      exec .cpyPm s = .next (v.afterBody o r (time v) { arrive n r with watch := b.copyWatch out va n, spans := copySpans l va n })) ∧
    (∀ (pa : Nat) (l : List Word) (x : Quant),
      let len := n / 4096 * perBlock (recCur l).fmt.toNat * (fmtWidth (fbits st 8 3 0) / 8)
      s.atBody .cpe .cpyCv q o u r → out = true → b.resolveHandle (fbits st 5 6 2) = some (pa, l) → va % 4096 = 0 → n % 4096 = 0 →
      b.spadFault sp len = none → b.spadBad [(sp, len)] = none →
      goList (fun s i a => s.cvOutBlock st (RMode.ofCode q.rmode.toNat) l sp i (va + 4096 * i) a) b (List.range (n / 4096))
        Quant.empty = .ok v x →
      ∃ y, exec .cpyCv s = .next (v.afterBody o r (time v) y) ∧
        y = { r with bbar := y.bbar, flags := y.flags, contrib := y.contrib, watch := y.watch, spans := y.spans, fault := y.fault } ∧
        y.bbar = (arrive n r).bbar ∧ y.flags = x.flags ∧ y.spans = cvOutArr l va n ++ copySpans l va n ∧
        y.contrib = some (x.contrib b.ctx.id pa) ∧
        (y.fault.isSome = true ↔ ∃ tol, b.tolerance l = some tol ∧ tol < x.sat)) ∧
    (∀ (pa : Nat) (l : List Word) (t : State) (es : List ((Nat × Nat × Nat) × ScaleEnt)) (a : CvAcc),
      s.atBody .cpe .cpyCv q o u r → out = false → b.resolveHandle (fbits st 5 6 2) = some (pa, l) →
      b.cvEntries st l va n = .ok t es →
      t.spadFault sp (es.foldl (fun m e => m + cvCount e.2.fmt.toNat e.1.2.1 * (fmtWidth (fbits st 8 3 0) / 8)) 0) = none →
      goList (fun s e a => s.cvInBlock st (RMode.ofCode q.rmode.toNat) l e a) t es { at_ := sp, flags := 0, arr := [] } = .ok v a →
      ∃ y, exec .cpyCv s = .next (v.afterBody o r (time v) y) ∧
        y = { r with bbar := y.bbar, flags := y.flags, contrib := y.contrib, watch := y.watch, spans := y.spans, fault := y.fault } ∧
        y.bbar = (arrive n r).bbar ∧ y.flags = a.flags ∧ y.spans = a.arr ++ copySpans l va n ∧
        (y.fault = if a.flags &&& fSINV ≠ 0 then some (.scaleInv, 0) else none)) ∧
    (let size := elemSize st
      let m := fieldOf st 4 * size
      let ix := 32 * fieldOf st 8
      let moved (move : State → Nat → Nat → Go Unit) (as_ : List Nat) : Prop :=
        goList (fun s i done =>
          let a := s.elemAddr q i
          if a % size ≠ 0 then .stop s .misalign (BitVec.ofNat 64 a)
          else (move s i a).bind (fun s _ => .ok s (done ++ [a]))) b (List.range (fieldOf st 4)) [] = .ok v as_
      let ended (out : Bool) (as_ : List Nat) : Running :=
        { arrive m r with watch := as_.findSome? (fun a => b.copyWatch out a size), spans := as_.map (fun a => (a, size)) }
      ∀ as_ : List Nat, b.spadFault sp m = none → b.spadFault ix (4 * fieldOf st 4) = none →
      (s.atBody .cpe .cpg q o u r → b.spadBad [(ix, 4 * fieldOf st 4)] = none →
        moved (fun s i a => (s.engRead a size (cpySb st) (cpyRh st)).bind (fun s bs => .ok (s.putSpad (sp + i * size) bs) ())) as_ →
        exec .cpg s = .next (v.afterBody o r (time v) (ended false as_))) ∧
      (s.atBody .cpe .cps q o u r → b.spadBad [(ix, 4 * fieldOf st 4), (sp, m)] = none →
        moved (fun s i a => s.engWrite a (cpyRh st) (s.getSpad (sp + i * size) size)) as_ →
        exec .cps s = .next (v.afterBody o r (time v) (ended true as_)))))

/-- Completion (R161, R164), where a byte barrier in error or a ready flag that cannot be written faults (R176, R185), a guard's discard (R72), the arbiter (R278) and the end of a cycle (R18, R336). -/
def Obligations.EngineTurns : Prop :=
  ∀ (s : State) (e : Engine) (d : BitVec 2),
    (∀ r : Running,
      let last (x : Running) : Bool := x.begun && x.input == 0 && x.left == 1 &&
        (match x.strm with | some (_, bs) => decide (bs.length ≤ x.gone) | none => true)
      (s.plate.running.get e.num).find? last = some r → (s.ctxOf r.ctx).isSome = true → engineOf r.ent.stencil = e →
      let f := (s.focus r.ctx).bump
      (f.barrierBad r = false → f.flagFault r = none → r.mis = none → r.watch = none →
        ∃ t, exec (.commandCompletion e) s = .next t ∧ t.ctx.id = f.ctx.id ∧ t.ctx.ecount = f.ctx.ecount + 1 ∧ t.ctx.latch = true ∧
          t.ctx.life = f.ctx.life ∧ t.ctx.x = f.ctx.x ∧ t.cycle = f.cycle ∧
          (∀ y ∈ t.plate.running.get e.num, y.ent = r.ent → y.ctx = r.ctx → y.left = 0 ∧ y.units = 0) ∧
          (∀ c a, r.fault = some (c, a) → t.ctx.held.get e.num =
            some { cause := c, addr := a, ent := r.ent, after := true, at_ := f.cycle, delivered := false }) ∧
          (r.fault = none → t.ctx.held = f.ctx.held)) ∧
      (∀ c a, (f.barrierBad r = true ∧ c = .eccUncorr ∧ a = r.ent.regb) ∨ (f.barrierBad r = false ∧ f.flagFault r = some (c, a)) →
        ∃ t, exec (.commandCompletion e) s = .next t ∧ t.ctx.ecount = f.ctx.ecount ∧ t.mem = f.mem ∧ t.ctx.held.get e.num =
          some { cause := c, addr := a, ent := r.ent, after := false, at_ := f.cycle, delivered := false })) ∧
    (∀ c q, s.doomed e = some (c, q) →
      let f := s.focus c.id
      ∃ t, exec (.guardDiscard e) s = .next t ∧ t.ctx.queues.get e.num = (f.ctx.queues.get e.num).tail ∧ t.ctx.latch = true ∧
        t.ctx.ecount = f.ctx.ecount ∧ t.ctx.x = f.ctx.x ∧ t.ctx.spad = f.ctx.spad) ∧
    (let order := (s.die d.toNat).askOrder
      let asks := order.flatMap s.asksOf
      ∃ t, exec (.powerGrant d) s = .next t ∧ (t.die d.toNat).budget = (s.die d.toNat).budget ∧
        (s.die d.toNat).units ≤ (t.die d.toNat).units ∧ (t.die d.toNat).units ≤ max (s.die d.toNat).units (s.die d.toNat).budget ∧
        t.mem = s.mem ∧
        (asks = [] → (t.die d.toNat).units = (s.die d.toNat).units) ∧
        (∀ a, asks = [a] → (s.die d.toNat).fits s.cycle a.units = true →
          (t.die d.toNat).units = (s.die d.toNat).units + a.units ∧ (t.die d.toNat).lastPlate = some a.plate)) ∧
    (let n := (s.die d.toNat).returnable s.cycle
      ∃ t, exec (.unitReturn d) s = .next t ∧ (t.die d.toNat).units = (s.die d.toNat).units - n ∧
        (t.die d.toNat).deferred = (s.die d.toNat).deferred - n ∧ t = { s with dies := t.dies }) ∧
    ∃ t, exec .cycleCharge s = .next t ∧ t.cycle = s.cycle + 1 ∧ t.phase = .manage 0 ∧
      (t.ctx.id ≠ 0 → t.ctx.newNext = Quad.all [] ∧ t.ctx.newPrev = Quad.all []) ∧
      (t.plate.bound.isSome = true → ∀ r ∈ t.plate.running.get e.num, r.left ≠ 0) ∧
      ∀ r, (s.die d.toNat).step = some r → (t.die d.toNat).step = some { r with wait := r.wait - 1 }

/-! ### Messages between dies and devices (11) -/

/-- The home directory's messages (R298 to R300) and the pushes of STALL regions (R290): each takes the oldest of its channel,
does what its row says and answers. A request for a busy line waits in its slice's queue, or on the link once 64 wait there; while a
step copies the slice it stays where it is (R273); an ACK waits for the answers to the INVs of its transaction (R299). -/
def Obligations.CoherenceMessages : Prop :=
  ∀ (a h : BitVec 2) (r : BitVec 8) (s : State), a ≠ h → s.memWf → rising s.net → rising s.writers → SMap.wf none s.ctxs = true →
    let i := a.toNat
    let j := h.toNat
    let on (u : State) (x y ch : Nat) : List Msg := (u.msgs x y).filter (fun m => m.chan == ch)
    let taken (m : Msg) (t : State) : Prop :=
      on t i j m.chan = (on s i j m.chan).erase m ∧ t.ctx = s.ctx ∧ t.plate = s.plate ∧ ∀ ch, ch ≠ m.chan → on t i j ch = on s i j ch
    let step (row : Instr) (m : Msg) (answer : List Msg) (more : State → Prop) : Prop :=
      ∃ t, exec row s = .next t ∧ taken m t ∧ (∀ ch, on t j i ch = on s j i ch ++ answer.filter (fun m => m.chan == ch)) ∧ more t
    let served (q : Bool) (m : Msg) (t : State) : Prop :=
      t.ctx = s.ctx ∧ t.plate = s.plate ∧
      if q then (t.die j).waitq = (s.die j).waitq.erase (i, m) ∧ on t i j 0 = on s i j 0
      else (t.die j).waitq = (s.die j).waitq ∧ on t i j 0 = (on s i j 0).erase m
    let request (row : Instr) (m : Msg) (effect : State → Prop) : Prop :=
      ∀ q, s.request i j = some (q, m) → homeDie (m.line * 128) = j →
        (s.sliceCopied j m.line = true ∨ q = false ∧ s.mustWait j m.line = true ∧ (s.die j).sliceFull m.line = true →
          exec row s = .next s) ∧
        (s.sliceCopied j m.line = false → q = false → s.mustWait j m.line = true → (s.die j).sliceFull m.line = false →
          ∃ t, exec row s = .next t ∧ taken m t ∧ (t.die j).waitq = (s.die j).waitq ++ [(i, m)] ∧ t.mem = s.mem) ∧
        (s.sliceCopied j m.line = false → q = true ∨ s.mustWait j m.line = false →
          ∃ t, exec row s = .next t ∧ served q m t ∧ effect t)
    let others (line : Nat) : Prop := ∃ d < 4, (s.sharers line).getLsbD d = true ∧ d ≠ j
    let recalled (t : State) (line : Nat) : Prop :=
      t.sharers line = 0 ∧ ∀ d < 4, (s.sharers line).getLsbD d = true → d ≠ j → .inv line ∈ t.msgs j d
    let acked (t : State) (m : Msg) : Prop :=
      (¬ others m.line → on t j i 2 = on s j i 2 ++ [m]) ∧
      (others m.line → on t j i 2 = on s j i 2 ∧ ∃ e ∈ (t.die j).dir, e.line = m.line ∧ (i, m) ∈ e.owed)
    let keeps (t : State) : Prop := s.spares t (fun _ => False)
    (∀ line hint region, request (.rd a h) (.rd line hint region) (fun t => keeps t ∧
      ((∃ e ∈ (t.die j).l2, e.line = line) →
        t.sharers line = s.sharers line ||| BitVec.ofNat 4 (2 ^ i) ∧ on t j i 2 = on s j i 2 ++ [.data line hint region]) ∧
      ((∀ e ∈ (t.die j).l2, e.line ≠ line) →
        t.sharers line = s.sharers line ∧ on t j i 2 = on s j i 2 ++ [.data line 3 region]))) ∧
    (∀ line data mask poison plate region,
      request (.wr a h) (.wr line data mask poison plate region false) (fun t => recalled t line ∧ acked t (.ack line none) ∧
        (∀ pa, (∀ b < 128, mask.getLsbD b = true → pa ≠ line * 128 + b) → t.byteAt pa = s.byteAt pa) ∧
        ∀ b < 128, mask.getLsbD b = true →
          let held := SMap.get 0 s.writers (line * 128 + b)
          t.byteAt (line * 128 + b) =
            if plate < 512 ∧ held ≠ 0 ∧ held / 1024 = s.effRegion region ∧ plate + 1 < held % 1024 then s.byteAt (line * 128 + b)
            else lineByte data b) ∧
      request (.wr a h) (.wr line data mask poison plate region true) (fun t =>
        t.mem = s.mem ∧ on t j i 2 = on s j i 2 ++ [.ack line none])) ∧
    (∀ addr op x e region who,
      let w := (atomicOp op).1
      let reach := if op = 0 ∧ addr % 16 = 0 ∧ addr ∈ s.barriers then 16 else w
      addr % w = 0 →
      request (.atMsg a h) (.atom addr op x e region who none) (fun t =>
        let reply : Msg := .ack (addr / 128) (some (who, s.memNat addr w))
        (isCarved addr = false → acked t reply ∧ recalled t (addr / 128)) ∧
        (isCarved addr = true → on t j i 2 = on s j i 2 ++ [reply]) ∧
        t.memNat addr w = (if s.poisoned addr then s.memNat addr w else (atomicOp op).2 x e (s.memNat addr w) w % 256 ^ w) ∧
        s.spares t (fun pa => addr ≤ pa ∧ pa < addr + reach)) ∧
      ∀ v, request (.atMsg a h) (.atom addr op x e region who (some v)) (fun t =>
        t.mem = s.mem ∧ on t j i 2 = on s j i 2 ++ [.ack (addr / 128) (some (who, v))])) ∧
    (∀ line, s.oldest i j 1 = some (.inv line) →
      step (.inv a h) (.inv line) [if s.rdOut j line then .conflict line else .ack line none] (fun t => t.mem = s.mem ∧
        (∀ e ∈ (t.die j).l2, e.line = line → e.swm = true) ∧
        ∀ e ∈ (s.die j).l2, e.line ≠ line ∨ e.swm = true → e ∈ (t.die j).l2)) ∧
    (∀ line hint region, s.oldest i j 2 = some (.data line hint region) →
      ∃ t, exec (.dataMsg a h) s = .next t ∧ taken (.data line hint region) t ∧ keeps t ∧
        (hint = 3 ∨ (∃ e ∈ (s.die j).l2, e.line = line) → (t.die j).l2 = (s.die j).l2) ∧
        (hint ≠ 3 → (∀ e ∈ (s.die j).l2, e.line ≠ line) →
          ((s.die j).l2Victim line = none ∧ (t.die j).l2 = (s.die j).l2) ∨
          ∃ e ∈ (t.die j).l2, e.line = line ∧ e.swm = false ∧ e.dirty = 0 ∧ e.rrpv = rrpvOf hint)) ∧
    (∀ line old, s.oldest i j 2 = some (.ack line old) →
      ∃ t, exec (.ack a h) s = .next t ∧ t.mem = s.mem ∧ on t i j 2 = (on s i j 2).erase (.ack line old) ∧
        (∀ who v c, old = some (who, v) → s.ctxOf who.1 = some c → c.id = who.1 → ∃ c', t.ctxOf who.1 = some c' ∧
          c'.flight = c.flight.map (fun f => if f.wait && f.tag == who.2 then f.reply v else f)) ∧
        (old = none → t.ctx = s.ctx ∧
          let u := s.takeMsg i j (.ack line none)
          (homeDie (line * 128) ≠ j ∨ u.lineBusy line = true → t = u) ∧
          (homeDie (line * 128) = j → u.lineBusy line = false → ∀ e, (s.die j).dir.find? (fun e => e.line == line) = some e →
            ∀ o ∈ e.owed, o.1 < 4 → o.1 ≠ j → o.2 ∈ t.msgs j o.1))) ∧
    (∀ line, s.oldest i j 2 = some (.conflict line) →
      (∀ l hint region, s.rdWaits i j line = some (.rd l hint region) →
        ∃ t, exec (.conflict a h) s = .next t ∧ .retry line hint region ∈ t.msgs j i ∧ t.mem = s.mem ∧ t.ctx = s.ctx ∧
          on t i j 2 = (on s i j 2).erase (.conflict line) ∧
          ((s.msgs i j).count (.rd line hint region) + (s.die j).waitq.count (i, .rd line hint region) ≤ 1 →
            .rd line hint region ∉ t.msgs i j ∧ (i, .rd line hint region) ∉ (t.die j).waitq)) ∧
      (s.rdWaits i j line = none → (∃ hint region, .data line hint region ∈ s.msgs j i) → exec (.conflict a h) s = .next s) ∧
      (s.rdWaits i j line = none → (∀ hint region, .data line hint region ∉ s.msgs j i) →
        step (.conflict a h) (.conflict line) [.inv line] (fun t => t.mem = s.mem))) ∧
    (∀ line hint region, s.oldest i j 2 = some (.retry line hint region) →
      step (.retry a h) (.retry line hint region) [.rd line hint region] (fun t => t.mem = s.mem)) ∧
    ∀ n lines, s.pushes.find? (fun p => p.1 == r.toNat) = some (r.toNat, n, lines) →
      ∃ t, exec (.regionPush r) s = .next t ∧ t.pushes = s.pushes.erase (r.toNat, n, lines) ∧ t.mem = s.mem ∧ t.ctx = s.ctx ∧
        ∀ l ∈ s.plate.l1, l.typ = 0 → s.effRegion l.region = r.toNat →
          ∃ l' ∈ t.plate.l1, l'.line = l.line ∧ l'.stamp = (if l.marked then newer n l.stamp else n) ∧ l'.dirty = l.dirty ∧
            (l'.marked = true ↔ l.marked = true ∧ (newer n l.stamp ≠ n ∨ n = l.stamp)) ∧
            ∀ b < 128, lineByte l'.data b =
              if l.line ∈ lines ∧ l.dirty.getLsbD b = false then s.byteAt (l.line * 128 + b) else lineByte l.data b

/-- The links (R301 to R305, R360, R362): which flits a port takes, what each kind does at its target, what STOP, GO and REPLAY
do, when a port goes down, and when the root completes a boundary. A flit for another device is sent on; what STOP holds waits at
its sender. -/
def Obligations.FabricFlits : Prop :=
  ∀ (port : BitVec 4) (f : Flit) (vc : BitVec 2) (seq : BitVec 8) (dom : BitVec 10) (s : State),
    s.memWf → rising s.ports → rising s.fat → rising s.writers → rising s.net →
    let p := port.toNat
    let die := p / 4
    let q := s.portOf p
    let e := s.fatOf f.fae.toNat
    let n := f.len.toNat
    let bs := f.payload.take n
    let sentOn (t : State) (g : Flit) : Prop :=
      let m := s.portOf (Config.portOf g.dstdev).toNat
      let u := t.portOf (Config.portOf g.dstdev).toNat
      let stops := m.stopped.getLsbD g.vc.toNat = true ∨ m.wait.get g.vc.toNat ≠ []
      (m.down = false → ¬ stops → ∃ x ∈ u.out, x = { g with seq := x.seq, crc := x.crc } ∧ x.crc = crcOf x) ∧
      (m.down = false → stops → g ∈ u.wait.get g.vc.toNat)
    let replied (t : State) (bytes : List Byte) : Prop :=
      ∃ g : Flit, sentOn t g ∧ g.kind = 4 ∧ g.vc = 2 ∧ g.dstdev = f.srcdev ∧ g.srcdev = s.devId ∧ g.payload = bytes
    let apart (d : BitVec 10) : Prop := ∀ x ∈ s.domains, ∀ y, x.2 = some y → y.parent = some d → BitVec.ofNat 10 x.1 ≠ d
    let takes (i : Instr) (g : Flit) (effect : State → Prop) : Prop :=
      (q.down = true → exec i s = .next s) ∧
      (q.down = false → g.crc ≠ crcOf g → ∃ t, exec i s = .next t ∧ t = { s with ports := t.ports } ∧
        t.portOf p = { q with fails := q.fails + 1, wants := some f.seq }) ∧
      (q.down = false → g.crc = crcOf g → f.seq ≠ q.rxSeq → exec i s = .next s) ∧
      (q.down = false → g.crc = crcOf g → f.seq = q.rxSeq → 8 ≤ (q.skid.get f.vc.toNat).length →
        ∃ t, exec i s = .next t ∧ t = { s with ports := t.ports } ∧ t.portOf p = { q with wants := some f.seq }) ∧
      (q.down = false → g.crc = crcOf g → f.seq = q.rxSeq → (∀ m v, (s.portOf m).skid.get v = []) →
        ∃ t, exec i s = .next t ∧ (t.portOf p).rxSeq = q.rxSeq + 1 ∧ (t.portOf p).fails = 0 ∧
          (s.heldFlit p g = true → (t.portOf p).skid.get f.vc.toNat = [g] ∧ t.mem = s.mem ∧ t.ctx = s.ctx) ∧
          (s.heldFlit p g = false → effect t))
    let row (i : Instr) (kind : BitVec 3) (effect : Flit → State → Prop) : Prop :=
      let g := { f with kind := kind }
      takes i g (fun t =>
        (f.dstdev ≠ s.devId → sentOn t g ∧ t.mem = s.mem ∧ t.ctx = s.ctx) ∧
        (f.dstdev = s.devId → f.srcdev ∈ q.frozen → f.vc ≠ 0 → kind ≠ 6 → replied t (Config.replyBytes 5) ∧ t.mem = s.mem) ∧
        (f.dstdev = s.devId → f.srcdev ∉ q.frozen ∨ f.vc = 0 ∨ kind = 6 → effect g t))
    let aimed (g : Flit) (t : State) (effect : Option Nat → Prop) : Prop :=
      (e.dev f.gen = s.devId → effect (s.fabricPa f.fae.toNat f.gen (f.off.toNat * 16) n)) ∧
      (e.dev f.gen ≠ s.devId → e.dev e.cur = s.devId → effect (s.fabricPa f.fae.toNat e.cur (f.off.toNat * 16) n)) ∧
      (e.dev f.gen ≠ s.devId → e.dev e.cur ≠ s.devId → sentOn t { g with dstdev := e.dev e.cur, gen := e.cur } ∧ t.mem = s.mem)
    let written (t : State) (effect : Nat → Prop) : Option Nat → Prop := fun x => match x with
      | none => replied t (Config.replyBytes 4) ∧ t.mem = s.mem
      | some pa =>
        (statusPlace pa = true → replied t (Config.replyBytes 5) ∧ f.srcdev ∈ (t.portOf p).frozen ∧ t.mem = s.mem) ∧
        (statusPlace pa = false → plainPlace pa = false ∨ (s.beyond pa n).isSome = true →
          replied t (Config.replyBytes 4) ∧ t.mem = s.mem) ∧
        (plainPlace pa = true → (s.beyond pa n).isSome = false → effect pa)
    let acked (t : State) : Prop := f.last = true → replied t (Config.replyBytes 0)
    row (.write port f) 1 (fun g t => aimed g t (written t (fun pa => acked t ∧
      (∀ a, pa ≤ a → a < pa + bs.length →
        (homeDie (a / 128 * 128) = die → t.byteAt a = bs.getD (a - pa) 0) ∧
        (homeDie (a / 128 * 128) ≠ die → t.byteAt a = s.byteAt a ∧ ∃ m ∈ t.msgs die (homeDie (a / 128 * 128)), m.covers a = true)) ∧
      ∀ a, a < pa ∨ pa + bs.length ≤ a → t.byteAt a = s.byteAt a))) ∧
    row (.reduce port f) 2 (fun g t => aimed g t (written t (fun pa =>
      let w := fmtWidth f.fmt.toNat / 8
      let xs := splitElems w bs
      let u := s.settle die (spanLine pa bs.length)
      (s.anyPoison pa n = true → replied t (Config.replyBytes 4) ∧ t.mem = s.mem) ∧
      (s.anyPoison pa n = false → acked t ∧ (0 < w → (∀ a, pa ≤ a → a < pa + xs.length * w → u.owed a = false) →
        (∀ i < xs.length, t.memNat (pa + i * w) w =
          combine f.rop f.fmt.toNat (u.memNat (pa + i * w) w) (xs.getD i 0) % 256 ^ w) ∧
        u.spares t (fun a => pa ≤ a ∧ a < pa + xs.length * w)))))) ∧
    row (.readRequest port f) 3 (fun g t => aimed g t (fun x => match x with
      | none => replied t (Config.replyBytes 4) ∧ t.mem = s.mem
      | some pa =>
        let u := s.settle die (spanLine pa n)
        if (plainPlace pa = true ∨ statusPlace pa = true) ∧ (s.beyond pa n).isNone = true ∧ s.anyPoison pa n = false then
          replied t (toBytes n (u.physNat pa n)) ∧ t.mem = u.mem
        else replied t (Config.replyBytes 4) ∧ t.mem = s.mem)) ∧
    row (.readReply port f) 4 (fun g t => t.mem = s.mem ∧ t.ctx = s.ctx ∧ t.fires = answerFires g s.fires) ∧
    row (.control port f) 5 (fun _ t =>
      let said (m : TreeMsg) : Prop := Config.treeMsg f.payload = some m
      let left (d : BitVec 10) (v : Domain) (w : Domain) : Prop :=
        t.domain d = some w ∧ w.arrived = [] ∧ w.kids = [] ∧ w.due = false ∧ w.members = v.members ++ v.joins
      (Config.treeMsg f.payload = none → t.mem = s.mem ∧ t.domains = s.domains) ∧
      (∀ d dev pl id v, said (.arrive d dev pl id) → s.domain d = some v →
        t.domain d = some { v with farIn := v.farIn ++ [(dev, pl, id)] }) ∧
      (∀ d dev pl id v, said (.join d dev pl id) → s.domain d = some v → ∃ w, t.domain d = some w ∧ w.count = v.count ∧
        (s.emptyDomain d v = true → w.far = [(dev, pl, id)] ∧ w.farJoin = v.farJoin) ∧
        (s.emptyDomain d v = false → w.far = v.far ∧ w.farJoin = v.farJoin ++ [(dev, pl, id)])) ∧
      (∀ d dev pl id v, said (.withdraw d dev pl id) → s.domain d = some v →
        let other (x : Rank) : Bool := !(x.1 == dev && x.2.2 == id)
        ∃ w, t.domain d = some w ∧ w.far = v.far.filter other ∧
          ((∃ x ∈ v.far, x.1 = dev ∧ x.2.2 = id) → w.farJoin = v.farJoin) ∧
          ((∀ x ∈ v.far, x.1 = dev → x.2.2 ≠ id) → w.farJoin = v.farJoin.filter other)) ∧
      (∀ d c v, said (.complete d c) → s.domain d = some v →
        ∃ w, left d v w ∧ w.count = c ∧ w.goal = c ∧ w.told = s.cycle ∧ w.joint = false) ∧
      (∀ d c v, said (.completeJoint d c) → s.domain d = some v → apart d → ∃ w, left d v w ∧ w.count = c ∧ w.goal = v.goal ∧ w.joint = true) ∧
      (∀ d v, said (.release d) → s.domain d = some v →
        t.domain d = some { v with goal := v.count, told := s.cycle, joint := false }) ∧
      (∀ g key who fmt x, said (.propose g key who fmt x) →
        t.props = s.props ++ [{ group := g, key := key, who := who, fmt := fmt, e := x }]) ∧
      (∀ g key who els, said (.share g key who els) →
        t.farShares = s.farShares ++ [{ group := g, key := key, who := who, els := els }]) ∧
      (∀ k, said (.settle k) → (t.fatOf k.toNat).arm = false ∧ (t.fatOf k.toNat).fwd = false)) ∧
    row (.flipMarker port f) 6 (fun g t =>
      (e.dev f.gen = s.devId →
        ((f.srcdev, f.vc) ∈ (t.fatOf f.fae.toNat).marks ∨ (t.fatOf f.fae.toNat).arm = false ∧ (t.fatOf f.fae.toNat).fwd = false)) ∧
      (e.dev f.gen ≠ s.devId → sentOn t { g with dstdev := e.dev f.gen } ∧ t.fat = s.fat)) ∧
    takes (.link port f) { f with kind := 7 } (fun t => t.mem = s.mem ∧ t.ctx = s.ctx) ∧
    (let one (i : Instr) (b : Bool) (more : State → Prop) : Prop :=
      ∃ t, exec i s = .next t ∧ t = { s with ports := t.ports } ∧ (t.portOf p).stopped.getLsbD vc.toNat = b ∧
        (∀ v < 4, v ≠ vc.toNat → (t.portOf p).stopped.getLsbD v = q.stopped.getLsbD v) ∧ (∀ m, m ≠ p → t.portOf m = s.portOf m) ∧
        more t;
      let bare (l : List Flit) : List Flit := l.map (fun x => { x with seq := 0, crc := 0 })
      one (.stop port vc) true (fun t => (t.portOf p).out = q.out ∧ (t.portOf p).wait = q.wait) ∧
      one (.go port vc) false (fun t => q.down = false → (∀ x ∈ q.wait.get vc.toNat, x.vc = vc) →
        (t.portOf p).wait.get vc.toNat = [] ∧
        ∃ sent, (t.portOf p).out = q.out ++ sent ∧ bare sent = bare (q.wait.get vc.toNat) ∧ ∀ x ∈ sent, x.crc = crcOf x)) ∧
    (∃ t, exec (.replay port seq) s = .next t ∧ t = { s with ports := t.ports } ∧
      (q.down = true → t.portOf p = q) ∧
      (q.down = false → ∃ before again, q.replay = before ++ again ∧ (∀ x ∈ before, x.seq ≠ seq) ∧
        (∀ x xs, again = x :: xs → x.seq = seq) ∧ (t.portOf p).out = q.out ++ again)) ∧
    (q.down = false → 8 ≤ q.fails →
      ∃ t, exec (.linkDown port) s = .next t ∧ (t.portOf p).down = true ∧ (t.portOf p).replay = [] ∧ (t.portOf p).out = [] ∧
        t.logged die 9 2 0 (BitVec.ofNat 64 p) ∧ t.mem = s.mem ∧ t.colls.length = s.colls.length ∧
        (∀ c ∈ s.colls, s.usesPort p c = true → c.past = false → { c with code := some 3, held := [] } ∈ t.colls) ∧
        ∀ x ∈ s.fires, x.sent = true → x.code = 0 → (∃ v ∈ x.await, (Config.portOf v).toNat = p) →
          ∃ y ∈ t.fires, y = { x with code := 3, await := y.await } ∧ ∀ v ∈ y.await, (Config.portOf v).toNat ≠ p) ∧
    (q.down = true ∨ q.fails < 8 → exec (.linkDown port) s = .next s) ∧
    (∀ v, s.domain dom = some v → s.boundaryDue dom = true → rising s.regions →
      let joint := ∃ k, v.parent = some k ∧ (v.count + 1).toNat % v.k = 0
      ∃ t w, exec (.boundaryComplete dom) s = .next t ∧ t.domain dom = some w ∧ w.count = v.count + 1 ∧ w.arrived = [] ∧
        w.members = v.members ++ v.joins ∧ (¬ joint → w.goal = v.count + 1 ∧ w.told = s.cycle ∧ w.joint = false) ∧
        (joint → apart dom → w.goal = v.goal ∧ w.joint = true) ∧ (t.region 0).round = (s.region 0).round + 1) ∧
    (s.boundaryDue dom = false → exec (.boundaryComplete dom) s = .next s)

/-! ### Bundles, joins and the ends of waits (04, 06, 09) -/

/-- BUNDLE_ISSUE (R53, R54, R387): four words that can all issue take effect together and the strands move on, or split at
SY = 0 of slot 0; a word that cannot issue holds its bundle, and so do banks, ports and register-cache lines that it waits for (R66,
R67, R269); a before-effect fault leaves the bundle without effect, an after-effect fault comes with it; where a word waits the others
are past (R194). -/
def Obligations.BundleIssue : Prop :=
  ∀ s : State, s.inLockstep = true →
    let pc := (s.strand .c).pc
    (pc.toNat % 16 ≠ 0 → s.canTrap →
      ∃ f t : State, exec .bundleIssue s = .next t ∧ f.tookTrap t .misalign .c pc pc 0 ∧ f.ctx.x = s.ctx.x ∧
        f.ctx.strands = s.ctx.strands) ∧
    (pc.toNat % 16 = 0 → s.bump.fetchBundle [.c, .l, .x, .s] [] = .error none →
      ∃ t, exec .bundleIssue s = .next t ∧ t.ctx.strands = s.ctx.strands ∧ t.ctx.x = s.ctx.x ∧ t.mem = s.mem) ∧
    (∀ c a, pc.toNat % 16 = 0 → s.bump.fetchBundle [.c, .l, .x, .s] [] = .error (some (c, a)) → c ≠ .prot → s.canTrap →
      ∃ f t : State, exec .bundleIssue s = .next t ∧ f.tookTrap t c .c pc a 0 ∧ f.ctx.x = s.ctx.x) ∧
    ∀ (u r : State) (ws : List SlotWord) (es : List SlotEnd), pc.toNat % 16 = 0 →
      s.bump.fetchBundle [.c, .l, .x, .s] [] = .ok (u, ws) →
      let o := { u with window := u.ctx.p }
      let fresh := ∀ k : Strand, (u.strand k).mark = false ∧ (u.strand k).past = false
      ({ o with bundle := true }).runSlots ws (slotOrder (slotOf ws .s).instr) [] = (r, es) →
      (∀ k c a w, faultOf es false = some (k, c, a, w) → c ≠ .prot → u.canTrap →
        ∃ f t : State, exec .bundleIssue s = .next t ∧ f.tookTrap t c k (u.addrOf k) a w ∧ f.ctx.x = u.ctx.x ∧
          f.ctx.lines = u.ctx.lines ∧ f.mem = u.mem ∧ t.ctx.spad = u.ctx.spad ∧
          (u.ctx.flight = [] → t.ctx.x = u.ctx.x ∧ t.ctx.lines = u.ctx.lines)) ∧
      (faultOf es false = none → stallsOf es ≠ [] →
        ∃ t, exec .bundleIssue s = .next t ∧ (∀ j : Strand, (t.strand j).pc = (u.strand j).pc ∧ (t.strand j).b = (u.strand j).b) ∧
          t.ctx.x = u.ctx.x ∧ t.ctx.p = u.ctx.p ∧ t.ctx.lines = u.ctx.lines ∧ t.ctx.spad = u.ctx.spad ∧
          t.ctx.tokNext = u.ctx.tokNext ∧ t.ctx.tokPrev = u.ctx.tokPrev ∧ t.mem = u.mem) ∧
      (faultOf es false = none → stallsOf es = [] → fresh → ∀ c v, o.groupWait (groupOf ws) = some (c, v) →
        ∃ t, exec .bundleIssue s = .next t ∧ (∀ j : Strand, (t.strand j).pc = (u.strand j).pc ∧ (t.strand j).b = (u.strand j).b) ∧
          t.ctx.x = u.ctx.x ∧ t.ctx.p = u.ctx.p ∧ t.ctx.lines = u.ctx.lines ∧ t.ctx.spad = u.ctx.spad ∧
          t.ctx.tokNext = u.ctx.tokNext ∧ t.ctx.tokPrev = u.ctx.tokPrev ∧ t.ctx.hold = v.ctx.hold ∧ t.ctx.holdFor = c ∧
          ∀ j : Strand, t.ctx.slots.get j.num = c) ∧
      (faultOf es false = none → stallsOf es = [] → (fresh → o.groupWait (groupOf ws) = none) →
        (waitsOf es ≠ [] → holdsOthers es = false →
          ∃ t, exec .bundleIssue s = .next t ∧ (∀ j : Strand, (t.strand j).pc = (u.strand j).pc) ∧
            t.ctx.x = r.ctx.x ∧ t.ctx.lines = r.ctx.lines ∧ t.ctx.spad = r.ctx.spad ∧ t.mem = r.mem ∧
            ∀ e ∈ es, (t.strand e.1).past = true ∨ e.1 ∈ (waitsOf es).map (fun w => w.1)) ∧
        (waitsOf es = [] → leaveOf es = none → ∀ k c a w, faultOf es true = some (k, c, a, w) → c ≠ .prot → r.canTrap →
          ∃ f t : State, exec .bundleIssue s = .next t ∧ f.ctx.x = r.ctx.x ∧ f.ctx.lines = r.ctx.lines ∧ f.mem = r.mem ∧
            f.tookTrap t c k (if c.namesNext then (f.strand k).pc else u.addrOf k) a w) ∧
        (waitsOf es = [] → leaveOf es = none → faultOf es true = none →
          let n := nextPc (r.strand .c).pc 16 (r.strand .c).xfer (jumpOf es)
          ∃ t : State, exec .bundleIssue s = .next t ∧
            t = { r with bundle := false, event := .none, window := [], ctx := t.ctx, plate := t.plate, ctxs := t.ctxs } ∧
            ((∀ e ∈ r.ctxs, ∀ c, e.2 = some c → c.id.toNat = e.1) → ∀ n,
              (SMap.get none t.ctxs n).map (fun c => { c with backing := [] }) =
                (SMap.get none r.ctxs n).map (fun c => { c with backing := [] })) ∧
            t.plate = { r.plate with rcache := t.plate.rcache, wq := t.plate.wq } ∧
            t.ctx.x = r.ctx.x ∧ r.ctx.sameP t.ctx ∧ r.ctx.sameV t.ctx ∧ r.ctx.sameB t.ctx ∧ t.ctx.spad = r.ctx.spad ∧
            t.ctx.csr = r.ctx.csr ∧ t.ctx.lockstep = (slotOf ws .c).bits.getLsbD 21 ∧
            ((slotOf ws .c).bits.getLsbD 21 = true → (t.strand .c).xfer = n.2 ∧ ∀ j : Strand, (t.strand j).pc = n.1) ∧
            ((slotOf ws .c).bits.getLsbD 21 = false → ∀ j : Strand, (t.strand j).pc = (r.strand j).b.q0)))

/-- A word that has issued and waits goes on when what it waits for has come or its time is over (R194, R196, R201, R203, R204,
R207, R209, R291): apart it runs again by itself, in lock-step its bundle does; the join of a creation reaches DMR (R328). -/
def Obligations.WaitEnds : Prop :=
  ∀ (s : State) (k : Ctl) (d a b : Reg), s.bundle = false →
    let goesOn (i : Instr) (j : Strand) : Prop :=
      ∃ t, exec i s = .next t ∧ (s.inLockstep = true → exec .bundleIssue s = .next t) ∧
        ∀ u w, s.ctx.lockstep = false → s.apartWord j = .ok (u, w) → exec w u = .next t
    (∀ dom v, s.creationJoin = some dom → s.domain dom = some v →
      ∃ t, exec .boundaryRelease s = .next t ∧ t.ctx.csr.dmr = dmrOf v.level dom ∧ t.ctx.csr.phcnt = v.count ∧
        t.ctx.joining = none ∧ t.ctx.x = s.ctx.x) ∧
    (s.creationJoin = none → s.boundaryReady = true → goesOn .boundaryRelease .c) ∧
    (s.waitingC = some (.phwt k d a) → (s.xOfC a).toNat ≤ s.waitedC → goesOn .phwtTimeout .c) ∧
    (s.waitingC = some (.bbwt k d a b) → s.barrierDone a = true → goesOn .bbwtDone .c) ∧
    (s.waitingC = some (.bbwt k d a b) → s.barrierDone a = false → (s.xOfC b).toNat ≤ s.waitedC → goesOn .bbwtTimeout .c) ∧
    (s.waitingC = some (.req k a b) → s.reqtoPassed = true → goesOn .qfullTimeout .c) ∧
    (s.waitingC = some (.tspawn k d a) → s.reqtoPassed = true → goesOn .tspawnTimeout .c) ∧
    (s.waitingC = some (.pwreq k d a) → s.reqtoPassed = true → goesOn .pwreqTimeout .c) ∧
    (∀ j : Strand, s.staleStrand = some j → goesOn .staleTimeout j)

/-- JOIN (R55): when all four strands have executed a join word, pending results and flags land and lock-step resumes at C's b0.
The landing of a load or of an atomic's reply that has come (R59, R68, R137): its value reaches its register and its pushes land; a
PREF lands in the cycle after its issue (R136). -/
def Obligations.JoinAndLandings : Prop :=
  ∀ s : State,
    (s.joinDue = true →
      ∃ t, exec .join s = .next t ∧ t.ctx.lockstep = true ∧ t.ctx.flight = [] ∧ t.ctx.pends = [] ∧
        (∀ j : Strand, (t.strand j).pc = (s.strand .c).b.q0 ∧ (t.strand j).xfer = none ∧ (t.strand j).joined = false ∧
          (t.strand j).b = (s.strand j).b) ∧
        (s.ctx.flight = [] → t.ctx.x = s.ctx.x ∧ t.ctx.lines = s.ctx.lines) ∧ t.ctx.p = s.ctx.p ∧ t.ctx.spad = s.ctx.spad ∧
        t.ctx.lateFlags = [] ∧ t.ctx.csr.fstat = s.ctx.lateFlags.foldl (fun w e => w ||| e.flags.setWidth 64) s.ctx.csr.fstat ∧
        ((∀ f ∈ s.ctx.flight, f.wait = false) → t = { s with ctx := t.ctx })) ∧
    (s.joinDue = false → exec .join s = .next s) ∧
    let lands (i : Instr) (pick : InFlight → Bool) : Prop :=
      (s.ctx.flight.find? pick = none → exec i s = .next s) ∧
      ∀ f : InFlight, s.ctx.flight.find? pick = some f →
        ∃ t, exec i s = .next t ∧ t = { s with ctx := t.ctx } ∧ t.ctx.flight = s.ctx.flight.erase f ∧ t.ctx.p = s.ctx.p ∧
          t.ctx.spad = s.ctx.spad ∧ t.ctx.strands = s.ctx.strands ∧
          (∀ n v, f.arr = .x n v → t.ctx.lines = s.ctx.lines ∧ (rising s.ctx.x → ∀ m,
            let c := SMap.get (Cell.init 0) s.ctx.x m
            (SMap.get (Cell.init 0) t.ctx.x m).val = if m = n then v else c.val)) ∧
          (∀ n v, f.arr = .v n v → t.ctx.x = s.ctx.x ∧ (rising s.ctx.lines → ∀ m,
            let c := SMap.get (Cell.init 0) s.ctx.lines m
            (SMap.get (Cell.init 0) t.ctx.lines m).val = if m = n then v else c.val)) ∧
          (f.arr = .none → t.ctx.x = s.ctx.x ∧ t.ctx.lines = s.ctx.lines) ∧
          (t.ctx.newNext.get f.strand.num).length = (s.ctx.newNext.get f.strand.num).length + (if f.qn then 1 else 0) ∧
          (t.ctx.newPrev.get f.strand.num).length = (s.ctx.newPrev.get f.strand.num).length + (if f.qp then 1 else 0);
    let due (f : InFlight) : Bool := match f.due with | some c => decide (c ≤ s.cycle) | none => false
    lands .loadResultLand (fun f => !f.atomic && (if s.ctx.flight.any due then due f else f.due.isNone)) ∧
    lands .atomicReply (fun f => f.atomic && !f.wait)

/-! ### The governor, collectives and fires (11, 13) -/

/-- HISTOGRAM_UPDATE, ITERATION_CLOSE and RECORD_STORE (R224, R226, R227, R230 to R232): one indivisible change of a record; a
close follows the policy's steps and ladder, halves or clears the bins and makes a new version when format or e change; one that an
agreement holds waits (R235). -/
def Obligations.GovernorSteps : Prop :=
  ∀ s : State, s.memWf →
    let spared (t : State) (pa n : Nat) : Prop := ∀ a, a < pa ∨ pa + n ≤ a → t.byteAt a = s.byteAt a
    (∀ c cs, s.contribs = c :: cs → rising c.bins → (∀ e ∈ c.bins, e.1 < 32) →
      let r := s.recordAt c.record
      ∃ t, exec .histogramUpdate s = .next t ∧ t.contribs = cs ∧ spared t c.record 128 ∧ t.ctx = s.ctx ∧
        (let q := t.recordAt c.record;
          (∀ k < 32, recBin q k = min (recBin r k + SMap.get 0 c.bins k) 65535) ∧
          recBits q 3 15 0 = min (recBits r 3 15 0 + c.zero) 65535 ∧ recBits q 3 31 16 = min (recBits r 3 31 16 + c.nan) 65535 ∧
          recBits q 3 47 32 = min (recBits r 3 47 32 + c.ovf) 65535 ∧ recBits q 3 63 48 = min (recBits r 3 63 48 + c.unf) 65535 ∧
          ∀ i, i < 3 ∨ 4 ≤ i ∧ i < 8 → q.getD i 0 = r.getD i 0)) ∧
    (s.contribs = [] → exec .histogramUpdate s = .next s) ∧
    (∀ pa, s.closing.find? (fun q => !(s.recHeld q)) = some pa →
      let r := s.recordAt pa
      let p := s.policyOf (recPolicy r)
      let cur := recCur r
      let f := cur.fmt.toNat
      let d := governStep p (recTop r) cur.e (recQuiet r)
      let r0 := min (recRung r) (polLadlen p - 1)
      let up : Prop := polHi p r0 < d.1 ∧ r0 + 1 < polLadlen p
      let down : Prop := ¬ up ∧ d.1 < polLo p r0 ∧ 0 < r0
      let rungIs (q : List Word) (r1 : Nat) (moved : Prop) (f2 : Nat) (e : Int) : Prop :=
        let e2 := min (max e (max (polLo p r1) (-128))) (min (polHi p r1) 127)
        recRung q = r1 ∧ (¬ moved → recQuiet q = d.2) ∧ (moved → recQuiet q = 0) ∧
        (∀ k < 32, (moved → recBin q k = 0) ∧ (¬ moved → recBin q k = recBin r k / 2)) ∧
        (e2 = cur.e ∧ f2 = f → recCur q = cur) ∧
        (e2 ≠ cur.e ∨ f2 ≠ f → recCur q = { ver := cur.ver + 1, fmt := BitVec.ofNat 4 f2, e := e2 })
      ∃ t, exec .iterationClose s = .next t ∧ t.closing = s.closing.erase pa ∧ spared t pa 128 ∧ t.ctx.x = s.ctx.x ∧
        (let q := t.recordAt pa;
          recCloses q = 0 ∧ recBits q 4 31 0 = (recBits r 4 31 0 + 1) % 2 ^ 32 ∧
          (polV p = false → recCur q = cur ∧ recRung q = recRung r ∧ recQuiet q = recQuiet r ∧ ∀ k < 32, recBin q k = recBin r k / 2) ∧
          (polV p = true → polOk p = true →
            (up → rungIs q (r0 + 1) True (polFmt p (r0 + 1)) (d.1 + emax f - emax (polFmt p (r0 + 1)))) ∧
            (down → rungIs q (r0 - 1) True (polFmt p (r0 - 1)) (d.1 + emax f - emax (polFmt p (r0 - 1)))) ∧
            (¬ up → ¬ down → rungIs q r0 False f d.1)))) ∧
    ((∀ pa ∈ s.closing, s.recHeld pa = true) → exec .iterationClose s = .next s) ∧
    (∀ pa n v sent rest, s.recStores = (pa, n, v, sent) :: rest → pa % 128 + n ≤ 128 →
      let base := pa / 128 * 128
      let due (r : List Word) : Prop := recContrib r ≠ 0 ∧ recContrib r ≤ recCloses r
      ∃ t, exec .recordStore s = .next t ∧ t.recStores = rest ∧ t.memNat pa n = v.toNat % 256 ^ n ∧ spared t pa n ∧ t.ctx = s.ctx ∧
        ((∃ i, i < 8 ∧ i ≠ 3 ∧ (t.recordAt base).getD i 0 ≠ (s.recordAt base).getD i 0) → ∀ p ∈ t.allPlates, base ∉ p.mcache) ∧
        (due (t.recordAt base) → ¬ due (s.recordAt base) → base ∈ t.closing)) ∧
    (s.recStores = [] → exec .recordStore s = .next s)

/-- Collectives (R308 to R312, R235): a poll takes the entries of a ring, a collective whose participants have all contributed
exchanges their data with the other devices, moves them or agrees on a scale, and its completion writes the statuses. -/
def Obligations.CollectiveRows : Prop :=
  ∀ (die : BitVec 2) (s : State), s.memWf →
    let d := die.toNat
    (s.dumpStop = true → exec (.ringPoll die) s = .next s) ∧
    (∀ (id : BitVec 32) (ring : Word) (u v : State) (bs es : List Byte),
      let w := dwsOf 8 (ofBytes bs)
      let dw (i : Nat) : Word := w.getD i 0
      let base := bitsOf (dw 1) 56 0 + 64 * (bitsOf (dw 3) 31 0 % 2 ^ bitsOf (dw 0) 5 2)
      let r := parseReq (dwsOf 8 (ofBytes es))
      s.dumpStop = false → (s.ringsOf d).filter s.ringOn = [(.ctx id, ring)] → s.fabRead (.ctx id) ring.toNat 64 = .ok (u, bs) →
      (bitOf (dw 0) 0 = true ∧ bitOf (dw 0) 1 = false ∧ 4 ≤ bitsOf (dw 0) 5 2 ∧ bitsOf (dw 0) 5 2 ≤ 12) →
      bitsOf (dw 2) 31 0 = (bitsOf (dw 3) 31 0 + 1) % 2 ^ 32 → u.fabRead (.ctx id) base 64 = .ok (v, es) →
      ∀ c, v.matchColl id r = some c → bitsOf ((dwsOf 8 (ofBytes es)).getD 0 0) 31 26 = 0 → r.valid c.ranks.length = true →
      ∃ t, exec (.ringPoll die) s = .next t ∧
        ∃ c' ∈ t.colls, c'.group = c.group ∧ c'.seq = c.seq ∧ c'.parts = c.parts ∧ c'.ranks = c.ranks ∧ c'.far = c.far ∧
          ∃ h ∈ c'.shares, h.ctx = id ∧ h.req = r ∧ h.rank = v.rankIn c.ranks id) ∧
    (let row (i : Instr) (op : Nat) (result : CollReq → Nat → Nat → List Nat → List (Nat × List Nat) → List Nat) : Prop :=
      (s.colls.find? (s.collDue op) = none → exec i s = .next s) ∧
      ∀ c h0 hs, s.colls.find? (s.collDue op) = some c → c.shares = h0 :: hs →
        (∀ k, c.shares.findSome? (fun h => h.fault) = some k → exec i s = .next (s.putColl { c with code := some k, held := [] })) ∧
        (c.shares.findSome? (fun h => h.fault) = none → h0.req.sag = false → c.agreed = none →
          let n := c.ranks.length
          let u := if c.told then s else
            (s.tellDevs c.far (c.shares.map (fun h => .share c.group c.seq.toNat (c.who h) (h.src.getD [])))).putColl { c with told := true }
          let own := c.shares.map (fun h => (h.rank, h.src.getD []))
          (s.farVals c = none → exec i s = .next u) ∧
          ∀ fs, s.farVals c = some fs →
            let vals := if fs.isEmpty then own else (List.range n).filterMap (fun k => (own ++ fs).find? (fun v => v.1 == k))
            let gone := (List.range h0.req.count).map (fun i => (Config.freeWord u.fresh (2000000 + i)).toNat % 2 ^ fmtWidth h0.req.fmt)
            let out := c.shares.foldl (fun (a : State × List Share) h =>
              let b := a.1.writeShare h none (result h0.req n h.rank gone vals)
              (b.1, a.2 ++ [b.2])) (u, [])
            exec i s = .next (out.1.putColl { c with told := true, shares := out.2, code := some 0 }).bump);
    row .allreduce 1 (fun r _ _ _ vs => combineAll r.rop r.fmt (vs.map (fun v => v.2))) ∧
    row .reducescatter 2 (fun r n k _ vs =>
      ((combineAll r.rop r.fmt (vs.map (fun v => v.2))).drop (k * (r.count / max n 1))).take (r.count / max n 1)) ∧
    row .allgather 3 (fun _ n _ gone vs =>
      (List.range n).flatMap (fun k => ((vs.find? (fun v => v.1 == k)).map (fun v => v.2)).getD gone)) ∧
    row .broadcast 4 (fun r _ _ gone vs => ((vs.find? (fun v => v.1 == r.root)).map (fun v => v.2)).getD gone) ∧
    row .agree 5 (fun _ _ _ _ _ => []) ∧ row .barrier 6 (fun _ _ _ _ _ => [])) ∧
    (∀ (c : Collective) (h0 : Share) (hs : List Share), s.colls.find? (s.collDue 5) = some c → c.shares = h0 :: hs →
      c.shares.findSome? (fun h => h.fault) = none → h0.req.sag = true → c.asked = false → c.agreed = none → c.told = false →
      (∀ h ∈ c.shares, h.pa.isSome = true) →
      let pas := c.shares.filterMap (fun h => h.pa)
      let ent (pa : Nat) : ScaleEnt := recCur (s.recordAt pa)
      let named (t : State) (c' : Collective) : Prop := exec .agree s = .next t ∧ c' ∈ t.colls ∧ c'.group = c.group ∧ c'.seq = c.seq
      (∀ pa ∈ pas, s.recHeld pa = false) ∧
      (s.farEntries c.group c.seq.toNat c.far = none →
        ∃ t c', named t c' ∧ c'.asked = true ∧ c'.held = pas ∧ c'.code = none ∧ t.mem = s.mem) ∧
      ∀ fs, s.farEntries c.group c.seq.toNat c.far = some fs → (∀ f ∈ fs, -128 ≤ f.2 ∧ f.2 ≤ 127) → (∀ pa ∈ pas, pa % 128 = 0) →
        let all : List (Nat × Int) := pas.map (fun pa => ((ent pa).fmt.toNat, (ent pa).e)) ++ fs
        ((∃ x ∈ all, ∃ y ∈ all, x.1 ≠ y.1) → ∃ t c', named t c' ∧ c'.code = some 2 ∧ c'.held = [] ∧ t.mem = s.mem) ∧
        ((∀ x ∈ all, ∀ y ∈ all, x.1 = y.1) → ∃ t c' top, named t c' ∧ c'.held = [] ∧ (∃ x ∈ all, x.2 = top ∧ c'.agreed = some x) ∧
          ((s.farVals c).isSome = true → c'.code = some 0) ∧ (∀ x ∈ all, x.2 ≤ top) ∧
          ∀ x ∈ pas, recQuiet (t.recordAt x) = 0 ∧
            recCur (t.recordAt x) = if (ent x).e < top then { ver := (ent x).ver + 1, fmt := (ent x).fmt, e := top } else ent x)) ∧
    (s.colls.find? (fun c => !c.past && c.code.isSome) = none → exec .collectiveComplete s = .next s) ∧
    ∀ (c : Collective) (h : Share) (u : State) (p : Piece) (x : Xlat), s.colls.find? (fun c => !c.past && c.code.isSome) = some c →
      (∃ t c', exec .collectiveComplete s = .next t ∧ c' ∈ t.colls ∧ c'.group = c.group ∧ c'.seq = c.seq ∧ c'.past = true ∧
        c'.shares = [] ∧ c'.held = []) ∧
      (c.shares = [h] → (s.ctxOf h.ctx).isSome = true → c.code = some 0 → h.fault = none → h.req.stat.toNat % 16 = 0 →
        s.settleAll.fabResolve (.ctx h.ctx) h.req.stat.toNat 16 .store = .ok (u, [p]) → p.tgt = .mem x → p.len = 16 → x.pa % 16 = 0 →
        let word := statusWord (if c.withdrawn then 1 else 0) h.rank (1 + c.far.length)
        ∃ t, exec .collectiveComplete s = .next t ∧
          (u.ctx.die = homeDie (x.pa / 128 * 128) → t.memNat x.pa 8 = word ∧ t.memNat (x.pa + 8) 8 = h.req.tag.toNat ∧
            ∀ a, a < x.pa ∨ x.pa + 16 ≤ a → t.byteAt a = u.byteAt a) ∧
          (u.ctx.die ≠ homeDie (x.pa / 128 * 128) → t.mem = u.mem ∧ ∃ data mask,
            .wr (x.pa / 128) data mask 0 512 x.region false ∈ t.msgs u.ctx.die (homeDie (x.pa / 128 * 128)) ∧
            (∀ i < 128, mask.getLsbD i = (decide (x.pa % 128 ≤ i) && decide (i < x.pa % 128 + 16))) ∧
            ∀ i < 16, lineByte data (x.pa % 128 + i) = if i < 8 then BitVec.ofNat 8 (word / 256 ^ i)
              else h.req.tag.extractLsb' (8 * (i - 8)) 8))

/-- Fires of the tile dispatch table (R302, R303, R312 to R316, R235): a held fire is captured when its source can be read; a
captured entry copies or combines its bytes at each target, under an agreement once its members have proposed; then its status is
written and its bit cleared. -/
def Obligations.TileFires : Prop :=
  ∀ (die : BitVec 2) (s : State), s.memWf → rising s.writers →
    let d := die.toNat
    (s.dumpStop = true → exec (.heldFireRetry die) s = .next s) ∧
    (∀ id i, s.dumpStop = false → (s.die d).fires = [(id, i)] →
      (s.captureFire id i = none → exec (.heldFireRetry die) s = .next s) ∧
      (∀ u g, s.captureFire id i = some (u, g) →
        ∃ t, exec (.heldFireRetry die) s = .next t ∧ t.fires = u.fires ++ [g] ∧ g.ctx = id ∧ g.index = i ∧
          (t.die d).fires = ((u.die d).fires).erase (id, i) ∧ t.mem = u.mem)) ∧
    (let row (i : Instr) (op : Nat) (lands : State → State → Fire → Nat → List Byte → Prop) : Prop :=
      (s.fires.find? (s.canFire op) = none → exec i s = .next s) ∧
      ∀ f : Fire, s.fires.find? (s.canFire op) = some f →
        (f.sent = true → exec i s = .next (s.closeFire f f.code)) ∧
        (f.sent = false → f.ok = false → exec i s = .next (s.closeFire f 6)) ∧
        (f.sent = false → f.ok = true → (s.ctxOf f.ctx).isSome = true → s.takesPart f = false → exec i s = .next (s.closeFire f 7)) ∧
        (f.sent = false → f.ok = true → (s.ctxOf f.ctx).isSome = true → s.takesPart f = true → f.sag = false →
          (∀ k, s.fireBytes f none = .error k → exec i s = .next ((s.freezeFor f.ctx k (f.dw 1)).closeFire f k)) ∧
          ∀ (u : State) (bs : List Byte) (dev : BitVec 12), s.fireBytes f none = .ok (u, bs) → bs ≠ [] → u.fireDevs f = [dev] →
            f.await = [] → f.code = 0 →
            let g : Fire := { f with sent := true, agreed := none, held := none }
            let ends (v : State) (k : Nat) : State := (v.putFire f { g with code := k }).closeFire { g with code := k } k
            let fae := bitsOf (f.dw 2) 63 52
            let off := bitsOf (f.dw 2) 31 0
            let e := u.fatOf fae
            let outside : Prop := bitsOf (f.dw 2) 51 32 ≠ 0 ∨ bitOf (e.map e.cur) 0 = false ∨ e.len e.cur < off + bs.length
            (outside → exec i s = .next (ends u 4)) ∧
            (¬ outside → (dev ≠ u.devId ∨ e.dev e.cur ≠ u.devId) →
              let peer := if dev = u.devId then e.dev e.cur else dev
              let m := (Config.portOf peer).toNat
              ((u.portOf m).down = true → exec i s = .next (ends u 3)) ∧
              ((u.portOf m).down = false → ∃ v : State, exec i s = .next v ∧ v = { u with ports := v.ports, fires := v.fires } ∧
                { g with await := [peer] } ∈ v.fires ∧
                ∃ x ∈ (v.portOf m).out ++ (v.portOf m).wait.get 3, x.kind = (if op = 0 then 1 else 2) ∧ x.rop = decide (op = 2) ∧
                  x.fae = BitVec.ofNat 12 fae ∧ x.dstdev = peer ∧ x.last = true)) ∧
            (¬ outside → dev = u.devId → e.dev e.cur = u.devId → ∀ pa, u.fabricPa fae e.cur off bs.length = some pa →
              let fails : Prop := plainPlace pa = false ∨ (u.beyond pa bs.length).isSome = true ∨ op ≠ 0 ∧ u.anyPoison pa bs.length = true
              (fails → exec i s = .next (ends u 4)) ∧
              (¬ fails → ∃ v : State, exec i s = .next (ends v 0) ∧ v.ctx = u.ctx ∧ lands u v f pa bs))) ∧
        (∀ (u : State) (pa : Nat), f.ok = true → f.sent = false → s.takesPart f = true → f.sag = true → f.asked = false → f.agreed = none →
          s.fires = [f] → s.matched f = some [f] → s.fireFar f = [] → s.ownUnmarked f = false → s.fireRecords [f] = .ok (u, [(f, pa)]) →
          u.recHeld pa = false → u.memWf → pa % 128 = 0 →
          let ent := recCur (u.recordAt pa)
          let g : Fire := { f with asked := true, held := none, agreed := some (ent.fmt.toNat, ent.e), npart := 1 }
          ∃ v : State, exec i s = .next (v.runFire g (some (ent.fmt.toNat, ent.e))) ∧ v.fires = [g] ∧
            recCur (v.recordAt pa) = ent ∧ recQuiet (v.recordAt pa) = 0)
    let w (f : Fire) : Nat := fmtWidth f.fmt / 8
    let own (u : State) (f : Fire) (pa : Nat) (bs : List Byte) : Prop :=
      ∀ a, pa ≤ a → a < pa + bs.length → homeDie (a / 128 * 128) = u.fireDie f
    let sums (rop : Bool) (u v : State) (f : Fire) (pa : Nat) (bs : List Byte) : Prop :=
      f.dw 8 = 0 → pa % 128 + bs.length ≤ 128 → bs.length % w f = 0 → pa % w f = 0 →
        let t := u.settle (u.fireDie f) (spanLine pa bs.length)
        (∀ i < bs.length / w f, v.memNat (pa + i * w f) (w f) =
          combine rop f.fmt (t.memNat (pa + i * w f) (w f)) ((splitElems (w f) bs).getD i 0) % 256 ^ w f) ∧
        t.spares v (fun a => pa ≤ a ∧ a < pa + bs.length);
    row .fireCopy 0 (fun u v f pa bs => own u f pa bs →
      ∀ a, v.byteAt a = if pa ≤ a ∧ a < pa + bs.length then bs.getD (a - pa) 0 else u.byteAt a) ∧
    row .fireSum 1 (sums false) ∧ row .fireMax 2 (sums true)) ∧
    ∀ (f : Fire) (code rank n : Nat), (s.endFire f code rank n).fires = s.fires.erase f ∧
      (s.ctxOf f.ctx = none → s.endFire f code rank n = { s with fires := s.fires.erase f }) ∧
      (s.ctx.id = f.ctx → f.ctx ≠ 0 → s.ctx.life ≠ .ended →
        let t := s.endFire f code rank n
        t.ctx.id = f.ctx ∧ f.index ∉ t.ctx.ready ∧ (∀ e ∈ t.ctx.streams, e.1 ≠ f.index) ∧
        ∀ (u v : State) (p q : Piece) (x y : Xlat), code < 3 →
          ({ s with fires := s.fires.erase f } : State).settleAll.fabResolve (.ctx f.ctx) (f.dw 5).toNat 8 .store = .ok (u, [p]) →
          p.tgt = .mem x → p.len = 8 → x.pa % 8 = 0 → u.ctx.die = homeDie (x.pa / 128 * 128) →
          let r := u.fabricWrite u.ctx.die x.region x.pa (toBytes 8 (statusWord code rank n))
          r.fabResolve (.ctx f.ctx) (s.ctx.task.tdt.toNat + 0x40000 + f.index / 8) 1 .atomic = .ok (v, [q]) → q.tgt = .mem y →
          (∀ i < 8, v.owed (x.pa + i) = false) → y.pa < x.pa ∨ x.pa + 8 ≤ y.pa →
          t.memNat x.pa 8 = statusWord code rank n ∧ t.memNat y.pa 1 / 2 ^ (f.index % 8) % 2 = 0)

/-! ### The scheduler, operating points and records (10, 14, 15, 16) -/

/-- The scheduler's rows (R202, R207, R265, R326 to R335): conditions met, a dispatch with its staging, a resume, an end without a
plate, a save and its request, a continuation's enqueue. -/
def Obligations.SchedulerRows : Prop :=
  ∀ (die : BitVec 2) (s : State), rising (s.die die.toNat).queues →
    let d := die.toNat
    (∃ t, exec (.taskReady die) s = .next t ∧ t = { s with dies := t.dies } ∧ ∀ q ∈ (s.die d).queues, ∃ q' ∈ (t.die d).queues, q'.1 = q.1 ∧
      ∀ k ∈ q.2, ∃ k' ∈ q'.2, k'.task = k.task ∧ k'.seq = k.seq ∧
        (k.st = .ready → k' = k) ∧
        (k.st = .queued → (∀ c ∈ k.wait, s.condHolds c = true) → k'.st = .ready ∧ k'.since = s.cycle) ∧
        (k.st = .queued → ¬ (∀ c ∈ k.wait, s.condHolds c = true) → k'.st = .queued ∧ ∀ c, c ∈ k'.wait ↔ c ∈ k.wait ∧ s.condHolds c = false)) ∧
    (∀ id, s.placings d = [id] → let u := (s.focus id).goOnPlacing; exec (.taskDispatch die) s = .next (u.dispatch d) ∧
      ((u.candidates d).findSome? (u.dispatchable d) = none → u.dispatch d = u)) ∧
    (∀ q : Placing, s.ctx.placing = some q → q.staged = true →
      (s.bookable q = false → s.goOnPlacing = s) ∧
      (s.bookable q = true → let t := s.goOnPlacing
        t.ctx.id = s.ctx.id ∧ t.ctx.life = .resident ∧ t.ctx.placing = none ∧ t.ctx.strands = s.ctx.strands ∧ t.ctx.x = s.ctx.x ∧
        t.ctx.spad = s.ctx.spad ∧ t.ctx.holdFor = .switch ∧ t.logged s.ctx.die 2 2 0 (BitVec.ofNat 64 s.ctx.id.toNat) ∧
        (q.units ≠ 0 → t.ctx.booking = some { size := q.units, used := 0 }))) ∧
    (let pick := (s.candidates d).findSome? (s.dispatchable d);
      s.placings d = [] →
      (pick = none → exec (.taskDispatch die) s = .next s) ∧
      (∀ k, pick = some (.task k, none) →
        ∃ t, exec (.taskDispatch die) s = .next t ∧ t.logged d 3 2 0x80000002 0 ∧ t.ctx = s.ctx ∧
          (∀ x ∈ SMap.get [] (t.die d).queues k.task.queue, x.seq ≠ k.seq) ∧ ∀ r ∈ (t.die d).rings, r.seq ≠ k.seq) ∧
      (∀ k p, pick = some (.task k, some p) →
        let q : Placing := { staged := false, units := k.task.power, mark := 0, seq := some k.seq }
        let c := { newCtx s d p ((s.baseFor p (s.residents p) k.task.spg).getD 0) k.task with placing := some q }
        let u := (((s.unqueue d k).mdie d (fun e => { e.stepId with areas := e.areas + 1 })).enter c).place
        (c.id = (s.die d).newId ∧ c.life = .placing ∧ c.lockstep = true ∧ c.plate = p.id ∧
          (∀ j : Strand, (c.strands.get j.num).pc = k.task.code) ∧
          ∀ w1 w2 w3 w4 : Word, k.task.xs = [(1, w1), (2, w2), (3, w3), (4, w4)] →
            (SMap.get (Cell.init 0) c.x 1).val = w1 ∧ (SMap.get (Cell.init 0) c.x 2).val = w2 ∧
            (SMap.get (Cell.init 0) c.x 3).val = w3 ∧ (SMap.get (Cell.init 0) c.x 4).val = w4) ∧
        u.ctx = c ∧ (k.task.ins = [] → k.task.stb = 0 → u.stageAll = .ok u ()) ∧
        (∀ a, u.stageAll = .wait a → exec (.taskDispatch die) s = .next u) ∧
        (∀ v cause a, u.stageAll = .stop v cause a →
          ∃ t, exec (.taskDispatch die) s = .next t ∧ t.logged v.ctx.die 3 2 (BitVec.ofNat 32 (0x80000100 + cause.code)) 0 ∧
            t.ctx.life = .ended) ∧
        ∀ v, u.stageAll = .ok v () →
          let w := v.mctx (fun c => { c with placing := some { q with staged := true } })
          (w.bookable q = false → exec (.taskDispatch die) s = .next w) ∧
          (w.bookable q = true →
            ∃ t, exec (.taskDispatch die) s = .next t ∧ t.ctx.id = v.ctx.id ∧ t.ctx.life = .resident ∧ t.ctx.placing = none ∧
              t.ctx.strands = v.ctx.strands ∧ t.ctx.x = v.ctx.x ∧ t.ctx.spad = v.ctx.spad ∧ t.ctx.stencil = v.ctx.stencil ∧
              t.ctx.h = v.ctx.h ∧ t.logged v.ctx.die 2 2 0 (BitVec.ofNat 64 v.ctx.id.toNat) ∧
              (v.ctx.task.dv = true → t.ctx.joining = some v.ctx.task.domain) ∧
              (k.task.power ≠ 0 → t.ctx.booking = some { size := k.task.power, used := 0 }))) ∧
      ∀ c p, pick = some (.saved c, some p) → s.ctxOf c.id = some c →
        ∃ t, exec (.taskDispatch die) s = .next t ∧ t.ctx.id = c.id ∧ t.ctx.plate = p.id ∧ t.ctx.strands = c.strands ∧
          t.ctx.x = c.x ∧ t.ctx.p = c.p ∧ t.ctx.lines = c.lines ∧ t.ctx.spad = c.spad ∧ t.ctx.queues = c.queues ∧ t.ctx.tiles = c.tiles ∧
          c.id ∉ (t.die d).saved ∧
          (if c.saved = 0 ∨ (s.die d).fits s.cycle c.saved = true then
            t.ctx.life = .resident ∧ t.ctx.placing = none ∧ t.logged d 2 2 0 (BitVec.ofNat 64 c.id.toNat) ∧
              (c.saved ≠ 0 → t.ctx.booking = some { size := c.saved, used := 0 })
           else t.ctx.life = .placing ∧ t.ctx.placing = some { staged := true, units := c.saved, mark := 2, seq := none })) ∧
    (∀ c, s.saveDue d = some c → s.ctxOf c.id = some c →
      ∃ t, exec (.preempt die) s = .next t ∧ t.ctx.id = c.id ∧ t.ctx.life = .saved ∧ t.ctx.saving = false ∧ t.ctx.booking = none ∧
        t.ctx.saved = (match c.booking with | some b => b.size | none => 0) ∧ t.ctx.strands = c.strands ∧ t.ctx.spad = c.spad ∧
        (c.flight = [] → t.ctx.x = c.x ∧ t.ctx.lines = c.lines) ∧
        t.ctx.queues = c.queues.map (fun q => q.map QEntry.throughImage) ∧ (∀ i < 4, t.plate.places.get i ≠ c.id) ∧
        c.id ∈ (t.die d).saved ∧ t.logged d 4 2 0 (BitVec.ofNat 64 c.id.toNat)) ∧
    (∀ v, s.saveDue d = none → s.saving d = false → s.victim d = some v → s.ctxOf v.id = some v →
      ∃ t, exec (.preempt die) s = .next t ∧ t.ctxOf v.id = some { v with saving := true, latch := true } ∧ t.mem = s.mem) ∧
    (s.saveDue d = none → s.saving d = true ∨ s.victim d = none → exec (.preempt die) s = .next s) ∧
    (s.continDue = none → exec .continuationEnqueue s = .next s) ∧
    ∀ c, s.continDue = some c →
      let sp := (SMap.get none (s.die c.die).bind c.task.queue).getD Space.blank
      ∃ t, exec .continuationEnqueue s = .next t ∧ t.contins = s.contins.erase c ∧ t.logged c.die 1 2 0 0 ∧
        (s.maxSpcap c.die < c.task.spg → c.task.waitcap = false → t.logged c.die 3 2 0x80000002 0) ∧
        (s.maxSpcap c.die ≥ c.task.spg ∨ c.task.waitcap = true →
          (s.conditions sp c.task.ins = none → t.logged c.die 3 2 0x80000104 0) ∧
          ∀ cs, s.conditions sp c.task.ins = some cs →
            ∃ k ∈ SMap.get [] (t.die c.die).queues c.task.queue, k.task = c.task ∧ k.seq = s.jseq ∧
              (k.st = .ready ↔ ∀ x ∈ cs, s.condHolds x = true))

/-- Steps of the operating point and thermal protection (R264, R266, R272 to R275, R385). -/
def Obligations.OperatingPoints : Prop :=
  ∀ (die : BitVec 2) (s : State),
    let d := die.toNat
    let now := (s.die d).point
    let moves (i : Instr) (r : OpStep) : Prop :=
      ∃ t, exec i s = .next t ∧ (t.die d).point = now ∧ (t.die d).step = some { r with moving := true, wait := s.moveTime d now r.target }
    let ends (i : Instr) (r : OpStep) : Prop :=
      ∃ t, exec i s = .next t ∧ ((s.die d).pending = [] → (t.die d).point = r.target ∧ (t.die d).step = none) ∧
        t.logged d 5 r.source 0 (BitVec.ofNat 64 d) ∧ (now < r.target → t.mem = s.mem) ∧
        (r.target < now → ∀ p ∈ s.platesOf d, ∀ l ∈ (t.plateOf p.id).l1, p.rowOfLine l ∉ p.lostRows r.target) ∧
        (∀ m, r.mail = some m → (s.die d).pending = [] → Mail.key m ∉ s.spoilt →
          SMap.get none t.resp (Mail.key m) = some { status := 0, tag := m.tag, data := [] } ∧
          (m.sup = none → t.control.go = false ∧ t.control.done = true) ∧
          ∀ k, m.sup = some k → (t.die k.toNat).mail.go = false ∧ (t.die k.toNat).mail.done = true)
    (∀ r, (s.die d).step = some r → r.target < now →
      (r.moving = false → moves (.downwardStep die) r ∧ ∃ t, exec (.downwardStep die) s = .next t ∧
        (∀ p ∈ s.platesOf d, ∀ l ∈ (t.plateOf p.id).l1, p.rowOfLine l ∉ p.lostRows r.target) ∧
        (s.ctx.id ≠ 0 → s.ctx.die = d → s.ctx.life = .resident ∨ s.ctx.life = .placing → s.losesRow s.ctx r.target = true →
          t.ctx.saving = true ∧ t.ctx.latch = true)) ∧
      (r.moving = true → s.moveDone d r = false → exec (.downwardStep die) s = .next s) ∧
      (s.moveDone d r = true → r.settling = false →
        ∃ t, exec (.downwardStep die) s = .next t ∧ (t.die d).point = now ∧ t = { s with dies := t.dies } ∧
          (t.die d).step = some { r with settling := true, wait := (centivolts now - centivolts r.target) * clockMhz r.target }) ∧
      (s.moveDone d r = true → r.settling = true → ends (.downwardStep die) r)) ∧
    (∀ r, (s.die d).step = some r → now < r.target →
      (r.moving = false → r.wait = 0 → moves (.remap die) r) ∧
      (r.moving = false → r.wait ≠ 0 → exec (.remap die) s = .next s) ∧
      (s.moveDone d r = true → ends (.upwardStep die) r) ∧
      (s.moveDone d r = false → exec (.upwardStep die) s = .next s)) ∧
    ((s.die d).step = none → exec (.downwardStep die) s = .next s ∧ exec (.remap die) s = .next s ∧ exec (.upwardStep die) s = .next s) ∧
    (let hot (limit : Nat) (last : Option Nat) : Prop :=
        limit ≤ (s.die d).junction ∧ s.thermalDue d last = true ∧ (s.die d).step = none ∧ (s.die d).pending = []
      let falls (i : Instr) (n : Nat) : Prop :=
        ∃ t r, exec i s = .next t ∧ (t.die d).step = some r ∧ r.target = n ∧ r.source = 3 ∧ r.moving = false ∧ r.mail = none
      (hot 95 (s.die d).lowered → now = 7 → falls (.thermalBudgetLower die) 6) ∧
      (hot 95 (s.die d).lowered → now ≠ 7 → 600 < (s.die d).budget →
        ∃ t, exec (.thermalBudgetLower die) s = .next t ∧ (t.die d).budget = max 600 ((s.die d).budget - 100) ∧
          (t.die d).lowered = some s.cycle ∧ t.logged d 10 3 0 (BitVec.ofNat 64 d) ∧ t.mem = s.mem) ∧
      ((s.die d).junction < 95 → exec (.thermalBudgetLower die) s = .next s) ∧
      (∀ n, hot 105 (s.die d).stepped → s.coolPoint d = some n → n < now ∧ n ≤ 3 ∧ falls (.thermalStep die) n) ∧
      ((s.die d).junction < 105 → exec (.thermalStep die) s = .next s) ∧
      (115 ≤ (s.die d).junction →
        ∃ t, exec (.thermalTrip die) s = .next t ∧ t = { s with control := t.control } ∧ t.control.stage = 15 ∧ t.control.fcode = 0x30 ∧
          ∀ k < 4, t.control.dieok.getLsbD k = (s.control.dieok.getLsbD k && k != d)) ∧
      ((s.die d).junction < 115 → exec (.thermalTrip die) s = .next s))

/-- Soft errors, scrubbing, corrected-error events, samples, dump records and markers, and MSI-X (R355 to R359, R368 to R374). -/
def Obligations.RecordEvents : Prop :=
  ∀ (die : BitVec 2) (s : State),
    let d := die.toNat
    (∀ (a : SramArray), a ∉ s.soft → ∃ t, exec (.softError { array := a, double := false }) s = .next t ∧ t = { s with soft := s.soft ++ [a] }) ∧
    (∀ u : Upset, u.double = true ∨ u.array ∈ s.soft →
      ∃ t, exec (.softError u) s = .next t ∧ u.array ∉ t.soft ∧ t.mem = s.mem ∧
        ((∃ id off, u.array = .scratchpad id off) ∨ (∃ id g r c, u.array = .accumulator id g r c) ∨ (∃ id n, u.array = .stencil id n) ∨
          (∃ id e n, u.array = .queue id e n) → u.array ∈ t.bad) ∧
        (∀ id off, u.array = .regcache id off →
          s.allPlates.any (fun p => p.rcache.any (fun e => e.ctx == id && e.line == off / 256)) = true → u.array ∈ t.bad) ∧
        (∀ pa, u.array = .memory pa → t.poisoned pa = true) ∧
        (∀ p, u.array = .tlb p → (s.plateOf p.toNat).id = p.toNat → (t.plateOf p.toNat).tlb = []) ∧ (∀ p, u.array = .icache p → (s.plateOf p.toNat).id = p.toNat → (t.plateOf p.toNat).icache = []) ∧
        (∀ p, u.array = .metacache p → (s.plateOf p.toNat).id = p.toNat → (t.plateOf p.toNat).mcache = [])) ∧
    (let found (a : SramArray) : Prop := s.arrayDie a = d ∧ ∀ pa, a = .memory pa → s.cycle % max (s.micros d 86400000000) 1 = 0
      ∃ t, exec (.scrub die) s = .next t ∧ (∀ a, a ∈ t.soft ↔ a ∈ s.soft ∧ ¬ found a) ∧ t.mem = s.mem ∧ t.ctx = s.ctx ∧
        (∀ a ∈ t.bad, a ∈ s.bad) ∧
        (∀ a, s.soft = [a] → found a → s.bad = [] → let k := (Config.arrayNumber (arrayRow a)).toNat
          ((t.die d).correctedOf k).1 = ((s.die d).correctedOf k).1 + 1)) ∧
    (∀ k : BitVec 8, let n := ((s.die d).correctedOf k.toNat).1;
      (s.correctedDue d k.toNat = false → exec (.correctedErrorEvent die k) s = .next s) ∧
      (s.correctedDue d k.toNat = true →
        ∃ t e, exec (.correctedErrorEvent die k) s = .next t ∧ e ∈ (t.die d).events ∧ e.code = 4 ∧ e.cycle = s.cycle ∧
          e.object = BitVec.ofNat 64 k.toNat ∧ e.detail = BitVec.ofNat 64 (k.toNat + n % 2 ^ 32 * 2 ^ 32) ∧
          ((t.die d).correctedOf k.toNat).1 = 0 ∧ t.mem = s.mem ∧ t.ctx = s.ctx)) ∧
    ((∀ p ∈ s.allPlates, s.sampleDue p = false) → exec .traceSample s = .next s) ∧
    (s.plate.active = none → (∀ p ∈ s.allPlates.tail, s.sampleDue p = false) → s.sampleDue s.plate = true →
      exec .traceSample s = .next (s.traceAs 0 0 [0, 0, 0, 0, 0, BitVec.ofNat 64 (s.runningEsn .mxe + s.runningEsn .cpe * 2 ^ 32)])) ∧
    (∀ (id : BitVec 32) (kind : Nat) (dws : List Word) (c : TraceCfg), s.memWf → s.writers = [] → dws.length = 6 →
      s.plate.trace = some c → c.kinds.getLsbD kind = true → c.lost = 0 → kind < 16 → s.plate.id < 512 →
      let pa := c.base.toNat + 64 * (c.widx % 2 ^ c.logsz)
      (∃ x, placeOf pa = .hbm x) → pa % 64 = 0 →
      let home := homeDie (pa / 128 * 128)
      let me := dieOfPlate s.plate.id
      let t := s.traceAs id kind dws
      t.plate.trace = some { c with widx := c.widx + 1 } ∧
      (home = me → t.memNat pa 16 = kind + s.plate.id * 16 + s.cycle % 2 ^ 32 * 2 ^ 32 + id.toNat * 2 ^ 64 ∧
        (∀ i < 6, t.memDw (pa + 16 + 8 * i) = dws.getD i 0) ∧ ∀ a, a < pa ∨ pa + 64 ≤ a → t.byteAt a = s.byteAt a) ∧
      (home ≠ me → t.mem = s.mem ∧ ∃ data, .wr (pa / 128) data (maskOf (pa % 128) 64) 0 s.plate.id 0 false ∈ t.msgs me home ∧
        ∀ i < 6, data.extractLsb' (8 * (pa % 128) + 128 + 64 * i) 64 = dws.getD i 0)) ∧
    (s.recordDue d = false → exec (.dumpRecord die) s = .next s) ∧
    (∀ p, s.dump = some p → s.recordDue d = true →
      ∃ t q, exec (.dumpRecord die) s = .next t ∧ t.dump = some q ∧ (d, s.die d) ∈ q.recorded ∧
        (∀ c ∈ s.allCtxs, c.die = d → c.life ≠ .saved → (d, c) ∈ q.images) ∧ t.mem = s.mem ∧
        ∀ e ∈ neighbours d, ∀ c < 3, .marker c ∈ t.msgs d e) ∧
    (∀ ch : Chan, s.markerDue d ch = false → exec (.dumpMarker die ch) s = .next s) ∧
    (∀ (ch : Chan) (p : DumpSt), s.markerDue d ch = true → s.dump = some p → p.past = false → (d, ch) ∉ p.closed →
      ∃ t q, exec (.dumpMarker die ch) s = .next t ∧ t.dump = some q ∧ (d, ch) ∈ q.closed ∧ q.has d = true ∧ t.mem = s.mem) ∧
    ∀ v : BitVec 2,
      (s.msixDue v.toNat = false → exec (.msixVectorFire v) s = .next s) ∧
      (s.msixDue v.toNat = true →
        ∃ t, exec (.msixVectorFire v) s = .next t ∧ t = { s with msix := t.msix } ∧ (t.msix.get v.toNat).fired = (s.msix.get v.toNat).fired + 1 ∧
          (t.msix.get v.toNat).waiting = false ∧ (t.msix.get v.toNat).last = some s.cycle ∧
          ∀ j : BitVec 2, j ≠ v → t.msix.get j.toNat = s.msix.get j.toNat)

/-! ### The mailboxes and the host link (17) -/

/-- Mailbox commands that set up the device or report on it (R231, R248, R249, R268, R272, R275, R277, R286, R302 to R305, R325,
R355, R374 to R378, R381 to R383): one turned away is answered with its status and does nothing else; one served has its effect
and its answer. -/
def Obligations.MailboxSettings : Prop :=
  ∀ (m : Mail) (die : BitVec 2) (off len : BitVec 32) (s : State), rising s.fat → rising s.regions → rising (s.die die.toNat).grants →
    let d := die.toNat
    let answered (t : State) (status : Nat) (data : List Word) : Prop := s.mailDone t m status data
    let only (t : State) : Prop := s.mailOnly t
    let away (i : Instr) (stage : Nat) (sup : Bool) : Prop := s.mailAway m stage sup i
    let served (i : Instr) (stage : Nat) (sup : Bool) (cond : Prop) (effect : State → Prop) : Prop :=
      s.mailServed m stage sup → cond → ∃ t, exec i s = .next t ∧ effect t
    let refused (i : Instr) (stage : Nat) (sup : Bool) (cond : Prop) (status : Nat) : Prop :=
      served i stage sup cond (fun t => answered t status [] ∧ only t)
    let measured (t : State) (cmd : Nat) (args : List Nat) : Prop :=
      t.ident = { s.ident with m := s.ident.m.set 3 (extend (s.ident.m.get 3) (Config.sha3 (Config.argBytes cmd args))) }
    let bytes (i : Instr) (stage : Nat) (f : Nat → Nat) : Prop :=
      away i stage true ∧ served i stage true True (fun t => ∃ data, answered t 0 data ∧ only t ∧
        ∀ j < min len.toNat (mailRoom m), (data.getD (j / 8) 0).toNat / 256 ^ (j % 8) % 256 = f (off.toNat + j) % 256);
    (away (.info m) 1 true ∧ served (.info m) 1 true True (fun t => answered t 0 (Config.infoWords ((List.range 8).map Config.cxlCapacity)) ∧ only t)) ∧
    (∀ nonce, away (.attest m nonce) 1 true ∧ served (.attest m nonce) 1 true True (fun t =>
      let msg := toBytes 32 nonce.toNat ++ s.ident.m.toList.flatMap (fun r => toBytes 48 r.toNat) ++
        toBytes 4 s.imageInUse.version.toNat ++ Config.stepping ++ Config.identityKeys
      answered t 0 (wordsOfBytes (msg ++ Config.identitySign msg)) ∧ only t)) ∧
    (∀ image, away (.fwLoad m image) 0 false ∧ refused (.fwLoad m image) 0 false (s.imageOk image = false) 2 ∧
      served (.fwLoad m image) 0 false (s.imageOk image = true) (fun t => answered t 0 [] ∧ t.ident.fuses = s.ident.fuses ∧
        (if s.control.slot then t.ident.slotA = some image ∧ t.ident.slotB = s.ident.slotB
         else t.ident.slotB = some image ∧ t.ident.slotA = s.ident.slotA))) ∧
    (let n := s.imageInUse.counter;
      away (.fwCommit m) 5 false ∧ refused (.fwCommit m) 5 false (n ≤ s.ident.fuses ∨ 64 < n) 3 ∧
      served (.fwCommit m) 5 false (s.ident.fuses < n ∧ n ≤ 64) (fun t => answered t 0 [] ∧ t.ident = { s.ident with fuses := n })) ∧
    (∀ (queue : BitVec 4) (asid : BitVec 12) (root : Word) (priv : Priv) (b c : Word) (r : Csrs),
      let i : Instr := .queueSet m die queue asid root priv b c
      away i 5 true ∧ served i 5 true ((Csrs.init.write 0x040 b).bind (fun r => r.write 0x041 c) = none) (fun t => answered t 2 []) ∧
      served i 5 true ((Csrs.init.write 0x040 b).bind (fun r => r.write 0x041 c) = some r) (fun t =>
        answered t 0 [] ∧ SMap.get none (t.die d).bind queue.toNat =
          some { asid := asid, root := root, priv := priv, accbase := r.accbase, accctl := r.accctl } ∧
        measured t 0x10 [d, queue.toNat, asid.toNat, root.toNat, if priv = .u then 0 else 1, b.toNat, c.toNat])) ∧
    (∀ (dom : BitVec 10) (asid : BitVec 12) (rdev : BitVec 12) (parent : Option (BitVec 10)) (k : BitVec 8),
      let i : Instr := .domainCreate m dom asid die rdev parent k
      away i 5 true ∧ refused i 5 true ((s.domain dom).isSome = true) 3 ∧
      refused i 5 true (s.domain dom = none ∧ s.levelUnder parent = none) 2 ∧
      ∀ l, refused i 5 true (s.domain dom = none ∧ s.levelUnder parent = some l ∧ 6 < l) 3 ∧
        refused i 5 true (s.domain dom = none ∧ s.levelUnder parent = some l ∧ l ≤ 6 ∧ k = 0) 2 ∧
        served i 5 true (s.domain dom = none ∧ s.levelUnder parent = some l ∧ l ≤ 6 ∧ k ≠ 0) (fun t =>
          answered t 0 [] ∧ ∃ v, t.domain dom = some v ∧ v.asid = asid ∧ v.rootDie = d ∧ v.rootDev = rdev ∧ v.parent = parent ∧
            v.k = k.toNat ∧ v.level = l ∧ v.count = 0 ∧ v.members = [] ∧ v.far = [])) ∧
    (∀ (r : BitVec 8) (entry : Word),
      let i : Instr := .regionSet m r entry
      away i 5 true ∧
      served i 5 true (r = 0) (fun t => answered t 3 [] ∧ t.regions = s.regions) ∧
      served i 5 true (r ≠ 0) (fun t => answered t 0 [] ∧ (t.region r.toNat).entry = setBits entry 63 4 0 ∧
        (t.region r.toNat).round = (s.region r.toNat).round ∧ measured t 0x12 [r.toNat, entry.toNat] ∧
        (∀ l ∈ t.plate.l1, l.region ≠ r.toNat))) ∧
    (∀ (index : BitVec 4) (entry : BitVec 256),
      let i : Instr := .policySet m index entry
      away i 5 true ∧
      served i 5 true (polOk entry = false) (fun t => answered t 3 [] ∧ t.policy = s.policy) ∧
      served i 5 true (polOk entry = true) (fun t => answered t 0 [] ∧ t.policyOf index.toNat = entry ∧
        measured t 0x13 [index.toNat, entry.toNat] ∧ ∀ n, n ≠ index.toNat → t.policyOf n = s.policyOf n)) ∧
    (∀ count : BitVec 8,
      let i : Instr := .carve m die count
      let c := count.toNat
      let starved : Prop := 12 < c + (s.die d).heldWays.length + (s.die d).worstLost (s.die d).point ∨ (s.die d).carveStarves c = true
      away i 5 true ∧ refused i 5 true (4 < c) 2 ∧ refused i 5 true (c ≤ 4 ∧ starved) 3 ∧
      served i 5 true (c ≤ 4 ∧ ¬ starved) (fun t => answered t 0 [] ∧ (t.die d).carve = c ∧ (∀ e ∈ (t.die d).l2, c ≤ e.way) ∧
        ∀ a, 0x400000000000 + d * 0x2000000 + (s.die d).carve * 0x800000 ≤ a → a < 0x400000000000 + d * 0x2000000 + c * 0x800000 →
          t.byteAt a = 0)) ∧
    (∀ (index : BitVec 3) (en : Bool) (asid : BitVec 12),
      let i : Instr := .retnGrant m die index en asid
      away i 5 true ∧ served i 5 true True (fun t =>
        answered t 0 [] ∧ SMap.get none (t.die d).grants index.toNat = if en then some asid else none)) ∧
    (∀ (entry : BitVec 12) (flipdom : BitVec 10) (map len : Word),
      let f := s.fatOf entry.toNat
      let target := setBits map 63 48 0
      let size := setBits len 63 20 0
      (let i : Instr := .fatSet m entry flipdom map len;
        away i 5 true ∧ served i 5 true True (fun t => answered t 0 [] ∧
          t.fatOf entry.toNat = if f.cur then { f with flipdom := flipdom, map1 := target, len1 := size }
                                else { f with flipdom := flipdom, map0 := target, len0 := size })) ∧
      (let i : Instr := .fatArm m entry map len;
        away i 5 true ∧ refused i 5 true (f.arm = true ∨ f.fwd = true) 3 ∧
        served i 5 true (f.arm = false ∧ f.fwd = false) (fun t => answered t 0 [] ∧
          t.fatOf entry.toNat = if f.cur then { f with arm := true, marks := [], map0 := target, len0 := size }
                                else { f with arm := true, marks := [], map1 := target, len1 := size }))) ∧
    (∀ id, away (.devidSet m id) 5 false ∧ refused (.devidSet m id) 5 false (s.devid.isSome = true) 3 ∧
      served (.devidSet m id) 5 false (s.devid = none) (fun t => answered t 0 [] ∧ t.devid = some id)) ∧
    (∀ point : BitVec 3,
      let i : Instr := .opSet m die point
      let going (t : State) : Prop := (m.sup = none → t.control = { s.control with go := true }) ∧
        ∀ k, m.sup = some k → t.control = s.control ∧ (t.die k.toNat).mail = { (s.die k.toNat).mail with go := true }
      let n := point.toNat
      away i 5 true ∧
      served i 5 true (∃ r, (s.die d).step = some r) (fun t => ∃ r, (t.die d).pending = (s.die d).pending ++ [r] ∧
        r.target = n ∧ r.mail = some m ∧ t = { s with dies := t.dies, control := t.control } ∧ going t) ∧
      refused i 5 true ((s.die d).step = none ∧ n = (s.die d).point) 0 ∧
      refused i 5 true ((s.die d).step = none ∧ n ≠ (s.die d).point ∧ s.unavailable d n = true) 3 ∧
      served i 5 true ((s.die d).step = none ∧ n ≠ (s.die d).point ∧ s.unavailable d n = false) (fun t => ∃ r,
        (t.die d).step = some r ∧ (t.die d).point = (s.die d).point ∧ r.target = n ∧ r.mail = some m ∧ r.moving = false ∧
        r.source = mailSource m ∧ t = { s with dies := t.dies, control := t.control } ∧ going t ∧
        r.wait = if (s.die d).point < n then s.micros d (centivolts n - centivolts (s.die d).point) else 0)) ∧
    (∀ units : BitVec 16,
      let i : Instr := .budget m die units
      let n := units.toNat
      let wrong : Prop := n < 600 ∨ 1400 < n ∨ 5200 < s.budgetSum d n + 770 ∨ (s.die d).point = 7 ∧ n < 1300
      away i 5 true ∧ refused i 5 true wrong 3 ∧
      served i 5 true (¬ wrong) (fun t => answered t 0 [] ∧ (t.die d).budget = n ∧
        (n ≠ (s.die d).budget → t.logged d 10 (mailSource m) 0 (BitVec.ofNat 64 d)) ∧ (n = (s.die d).budget → only t))) ∧
    bytes (.rowmapRead m die off len) 4 (fun j => s.mapNibble d (2 * j) + 16 * s.mapNibble d (2 * j + 1)) ∧
    bytes (.eventRead m die off len) 1 (s.die d).eventByte ∧
    bytes (.acctRead m die off len) 5 (fun j => s.acctDw d (j / 8) / 256 ^ (j % 8))

/-- Mailbox commands that act on contexts and masters (R333, R357, R360 to R373): KILL, THAW, the debugger's commands, IMAGE_MOVE,
DUMP and DUMP_READ. -/
def Obligations.MailboxControl : Prop :=
  ∀ (m : Mail) (id : BitVec 32) (c : Ctx) (s : State),
    let answered (t : State) (status : Nat) : Prop := ∃ data, s.mailDone t m status data
    let only (t : State) : Prop := s.mailOnly t
    let ok : Prop := s.mailServed m 5 true
    let away (i : Instr) : Prop := s.mailAway m 5 true i
    let does (i : Instr) (cond : Prop) (effect : State → Prop) : Prop := ok → cond → ∃ t, exec i s = .next t ∧ effect t
    let refused (i : Instr) (cond : Prop) (status : Nat) : Prop := does i cond (fun t => answered t status ∧ only t)
    let here : Prop := s.ctxOf id = some c ∧ c.id = id
    let awake (t : State) : Prop := t.ctx.id = id ∧ t.ctx.life = .resident ∧ t.ctx.x = c.x ∧ t.ctx.strands = c.strands ∧
      t.ctx.spad = c.spad ∧ t.ctx.queues = c.queues ∧ t.mem = s.mem
    (let i : Instr := .kill m (.ctx id);
      away i ∧ refused i (s.ctxOf id = none) 2 ∧
      does i here (fun t => answered t 0 ∧ t.ctx.id = id ∧ t.ctx.life = .ended ∧ t.ctxOf id = none ∧
        t.logged c.die 3 (mailSource m) 0x80000003 (BitVec.ofNat 64 id.toNat))) ∧
    refused (.kill m .host) True 2 ∧ (∀ p dev, refused (.kill m (.peer p dev)) True 2) ∧
    (let i : Instr := .thaw m (.ctx id);
      away i ∧ refused i (s.ctxOf id = none) 2 ∧ refused i (here ∧ c.life ≠ .frozen ∧ c.life ≠ .halted) 3 ∧
      does i (here ∧ c.life = .frozen) (fun t => answered t 0 ∧ t.ctx.id = id ∧ t.ctx.life = .resident ∧ t.ctx.x = c.x ∧
        t.ctx.strands = c.strands ∧ (c.csr.eng = false → awake t) ∧
        ∀ e < 4, ∀ h, c.csr.eng = true → c.held.get e = some h → h.delivered = true → h.after = false →
          h.ent.esn.toNat = c.csr.tesn.toNat → t.ctx.held.get e = none ∧ t.ctx.queues.get e = h.ent :: c.queues.get e) ∧
      does i (here ∧ c.life = .halted) (fun t => answered t 0 ∧ awake t ∧ t.ctx.steps = none)) ∧
    (let i : Instr := .thaw m .host;
      away i ∧ refused i (s.control.frozen = false) 3 ∧ does i (s.control.frozen = true) (fun t => answered t 0 ∧ t.control.frozen = false)) ∧
    (∀ (p : BitVec 4) (dev : BitVec 12), rising s.ports →
      let i : Instr := .thaw m (.peer p dev)
      away i ∧ refused i (dev ∉ (s.portOf p.toNat).frozen) 3 ∧
      does i (dev ∈ (s.portOf p.toNat).frozen) (fun t => answered t 0 ∧ ∀ v, v ∈ (t.portOf p.toNat).frozen ↔
        v ∈ (s.portOf p.toNat).frozen ∧ v ≠ dev)) ∧
    (let i : Instr := .thawMode1 m .host;
      away i ∧ refused i (s.control.frozen = false) 3 ∧ does i (s.control.frozen = true) (fun t => answered t 0 ∧ t.control.frozen = false)) ∧
    (∀ (p : BitVec 4) (dev : BitVec 12), rising s.ports →
      let i : Instr := .thawMode1 m (.peer p dev)
      away i ∧ refused i (dev ∉ (s.portOf p.toNat).frozen) 3 ∧
      does i (dev ∈ (s.portOf p.toNat).frozen) (fun t => answered t 0 ∧ ∀ v, v ∈ (t.portOf p.toNat).frozen ↔
        v ∈ (s.portOf p.toNat).frozen ∧ v ≠ dev)) ∧
    (let i : Instr := .thawMode1 m (.ctx id);
      away i ∧ refused i (s.ctxOf id = none) 2 ∧ refused i (here ∧ (c.life ≠ .frozen ∨ c.csr.act = true)) 3 ∧
      does i (here ∧ c.life = .frozen ∧ c.csr.act = false ∧ c.csr.vector ≠ 0) (fun t => answered t 0 ∧ t.ctx.id = id ∧
        t.ctx.life = .resident ∧ t.ctx.csr.act = true ∧ t.ctx.lockstep = true ∧ t.ctx.x = c.x ∧
        t.ctx.frame = some { strands := c.strands.map StrandSt.frame, lockstep := c.lockstep, after := c.pending (bitsOf c.csr.tstrand 1 0) } ∧
        ∀ j : Strand, (t.strand j).pc = c.csr.vector)) ∧
    (∀ (plate : BitVec 9) (en : Bool) (asid : BitVec 12) (who : Option (BitVec 32)), (s.plateOf plate.toNat).id = plate.toNat →
      let p := s.plateOf plate.toNat
      let q (t : State) : Plate := t.plateOf plate.toNat
      (∀ slot addr, rising p.ibps →
        let i : Instr := .dbgSet m plate (.instr slot en asid who addr)
        away i ∧ does i True (fun t => answered t 0 ∧
          SMap.get none (q t).ibps slot.toNat = if en then some { asid := asid, ctx := who, addr := addr } else none)) ∧
      (∀ slot spc esn, rising p.ebps →
        let i : Instr := .dbgSet m plate (.engine slot en asid who spc esn)
        away i ∧ does i True (fun t => answered t 0 ∧
          SMap.get none (q t).ebps slot.toNat = if en then some { asid := asid, ctx := who, spc := spc, esn := esn } else none)) ∧
      (∀ slot base len kinds trap, rising p.watches →
        let i : Instr := .dbgSet m plate (.watch slot en asid who base len kinds trap)
        away i ∧ refused i (2 ^ 32 < len.toNat) 2 ∧ does i (len.toNat ≤ 2 ^ 32) (fun t => answered t 0 ∧
          SMap.get none (q t).watches slot.toNat =
            if en then some { asid := asid, ctx := who, base := base, len := len.toNat, kinds := kinds, trap := trap } else none)) ∧
      (∀ base logsz kinds interval,
        let i : Instr := .dbgTrace m plate base logsz kinds interval
        let fits : Prop := 12 ≤ logsz.toNat ∧ logsz.toNat ≤ 24 ∧ 10 ≤ interval.toNat ∧ interval.toNat ≤ 24
        away i ∧ refused i (¬ fits) 2 ∧ does i fits (fun t => answered t 0 ∧ (q t).trace =
          some { base := base, logsz := logsz.toNat, kinds := kinds, interval := interval.toNat, widx := 0, lost := 0 }))) ∧
    (∀ (steps : BitVec 32) (es : Option Bool),
      let i : Instr := .dbgResume m id steps es
      away i ∧ refused i (s.ctxOf id = none) 2 ∧ refused i (here ∧ c.life ≠ .halted) 3 ∧
      does i (here ∧ c.life = .halted) (fun t => answered t 0 ∧ awake t ∧
        t.ctx.steps = (if steps = 0 then none else some steps.toNat) ∧ t.ctx.engstep = es.getD c.engstep)) ∧
    (∀ u : Upset,
      let i : Instr := .dbgInject m id u
      away i ∧ refused i (s.ctxOf id = none) 2 ∧ refused i (here ∧ c.task.mode ≠ 2) 3 ∧
      refused i (here ∧ c.task.mode = 2 ∧ arrayOwner u.array ≠ some id) 2 ∧
      does i (here ∧ c.task.mode = 2 ∧ arrayOwner u.array = some id) (fun t => answered t 0 ∧ t.mem = s.mem ∧
        (u.double = false → u.array ∉ s.soft → u.array ∈ t.soft) ∧
        (u.double = true → (∀ off, u.array = .regcache id off →
          s.allPlates.any (fun p => p.rcache.any (fun e => e.ctx == id && e.line == off / 256)) = true) → u.array ∈ t.bad))) ∧
    (∀ (group : List (BitVec 12)) (ranges : List (Word × Word)) (keep : Bool),
      let i : Instr := .dump m group ranges keep
      let busy : Prop := ∃ p, s.dump = some p ∧ p.past = false
      away i ∧ refused i (16 < ranges.length) 2 ∧ refused i (ranges.length ≤ 16 ∧ busy) 3 ∧
      refused i (ranges.length ≤ 16 ∧ ¬ busy ∧ s.devId ∉ group) 0 ∧
      does i (ranges.length ≤ 16 ∧ ¬ busy ∧ s.devId ∈ group) (fun t =>
        t = { s with dump := t.dump, control := t.control, dies := t.dies } ∧ (m.sup = none → t.control = { s.control with go := true }) ∧
        (∀ k, m.sup = some k → t.control = s.control ∧ (t.die k.toNat).mail = { (s.die k.toNat).mail with go := true }) ∧ ∃ p, t.dump = some p ∧
        p.group = group ∧ p.keep = keep ∧ p.ranges = ranges ∧ p.mail = some m ∧ p.past = false ∧ p.recorded = [] ∧ p.logs = [])) ∧
    (∀ (die : BitVec 2) (off len : BitVec 32),
      let i : Instr := .dumpRead m die off len
      away i ∧ refused i (∀ p, s.dump = some p → p.has die.toNat = false) 3 ∧
      does i (∃ p, s.dump = some p ∧ p.has die.toNat = true) (fun t => answered t 0 ∧ t.dump = s.dump ∧ t.mem = s.mem ∧ t.ctx = s.ctx)) ∧
    ∀ (dev : BitVec 12) (die : BitVec 2),
      let i : Instr := .imageMove m id dev die
      away i ∧ refused i (s.ctxOf id = none) 2 ∧ refused i (here ∧ c.life ≠ .saved) 3 ∧
      does i (here ∧ c.life = .saved ∧ dev ≠ s.devId) (fun t => answered t 0 ∧ t.ctxOf id = none ∧ id ∉ (t.die c.die).saved) ∧
      refused i (here ∧ c.life = .saved ∧ dev = s.devId ∧ c.die = die.toNat) 0 ∧
      refused i (here ∧ c.life = .saved ∧ dev = s.devId ∧ c.die ≠ die.toNat ∧ 1024 ≤ (s.die die.toNat).areas) 3 ∧
      does i (here ∧ c.life = .saved ∧ dev = s.devId ∧ c.die < 4 ∧ c.die ≠ die.toNat ∧ (s.die die.toNat).areas < 1024) (fun t =>
        answered t 0 ∧ t.ctxOf id = some { c with die := die.toNat } ∧ id ∈ (t.die die.toNat).saved ∧ id ∉ (t.die c.die).saved)

/-- The host's own inputs and the staged start (R7, R11, R34, R268, R374, R375, R379 to R381): the queue's tail and entries, the
control page, the resets, and the stages up to service. -/
def Obligations.HostInputs : Prop :=
  ∀ s : State,
    (∀ (v : BitVec 32) (n : BitVec 10) (e : List Word), e ≠ [] →
      ∃ t, exec (.hqTailWrite v [(n, e)]) s = .next t ∧ t.control.hqTail = v ∧ SMap.get [] t.hq n.toNat = e ∧
        t.control.qovf = decide (1024 < (v - s.control.hqHead).toNat) ∧ t = { s with hq := t.hq, control := t.control }) ∧
    (∀ v : Word,
      (∃ t, exec (.controlPageWrite 0x008 v) s = .next t ∧ t = { s with control := t.control } ∧
        t.control.done = (s.control.done && !(bitOf v 1)) ∧
        t.control.go = (s.control.go || bitOf v 0) ∧
        t.control.ovr = ((s.control.ovr && !(bitOf v 2)) || (bitOf v 0 && s.control.go))) ∧
      (∃ t, exec (.controlPageWrite 0x010 v) s = .next t ∧ t.control.hqTail = v.setWidth 32 ∧
        t.control.qovf = decide (1024 < (v.setWidth 32 - s.control.hqHead).toNat) ∧ t = { s with control := t.control }) ∧
      (s.control.stage = 5 → exec (.controlPageWrite 0x020 v) s = .next { s with control := { s.control with en := bitOf v 0 } }) ∧
      (s.control.stage ≠ 5 → exec (.controlPageWrite 0x020 v) s = .next s) ∧
      ∀ off : BitVec 12, off ≠ 0x008 → off ≠ 0x010 → off ≠ 0x020 → exec (.controlPageWrite off v) s = .next s) ∧
    (∃ t, exec .functionLevelReset s = .next t ∧ t.control = { s.control with go := false, done := false, ovr := false } ∧
      (rising s.resp → SMap.get none t.resp 0 = none) ∧ (∀ k, k ≠ 0 → rising s.resp → SMap.get none t.resp k = SMap.get none s.resp k) ∧
      t.ctx = s.ctx ∧ t.mem = s.mem ∧ ∀ d : BitVec 2, ∀ r, (s.die d.toNat).step = some r →
        ∃ q, (t.die d.toNat).step = some q ∧ q = { r with mail := q.mail } ∧ (∀ k, q.mail = some k → r.mail = some k ∧ k.sup.isSome = true)) ∧
    (∃ t, exec .powerOnReset s = .next t ∧ t.mem = [] ∧ t.ctx = Ctx.blank ∧ t.ctxs = [] ∧ t.dies = State.reset.dies ∧ t.cycle = 0 ∧
      t.ident.fuses = s.ident.fuses ∧ t.ident.slotA = s.ident.slotA ∧ t.ident.slotB = s.ident.slotB ∧
      t.ident.m.q0 = extend 0 Config.romDigest ∧
      (let ok (b : Bool) : Prop := s.imageOk (s.slotImage b) = true;
        (ok false → t.control.stage = 1 ∧ t.control.slot = false ∧ t.control.dieok = 15) ∧
        (¬ ok false → ok true → t.control.stage = 1 ∧ t.control.slot = true ∧ t.control.dieok = 15) ∧
        (ok false ∨ ok true → t.ident.m.q1 = extend 0 (Config.sha3 t.imageInUse.body)) ∧
        (¬ ok false → ¬ ok true → t.control.stage = 15))) ∧
    (∀ passed : BitVec 4,
      (s.control.stage ≠ 1 → s.control.stage ≠ 2 → exec (.hbmTraining passed) s = .next s) ∧
      (s.control.stage = 1 ∨ s.control.stage = 2 →
        (passed = 15 → exec (.hbmTraining passed) s = .next { s with control := { s.control with stage := 3 } }) ∧
        (passed ≠ 15 → ∃ t d, exec (.hbmTraining passed) s = .next t ∧ t = { s with control := t.control } ∧ t.control.stage = 15 ∧ d < 4 ∧
          passed.getLsbD d = false ∧ t.control.fcode = BitVec.ofNat 8 (0x10 + d) ∧ t.control.dieok.getLsbD d = false))) ∧
    (s.control.stage ≠ 3 → ∀ fails, exec (.rowTesting fails) s = .next s) ∧
    (s.control.stage = 3 → ∀ fails : List RowFail,
      let u := fails.foldl State.mapRow s
      let pass : Prop := ∀ d < 4, u.dieFails fails d = false
      ∃ t, exec (.rowTesting fails) s = .next t ∧ t.plate = u.plate ∧ t.plates = u.plates ∧ t.dies = u.dies ∧ t.mem = s.mem ∧
        (pass → t.control.stage = 4) ∧ (¬ pass → t.control.stage = 15 ∧ ∃ d < 4, t.control.fcode = BitVec.ofNat 8 (0x20 + d))) ∧
    (s.control.stage ≠ 4 → ∀ bind, exec (.plateBinding bind) s = .next s) ∧
    (∀ bind : List (BitVec 9 × BitVec 8), s.control.stage = 4 →
      ∃ t, exec (.plateBinding bind) s = .next t ∧ t.control.stage = 5 ∧ t.jseq = 1 ∧ (∀ d : BitVec 2, (t.die d.toNat).point = 6) ∧
        t.mem = s.mem ∧ t.ctx = s.ctx ∧
        (rising s.plates → (∀ p < 512, (s.plateOf p).id = p) → ∀ d < 4, ∀ i < 128,
          let at_ (j : Nat) : Option Nat := (t.plateOf (128 * d + j)).bound
          (t.plateOf (128 * d + i)).lfsr = lfsrSeed (128 * d + i) ∧ (∃ ph < 132, at_ i = some ph) ∧ (∀ j < 128, j ≠ i → at_ j ≠ at_ i) ∧
          ∀ ph < 132, bindNamed bind d i = some ph → (∀ j < i, at_ j ≠ some ph) → at_ i = some ph)) ∧
    (s.hqDue = false → exec .enqueue s = .next s) ∧
    (s.hqDue = true →
      let n := s.control.hqHead
      let e := SMap.get [] s.hq (n.toNat % 1024)
      let taken (t : State) (status : BitVec 32) : Prop := t.control.hqHead = n + 1 ∧ t.logged 0 7 0 status (n.setWidth 64) ∧
        (t.msix.get 1).waiting = true ∧ t.ctx = s.ctx ∧ t.mem = s.mem
      (s.judgeEntry e = .unreadable → exec .enqueue s = .next { s with control := { s.control with frozen := true } }) ∧
      (s.judgeEntry e = .full → exec .enqueue s = .next s) ∧
      (s.judgeEntry e = .invalid → ∃ t, exec .enqueue s = .next t ∧ taken t 2 ∧ t.dies.map (fun (d : Die) => d.queues) = s.dies.map (fun (d : Die) => d.queues)) ∧
      ∀ d k va, s.judgeEntry e = .valid d k va → ∃ t, exec .enqueue s = .next t ∧ taken t 0 ∧ t.logged d 1 0 0 va ∧
        (k.spg ≤ s.maxSpcap d → k.ins = [] → ∃ q ∈ SMap.get [] (t.die d).queues k.queue, q.task = k ∧ q.addr = va ∧ q.st = .ready))

/-! ### The step, reset and invariants (04, 05, 17) -/

/-- A step runs the decoded instruction (R52, R53, R55, R92): at the turn of an apart strand whose word lies at its pc, decodes and
is held by nothing, the step is exec of that word in the state its fetch leaves, with the turn moved on, unless it would trap or leave
before others have acted; in lock-step it is BUNDLE_ISSUE; an input is taken first, before service the next part of the staged start,
and after a failure time passes. -/
def Obligations.StepRunsDecoded : Prop :=
  ∀ s : State,
    (∀ i, s.nextInput = some i → step s = exec i { s with inbox := s.inbox.erase i }) ∧
    (s.nextInput = none → s.control.stage < 5 → step s = exec (bootRow s.control.stage) s) ∧
    (s.nextInput = none → s.control.stage = 15 → step s = .next { s with cycle := s.cycle + 1 }) ∧
    (let p := s.plate.id
      let turn (n : Nat) : Prop := s.nextInput = none ∧ s.control.stage = 5 ∧ s.phase = .plate p n ∧ s.ctx.plate = p ∧
        s.plate.active = some s.ctx.id ∧ s.plate.charged = false ∧ s.heldFor = none ∧ s.oldFault n = none
      (∀ (n : Nat) (k : Strand) (u : State) (i : Instr),
        let v := if n = 8 then s.chargeJoined else s
        turn n → s.ctx.lockstep = false → strandTurn n = some k → (n = 9 → s.sFirst = true) → (n = 12 → s.sDone = false) →
        (s.strand k).joined = false → s.ctx.ending = false → s.untouched k = true → s.instrStop (s.strand k).pc = none →
        (v.moreTurns n = true → (v.trial k).parts = false) → v.staleStrand ≠ some k → v.apartWord k = .ok (u, i) →
        step s = exec i { u with phase := .plate p (n + 1), sDone := s.sDone || n == 9 }) ∧
      (turn 7 → s.ctx.lockstep = false → step s = .next { s.groupTurn with phase := .plate p 8, sDone := s.sDone }) ∧
      (turn 8 → s.ctx.lockstep = true → (∀ e < 4, s.plate.running.get e = []) ∨ s.bundleTraps = false → s.instrStop (s.strand .c).pc = none → s.staleStrand = none →
        s.endRow .bundleIssue = .bundleIssue → step s = exec .bundleIssue { s with phase := .plate p 13 })) ∧
    (∀ (k : Strand) (t : State) (w : BitVec 32) (i : Instr),
      let v := (s.mctx (fun c => { c with cur := k })).bump
      let pc := (s.strand k).pc
      pc.toNat % 4 = 0 → v.fetchWord pc = .word t w → decodeWord w.toNat = .ok i → s.apartWord k = .ok (t, i)) ∧
    ∀ (va : Word) (u : State) (x : Xlat), inWindow va.toNat = false →
      s.xlate s.ctx.space.asid s.ctx.space.root va.toNat = .ok (u, x) → x.forbids (u.ctx.space.priv == .u) .fetch = false →
      (∀ w, SMap.get none u.plate.icache x.pa = some w → Config.freeBit u.fresh (8192 + x.pa) = true → s.fetchWord va = .word u w) ∧
      (SMap.get none u.plate.icache x.pa = none → u.eccFault { va := va.toNat, len := 4, tgt := .mem x } false = false →
        ∀ t n hit, u.readPiece { va := va.toNat, len := 4, tgt := .mem x } 0 0 = .val t n hit →
          ∃ r, s.fetchWord va = .word r (BitVec.ofNat 32 n) ∧ SMap.get none r.plate.icache x.pa = some (BitVec.ofNat 32 n) ∧ r.mem = t.mem)

/-- Words of the spec's encoding tables decode to what they stand for (R49 to R52, R81 to R87), and two that no row admits do not. -/
def Obligations.DecodeWords : Prop :=
  decodeWord 0x2C028040 = .ok (.li ⟨0, false⟩ 5 0x40) ∧
  decodeWord 0x00061858 = .ok (.add ⟨0, false⟩ 12 12 11) ∧
  decodeWord 0x12038A01 = .ok (.addi ⟨8, false⟩ 7 5 1) ∧
  decodeWord 0x3C0428C8 = .ok (.cmp ⟨0, false⟩ 2 5 6 2 0) ∧
  decodeWord 0x5C028203 = .ok (.ld ⟨0, false⟩ 5 1 0 0 3) ∧
  decodeWord 0xC4C30040 = .ok (.stamp 1 12 3 0x40) ∧
  decodeWord 0xB8000123 = .ok (.trap ⟨0, false⟩ 0x123) ∧
  (decodeWord 0xBC000000).toOption = none ∧ (decodeWord 0x08000007).toOption = none

/-- The state after power-on reset: the values that the spec gives (R7, R14, R231, R266, R286, R287, R303, R338, R375, R377, R380), and
where it gives none the model's choices: memory that reads 0 everywhere (log entry 1); no carved ways, grant entries, queue bindings,
breakpoints or trace, and no device identifier (log entry 8). -/
def Obligations.ResetValues : Prop :=
  let s := State.reset
  s.cycle = 0 ∧ s.control = { stage := 0, dieok := 0, fcode := 0, slot := false, go := false, done := false, ovr := false, hqTail := 0, hqHead := 0, en := false, frozen := false, qovf := false } ∧
  (∀ d < 4, (s.die d).id = d ∧ (s.die d).point = 6 ∧ (s.die d).budget = 1100 ∧ (s.die d).units = 0 ∧ (s.die d).carve = 0 ∧
    (s.die d).mail = { go := false, done := false, ovr := false } ∧
    (s.die d).journal = [] ∧ (s.die d).events = [] ∧ (∀ n, SMap.get none (s.die d).grants n = none) ∧
    (∀ n, (SMap.get Retn.blank (s.die d).retn n).v = false) ∧ (∀ q, SMap.get none (s.die d).bind q = none) ∧
    ∀ r, SMap.get 0 (s.die d).mirror r = 0) ∧
  (∀ n, polV (s.policyOf n) = false) ∧ (s.region 0).entry = 1 ∧ (∀ r, r ≠ 0 → (s.region r).entry = 0) ∧ (∀ r, (s.region r).round = 0) ∧
  (∀ e, (s.fatOf e).arm = false ∧ (s.fatOf e).fwd = false ∧ ∀ g, bitOf ((s.fatOf e).map g) 0 = false) ∧ s.devid = none ∧
  (∀ p, (s.plateOf p).trace = none ∧ (s.plateOf p).active = none ∧ ∀ i, SMap.get none (s.plateOf p).ibps i = none) ∧
  (∀ a b, s.linkOf a b = Link.init) ∧ (∀ k, SMap.get none s.resp k = none) ∧ s.allCtxs = [] ∧ (∀ pa, s.byteAt pa = 0) ∧ s.memWf ∧ s.ordered

/-- Every step keeps the canonical form of memory: addresses strictly rising, no listed byte equal to what an unlisted address
reads as. -/
def Obligations.MemoryStaysCanonical : Prop :=
  ∀ s t : State, s.memWf → step s = .next t → t.memWf

/-- Every step keeps the tables of the machine in order. -/
def Obligations.TablesStayOrdered : Prop :=
  ∀ s t : State, s.ordered → step s = .next t → t.ordered

/-- No instruction stops the machine, and every step answers a next state, after a failure of the start or a hardware trip too: the
plates are stopped then, and inputs alone are served (R380, R385). -/
def Obligations.EveryStepAnswers : Prop :=
  (∀ (i : Instr) (s : State), ∃ t, exec i s = .next t) ∧
  (∀ s : State, ∃ t, step s = .next t) ∧
  ∀ s : State, s.control.stage = 15 → s.nextInput = none → ∃ t, step s = .next t ∧ t = { s with cycle := t.cycle } ∧ s.cycle < t.cycle
end

