-- ==== Sys2Proof/Laws/State.lean ====
section
/-! SUPPORT. What the shared updates of the state leave and change: one lemma per field and update, each by definition. -/

namespace Sys2Proof.Machine

@[simp] theorem State.mctx_ctx (s : State) (f : Ctx → Ctx) : (s.mctx f).ctx = f s.ctx := rfl
@[simp] theorem State.mctx_plate (s : State) (f : Ctx → Ctx) : (s.mctx f).plate = s.plate := rfl
@[simp] theorem State.mctx_ctxs (s : State) (f : Ctx → Ctx) : (s.mctx f).ctxs = s.ctxs := rfl
@[simp] theorem State.mctx_plates (s : State) (f : Ctx → Ctx) : (s.mctx f).plates = s.plates := rfl
@[simp] theorem State.mctx_dies (s : State) (f : Ctx → Ctx) : (s.mctx f).dies = s.dies := rfl
@[simp] theorem State.mctx_mem (s : State) (f : Ctx → Ctx) : (s.mctx f).mem = s.mem := rfl
@[simp] theorem State.mctx_poison (s : State) (f : Ctx → Ctx) : (s.mctx f).poison = s.poison := rfl
@[simp] theorem State.mctx_bad (s : State) (f : Ctx → Ctx) : (s.mctx f).bad = s.bad := rfl
@[simp] theorem State.mctx_soft (s : State) (f : Ctx → Ctx) : (s.mctx f).soft = s.soft := rfl
@[simp] theorem State.mctx_barriers (s : State) (f : Ctx → Ctx) : (s.mctx f).barriers = s.barriers := rfl
@[simp] theorem State.mctx_writers (s : State) (f : Ctx → Ctx) : (s.mctx f).writers = s.writers := rfl
@[simp] theorem State.mctx_regions (s : State) (f : Ctx → Ctx) : (s.mctx f).regions = s.regions := rfl
@[simp] theorem State.mctx_policy (s : State) (f : Ctx → Ctx) : (s.mctx f).policy = s.policy := rfl
@[simp] theorem State.mctx_domains (s : State) (f : Ctx → Ctx) : (s.mctx f).domains = s.domains := rfl
@[simp] theorem State.mctx_fat (s : State) (f : Ctx → Ctx) : (s.mctx f).fat = s.fat := rfl
@[simp] theorem State.mctx_devid (s : State) (f : Ctx → Ctx) : (s.mctx f).devid = s.devid := rfl
@[simp] theorem State.mctx_jseq (s : State) (f : Ctx → Ctx) : (s.mctx f).jseq = s.jseq := rfl
@[simp] theorem State.mctx_control (s : State) (f : Ctx → Ctx) : (s.mctx f).control = s.control := rfl
@[simp] theorem State.mctx_resp (s : State) (f : Ctx → Ctx) : (s.mctx f).resp = s.resp := rfl
@[simp] theorem State.mctx_spoilt (s : State) (f : Ctx → Ctx) : (s.mctx f).spoilt = s.spoilt := rfl
@[simp] theorem State.mctx_hq (s : State) (f : Ctx → Ctx) : (s.mctx f).hq = s.hq := rfl
@[simp] theorem State.mctx_ident (s : State) (f : Ctx → Ctx) : (s.mctx f).ident = s.ident := rfl
@[simp] theorem State.mctx_net (s : State) (f : Ctx → Ctx) : (s.mctx f).net = s.net := rfl
@[simp] theorem State.mctx_ports (s : State) (f : Ctx → Ctx) : (s.mctx f).ports = s.ports := rfl
@[simp] theorem State.mctx_colls (s : State) (f : Ctx → Ctx) : (s.mctx f).colls = s.colls := rfl
@[simp] theorem State.mctx_props (s : State) (f : Ctx → Ctx) : (s.mctx f).props = s.props := rfl
@[simp] theorem State.mctx_farShares (s : State) (f : Ctx → Ctx) : (s.mctx f).farShares = s.farShares := rfl
@[simp] theorem State.mctx_fires (s : State) (f : Ctx → Ctx) : (s.mctx f).fires = s.fires := rfl
@[simp] theorem State.mctx_contribs (s : State) (f : Ctx → Ctx) : (s.mctx f).contribs = s.contribs := rfl
@[simp] theorem State.mctx_closing (s : State) (f : Ctx → Ctx) : (s.mctx f).closing = s.closing := rfl
@[simp] theorem State.mctx_recStores (s : State) (f : Ctx → Ctx) : (s.mctx f).recStores = s.recStores := rfl
@[simp] theorem State.mctx_pushes (s : State) (f : Ctx → Ctx) : (s.mctx f).pushes = s.pushes := rfl
@[simp] theorem State.mctx_contins (s : State) (f : Ctx → Ctx) : (s.mctx f).contins = s.contins := rfl
@[simp] theorem State.mctx_dump (s : State) (f : Ctx → Ctx) : (s.mctx f).dump = s.dump := rfl
@[simp] theorem State.mctx_msix (s : State) (f : Ctx → Ctx) : (s.mctx f).msix = s.msix := rfl
@[simp] theorem State.mctx_cycle (s : State) (f : Ctx → Ctx) : (s.mctx f).cycle = s.cycle := rfl
@[simp] theorem State.mctx_fresh (s : State) (f : Ctx → Ctx) : (s.mctx f).fresh = s.fresh := rfl
@[simp] theorem State.mctx_inbox (s : State) (f : Ctx → Ctx) : (s.mctx f).inbox = s.inbox := rfl
@[simp] theorem State.mctx_phase (s : State) (f : Ctx → Ctx) : (s.mctx f).phase = s.phase := rfl
@[simp] theorem State.mctx_sDone (s : State) (f : Ctx → Ctx) : (s.mctx f).sDone = s.sDone := rfl
@[simp] theorem State.mctx_late (s : State) (f : Ctx → Ctx) : (s.mctx f).late = s.late := rfl
@[simp] theorem State.mctx_grouped (s : State) (f : Ctx → Ctx) : (s.mctx f).grouped = s.grouped := rfl
@[simp] theorem State.mctx_window (s : State) (f : Ctx → Ctx) : (s.mctx f).window = s.window := rfl
@[simp] theorem State.mctx_bundle (s : State) (f : Ctx → Ctx) : (s.mctx f).bundle = s.bundle := rfl
@[simp] theorem State.mctx_event (s : State) (f : Ctx → Ctx) : (s.mctx f).event = s.event := rfl

@[simp] theorem State.mcsr_ctx (s : State) (f : Csrs → Csrs) : (s.mcsr f).ctx = { s.ctx with csr := f s.ctx.csr } := rfl
@[simp] theorem State.mcsr_plate (s : State) (f : Csrs → Csrs) : (s.mcsr f).plate = s.plate := rfl
@[simp] theorem State.mcsr_ctxs (s : State) (f : Csrs → Csrs) : (s.mcsr f).ctxs = s.ctxs := rfl
@[simp] theorem State.mcsr_plates (s : State) (f : Csrs → Csrs) : (s.mcsr f).plates = s.plates := rfl
@[simp] theorem State.mcsr_dies (s : State) (f : Csrs → Csrs) : (s.mcsr f).dies = s.dies := rfl
@[simp] theorem State.mcsr_mem (s : State) (f : Csrs → Csrs) : (s.mcsr f).mem = s.mem := rfl
@[simp] theorem State.mcsr_poison (s : State) (f : Csrs → Csrs) : (s.mcsr f).poison = s.poison := rfl
@[simp] theorem State.mcsr_bad (s : State) (f : Csrs → Csrs) : (s.mcsr f).bad = s.bad := rfl
@[simp] theorem State.mcsr_soft (s : State) (f : Csrs → Csrs) : (s.mcsr f).soft = s.soft := rfl
@[simp] theorem State.mcsr_barriers (s : State) (f : Csrs → Csrs) : (s.mcsr f).barriers = s.barriers := rfl
@[simp] theorem State.mcsr_writers (s : State) (f : Csrs → Csrs) : (s.mcsr f).writers = s.writers := rfl
@[simp] theorem State.mcsr_regions (s : State) (f : Csrs → Csrs) : (s.mcsr f).regions = s.regions := rfl
@[simp] theorem State.mcsr_policy (s : State) (f : Csrs → Csrs) : (s.mcsr f).policy = s.policy := rfl
@[simp] theorem State.mcsr_domains (s : State) (f : Csrs → Csrs) : (s.mcsr f).domains = s.domains := rfl
@[simp] theorem State.mcsr_fat (s : State) (f : Csrs → Csrs) : (s.mcsr f).fat = s.fat := rfl
@[simp] theorem State.mcsr_devid (s : State) (f : Csrs → Csrs) : (s.mcsr f).devid = s.devid := rfl
@[simp] theorem State.mcsr_jseq (s : State) (f : Csrs → Csrs) : (s.mcsr f).jseq = s.jseq := rfl
@[simp] theorem State.mcsr_control (s : State) (f : Csrs → Csrs) : (s.mcsr f).control = s.control := rfl
@[simp] theorem State.mcsr_resp (s : State) (f : Csrs → Csrs) : (s.mcsr f).resp = s.resp := rfl
@[simp] theorem State.mcsr_spoilt (s : State) (f : Csrs → Csrs) : (s.mcsr f).spoilt = s.spoilt := rfl
@[simp] theorem State.mcsr_hq (s : State) (f : Csrs → Csrs) : (s.mcsr f).hq = s.hq := rfl
@[simp] theorem State.mcsr_ident (s : State) (f : Csrs → Csrs) : (s.mcsr f).ident = s.ident := rfl
@[simp] theorem State.mcsr_net (s : State) (f : Csrs → Csrs) : (s.mcsr f).net = s.net := rfl
@[simp] theorem State.mcsr_ports (s : State) (f : Csrs → Csrs) : (s.mcsr f).ports = s.ports := rfl
@[simp] theorem State.mcsr_colls (s : State) (f : Csrs → Csrs) : (s.mcsr f).colls = s.colls := rfl
@[simp] theorem State.mcsr_props (s : State) (f : Csrs → Csrs) : (s.mcsr f).props = s.props := rfl
@[simp] theorem State.mcsr_farShares (s : State) (f : Csrs → Csrs) : (s.mcsr f).farShares = s.farShares := rfl
@[simp] theorem State.mcsr_fires (s : State) (f : Csrs → Csrs) : (s.mcsr f).fires = s.fires := rfl
@[simp] theorem State.mcsr_contribs (s : State) (f : Csrs → Csrs) : (s.mcsr f).contribs = s.contribs := rfl
@[simp] theorem State.mcsr_closing (s : State) (f : Csrs → Csrs) : (s.mcsr f).closing = s.closing := rfl
@[simp] theorem State.mcsr_recStores (s : State) (f : Csrs → Csrs) : (s.mcsr f).recStores = s.recStores := rfl
@[simp] theorem State.mcsr_pushes (s : State) (f : Csrs → Csrs) : (s.mcsr f).pushes = s.pushes := rfl
@[simp] theorem State.mcsr_contins (s : State) (f : Csrs → Csrs) : (s.mcsr f).contins = s.contins := rfl
@[simp] theorem State.mcsr_dump (s : State) (f : Csrs → Csrs) : (s.mcsr f).dump = s.dump := rfl
@[simp] theorem State.mcsr_msix (s : State) (f : Csrs → Csrs) : (s.mcsr f).msix = s.msix := rfl
@[simp] theorem State.mcsr_cycle (s : State) (f : Csrs → Csrs) : (s.mcsr f).cycle = s.cycle := rfl
@[simp] theorem State.mcsr_fresh (s : State) (f : Csrs → Csrs) : (s.mcsr f).fresh = s.fresh := rfl
@[simp] theorem State.mcsr_inbox (s : State) (f : Csrs → Csrs) : (s.mcsr f).inbox = s.inbox := rfl
@[simp] theorem State.mcsr_phase (s : State) (f : Csrs → Csrs) : (s.mcsr f).phase = s.phase := rfl
@[simp] theorem State.mcsr_sDone (s : State) (f : Csrs → Csrs) : (s.mcsr f).sDone = s.sDone := rfl
@[simp] theorem State.mcsr_late (s : State) (f : Csrs → Csrs) : (s.mcsr f).late = s.late := rfl
@[simp] theorem State.mcsr_grouped (s : State) (f : Csrs → Csrs) : (s.mcsr f).grouped = s.grouped := rfl
@[simp] theorem State.mcsr_window (s : State) (f : Csrs → Csrs) : (s.mcsr f).window = s.window := rfl
@[simp] theorem State.mcsr_bundle (s : State) (f : Csrs → Csrs) : (s.mcsr f).bundle = s.bundle := rfl
@[simp] theorem State.mcsr_event (s : State) (f : Csrs → Csrs) : (s.mcsr f).event = s.event := rfl

@[simp] theorem State.mplate_ctx (s : State) (f : Plate → Plate) : (s.mplate f).ctx = s.ctx := rfl
@[simp] theorem State.mplate_plate (s : State) (f : Plate → Plate) : (s.mplate f).plate = f s.plate := rfl
@[simp] theorem State.mplate_ctxs (s : State) (f : Plate → Plate) : (s.mplate f).ctxs = s.ctxs := rfl
@[simp] theorem State.mplate_plates (s : State) (f : Plate → Plate) : (s.mplate f).plates = s.plates := rfl
@[simp] theorem State.mplate_dies (s : State) (f : Plate → Plate) : (s.mplate f).dies = s.dies := rfl
@[simp] theorem State.mplate_mem (s : State) (f : Plate → Plate) : (s.mplate f).mem = s.mem := rfl
@[simp] theorem State.mplate_poison (s : State) (f : Plate → Plate) : (s.mplate f).poison = s.poison := rfl
@[simp] theorem State.mplate_bad (s : State) (f : Plate → Plate) : (s.mplate f).bad = s.bad := rfl
@[simp] theorem State.mplate_soft (s : State) (f : Plate → Plate) : (s.mplate f).soft = s.soft := rfl
@[simp] theorem State.mplate_barriers (s : State) (f : Plate → Plate) : (s.mplate f).barriers = s.barriers := rfl
@[simp] theorem State.mplate_writers (s : State) (f : Plate → Plate) : (s.mplate f).writers = s.writers := rfl
@[simp] theorem State.mplate_regions (s : State) (f : Plate → Plate) : (s.mplate f).regions = s.regions := rfl
@[simp] theorem State.mplate_policy (s : State) (f : Plate → Plate) : (s.mplate f).policy = s.policy := rfl
@[simp] theorem State.mplate_domains (s : State) (f : Plate → Plate) : (s.mplate f).domains = s.domains := rfl
@[simp] theorem State.mplate_fat (s : State) (f : Plate → Plate) : (s.mplate f).fat = s.fat := rfl
@[simp] theorem State.mplate_devid (s : State) (f : Plate → Plate) : (s.mplate f).devid = s.devid := rfl
@[simp] theorem State.mplate_jseq (s : State) (f : Plate → Plate) : (s.mplate f).jseq = s.jseq := rfl
@[simp] theorem State.mplate_control (s : State) (f : Plate → Plate) : (s.mplate f).control = s.control := rfl
@[simp] theorem State.mplate_resp (s : State) (f : Plate → Plate) : (s.mplate f).resp = s.resp := rfl
@[simp] theorem State.mplate_spoilt (s : State) (f : Plate → Plate) : (s.mplate f).spoilt = s.spoilt := rfl
@[simp] theorem State.mplate_hq (s : State) (f : Plate → Plate) : (s.mplate f).hq = s.hq := rfl
@[simp] theorem State.mplate_ident (s : State) (f : Plate → Plate) : (s.mplate f).ident = s.ident := rfl
@[simp] theorem State.mplate_net (s : State) (f : Plate → Plate) : (s.mplate f).net = s.net := rfl
@[simp] theorem State.mplate_ports (s : State) (f : Plate → Plate) : (s.mplate f).ports = s.ports := rfl
@[simp] theorem State.mplate_colls (s : State) (f : Plate → Plate) : (s.mplate f).colls = s.colls := rfl
@[simp] theorem State.mplate_props (s : State) (f : Plate → Plate) : (s.mplate f).props = s.props := rfl
@[simp] theorem State.mplate_farShares (s : State) (f : Plate → Plate) : (s.mplate f).farShares = s.farShares := rfl
@[simp] theorem State.mplate_fires (s : State) (f : Plate → Plate) : (s.mplate f).fires = s.fires := rfl
@[simp] theorem State.mplate_contribs (s : State) (f : Plate → Plate) : (s.mplate f).contribs = s.contribs := rfl
@[simp] theorem State.mplate_closing (s : State) (f : Plate → Plate) : (s.mplate f).closing = s.closing := rfl
@[simp] theorem State.mplate_recStores (s : State) (f : Plate → Plate) : (s.mplate f).recStores = s.recStores := rfl
@[simp] theorem State.mplate_pushes (s : State) (f : Plate → Plate) : (s.mplate f).pushes = s.pushes := rfl
@[simp] theorem State.mplate_contins (s : State) (f : Plate → Plate) : (s.mplate f).contins = s.contins := rfl
@[simp] theorem State.mplate_dump (s : State) (f : Plate → Plate) : (s.mplate f).dump = s.dump := rfl
@[simp] theorem State.mplate_msix (s : State) (f : Plate → Plate) : (s.mplate f).msix = s.msix := rfl
@[simp] theorem State.mplate_cycle (s : State) (f : Plate → Plate) : (s.mplate f).cycle = s.cycle := rfl
@[simp] theorem State.mplate_fresh (s : State) (f : Plate → Plate) : (s.mplate f).fresh = s.fresh := rfl
@[simp] theorem State.mplate_inbox (s : State) (f : Plate → Plate) : (s.mplate f).inbox = s.inbox := rfl
@[simp] theorem State.mplate_phase (s : State) (f : Plate → Plate) : (s.mplate f).phase = s.phase := rfl
@[simp] theorem State.mplate_sDone (s : State) (f : Plate → Plate) : (s.mplate f).sDone = s.sDone := rfl
@[simp] theorem State.mplate_late (s : State) (f : Plate → Plate) : (s.mplate f).late = s.late := rfl
@[simp] theorem State.mplate_grouped (s : State) (f : Plate → Plate) : (s.mplate f).grouped = s.grouped := rfl
@[simp] theorem State.mplate_window (s : State) (f : Plate → Plate) : (s.mplate f).window = s.window := rfl
@[simp] theorem State.mplate_bundle (s : State) (f : Plate → Plate) : (s.mplate f).bundle = s.bundle := rfl
@[simp] theorem State.mplate_event (s : State) (f : Plate → Plate) : (s.mplate f).event = s.event := rfl

@[simp] theorem State.mdie_ctx (s : State) (d : Nat) (f : Die → Die) : (s.mdie d f).ctx = s.ctx := rfl
@[simp] theorem State.mdie_plate (s : State) (d : Nat) (f : Die → Die) : (s.mdie d f).plate = s.plate := rfl
@[simp] theorem State.mdie_ctxs (s : State) (d : Nat) (f : Die → Die) : (s.mdie d f).ctxs = s.ctxs := rfl
@[simp] theorem State.mdie_plates (s : State) (d : Nat) (f : Die → Die) : (s.mdie d f).plates = s.plates := rfl
@[simp] theorem State.mdie_dies (s : State) (d : Nat) (f : Die → Die) : (s.mdie d f).dies = s.dies.set d (f (s.dies.get d)) := rfl
@[simp] theorem State.mdie_mem (s : State) (d : Nat) (f : Die → Die) : (s.mdie d f).mem = s.mem := rfl
@[simp] theorem State.mdie_poison (s : State) (d : Nat) (f : Die → Die) : (s.mdie d f).poison = s.poison := rfl
@[simp] theorem State.mdie_bad (s : State) (d : Nat) (f : Die → Die) : (s.mdie d f).bad = s.bad := rfl
@[simp] theorem State.mdie_soft (s : State) (d : Nat) (f : Die → Die) : (s.mdie d f).soft = s.soft := rfl
@[simp] theorem State.mdie_barriers (s : State) (d : Nat) (f : Die → Die) : (s.mdie d f).barriers = s.barriers := rfl
@[simp] theorem State.mdie_writers (s : State) (d : Nat) (f : Die → Die) : (s.mdie d f).writers = s.writers := rfl
@[simp] theorem State.mdie_regions (s : State) (d : Nat) (f : Die → Die) : (s.mdie d f).regions = s.regions := rfl
@[simp] theorem State.mdie_policy (s : State) (d : Nat) (f : Die → Die) : (s.mdie d f).policy = s.policy := rfl
@[simp] theorem State.mdie_domains (s : State) (d : Nat) (f : Die → Die) : (s.mdie d f).domains = s.domains := rfl
@[simp] theorem State.mdie_fat (s : State) (d : Nat) (f : Die → Die) : (s.mdie d f).fat = s.fat := rfl
@[simp] theorem State.mdie_devid (s : State) (d : Nat) (f : Die → Die) : (s.mdie d f).devid = s.devid := rfl
@[simp] theorem State.mdie_jseq (s : State) (d : Nat) (f : Die → Die) : (s.mdie d f).jseq = s.jseq := rfl
@[simp] theorem State.mdie_control (s : State) (d : Nat) (f : Die → Die) : (s.mdie d f).control = s.control := rfl
@[simp] theorem State.mdie_resp (s : State) (d : Nat) (f : Die → Die) : (s.mdie d f).resp = s.resp := rfl
@[simp] theorem State.mdie_spoilt (s : State) (d : Nat) (f : Die → Die) : (s.mdie d f).spoilt = s.spoilt := rfl
@[simp] theorem State.mdie_hq (s : State) (d : Nat) (f : Die → Die) : (s.mdie d f).hq = s.hq := rfl
@[simp] theorem State.mdie_ident (s : State) (d : Nat) (f : Die → Die) : (s.mdie d f).ident = s.ident := rfl
@[simp] theorem State.mdie_net (s : State) (d : Nat) (f : Die → Die) : (s.mdie d f).net = s.net := rfl
@[simp] theorem State.mdie_ports (s : State) (d : Nat) (f : Die → Die) : (s.mdie d f).ports = s.ports := rfl
@[simp] theorem State.mdie_colls (s : State) (d : Nat) (f : Die → Die) : (s.mdie d f).colls = s.colls := rfl
@[simp] theorem State.mdie_props (s : State) (d : Nat) (f : Die → Die) : (s.mdie d f).props = s.props := rfl
@[simp] theorem State.mdie_farShares (s : State) (d : Nat) (f : Die → Die) : (s.mdie d f).farShares = s.farShares := rfl
@[simp] theorem State.mdie_fires (s : State) (d : Nat) (f : Die → Die) : (s.mdie d f).fires = s.fires := rfl
@[simp] theorem State.mdie_contribs (s : State) (d : Nat) (f : Die → Die) : (s.mdie d f).contribs = s.contribs := rfl
@[simp] theorem State.mdie_closing (s : State) (d : Nat) (f : Die → Die) : (s.mdie d f).closing = s.closing := rfl
@[simp] theorem State.mdie_recStores (s : State) (d : Nat) (f : Die → Die) : (s.mdie d f).recStores = s.recStores := rfl
@[simp] theorem State.mdie_pushes (s : State) (d : Nat) (f : Die → Die) : (s.mdie d f).pushes = s.pushes := rfl
@[simp] theorem State.mdie_contins (s : State) (d : Nat) (f : Die → Die) : (s.mdie d f).contins = s.contins := rfl
@[simp] theorem State.mdie_dump (s : State) (d : Nat) (f : Die → Die) : (s.mdie d f).dump = s.dump := rfl
@[simp] theorem State.mdie_msix (s : State) (d : Nat) (f : Die → Die) : (s.mdie d f).msix = s.msix := rfl
@[simp] theorem State.mdie_cycle (s : State) (d : Nat) (f : Die → Die) : (s.mdie d f).cycle = s.cycle := rfl
@[simp] theorem State.mdie_fresh (s : State) (d : Nat) (f : Die → Die) : (s.mdie d f).fresh = s.fresh := rfl
@[simp] theorem State.mdie_inbox (s : State) (d : Nat) (f : Die → Die) : (s.mdie d f).inbox = s.inbox := rfl
@[simp] theorem State.mdie_phase (s : State) (d : Nat) (f : Die → Die) : (s.mdie d f).phase = s.phase := rfl
@[simp] theorem State.mdie_sDone (s : State) (d : Nat) (f : Die → Die) : (s.mdie d f).sDone = s.sDone := rfl
@[simp] theorem State.mdie_late (s : State) (d : Nat) (f : Die → Die) : (s.mdie d f).late = s.late := rfl
@[simp] theorem State.mdie_grouped (s : State) (d : Nat) (f : Die → Die) : (s.mdie d f).grouped = s.grouped := rfl
@[simp] theorem State.mdie_window (s : State) (d : Nat) (f : Die → Die) : (s.mdie d f).window = s.window := rfl
@[simp] theorem State.mdie_bundle (s : State) (d : Nat) (f : Die → Die) : (s.mdie d f).bundle = s.bundle := rfl
@[simp] theorem State.mdie_event (s : State) (d : Nat) (f : Die → Die) : (s.mdie d f).event = s.event := rfl

@[simp] theorem State.mstrand_ctx (s : State) (k : Strand) (f : StrandSt → StrandSt) : (s.mstrand k f).ctx = s.ctx.mstrand k f := rfl
@[simp] theorem State.mstrand_plate (s : State) (k : Strand) (f : StrandSt → StrandSt) : (s.mstrand k f).plate = s.plate := rfl
@[simp] theorem State.mstrand_ctxs (s : State) (k : Strand) (f : StrandSt → StrandSt) : (s.mstrand k f).ctxs = s.ctxs := rfl
@[simp] theorem State.mstrand_plates (s : State) (k : Strand) (f : StrandSt → StrandSt) : (s.mstrand k f).plates = s.plates := rfl
@[simp] theorem State.mstrand_dies (s : State) (k : Strand) (f : StrandSt → StrandSt) : (s.mstrand k f).dies = s.dies := rfl
@[simp] theorem State.mstrand_mem (s : State) (k : Strand) (f : StrandSt → StrandSt) : (s.mstrand k f).mem = s.mem := rfl
@[simp] theorem State.mstrand_poison (s : State) (k : Strand) (f : StrandSt → StrandSt) : (s.mstrand k f).poison = s.poison := rfl
@[simp] theorem State.mstrand_bad (s : State) (k : Strand) (f : StrandSt → StrandSt) : (s.mstrand k f).bad = s.bad := rfl
@[simp] theorem State.mstrand_soft (s : State) (k : Strand) (f : StrandSt → StrandSt) : (s.mstrand k f).soft = s.soft := rfl
@[simp] theorem State.mstrand_barriers (s : State) (k : Strand) (f : StrandSt → StrandSt) : (s.mstrand k f).barriers = s.barriers := rfl
@[simp] theorem State.mstrand_writers (s : State) (k : Strand) (f : StrandSt → StrandSt) : (s.mstrand k f).writers = s.writers := rfl
@[simp] theorem State.mstrand_regions (s : State) (k : Strand) (f : StrandSt → StrandSt) : (s.mstrand k f).regions = s.regions := rfl
@[simp] theorem State.mstrand_policy (s : State) (k : Strand) (f : StrandSt → StrandSt) : (s.mstrand k f).policy = s.policy := rfl
@[simp] theorem State.mstrand_domains (s : State) (k : Strand) (f : StrandSt → StrandSt) : (s.mstrand k f).domains = s.domains := rfl
@[simp] theorem State.mstrand_fat (s : State) (k : Strand) (f : StrandSt → StrandSt) : (s.mstrand k f).fat = s.fat := rfl
@[simp] theorem State.mstrand_devid (s : State) (k : Strand) (f : StrandSt → StrandSt) : (s.mstrand k f).devid = s.devid := rfl
@[simp] theorem State.mstrand_jseq (s : State) (k : Strand) (f : StrandSt → StrandSt) : (s.mstrand k f).jseq = s.jseq := rfl
@[simp] theorem State.mstrand_control (s : State) (k : Strand) (f : StrandSt → StrandSt) : (s.mstrand k f).control = s.control := rfl
@[simp] theorem State.mstrand_resp (s : State) (k : Strand) (f : StrandSt → StrandSt) : (s.mstrand k f).resp = s.resp := rfl
@[simp] theorem State.mstrand_spoilt (s : State) (k : Strand) (f : StrandSt → StrandSt) : (s.mstrand k f).spoilt = s.spoilt := rfl
@[simp] theorem State.mstrand_hq (s : State) (k : Strand) (f : StrandSt → StrandSt) : (s.mstrand k f).hq = s.hq := rfl
@[simp] theorem State.mstrand_ident (s : State) (k : Strand) (f : StrandSt → StrandSt) : (s.mstrand k f).ident = s.ident := rfl
@[simp] theorem State.mstrand_net (s : State) (k : Strand) (f : StrandSt → StrandSt) : (s.mstrand k f).net = s.net := rfl
@[simp] theorem State.mstrand_ports (s : State) (k : Strand) (f : StrandSt → StrandSt) : (s.mstrand k f).ports = s.ports := rfl
@[simp] theorem State.mstrand_colls (s : State) (k : Strand) (f : StrandSt → StrandSt) : (s.mstrand k f).colls = s.colls := rfl
@[simp] theorem State.mstrand_props (s : State) (k : Strand) (f : StrandSt → StrandSt) : (s.mstrand k f).props = s.props := rfl
@[simp] theorem State.mstrand_farShares (s : State) (k : Strand) (f : StrandSt → StrandSt) : (s.mstrand k f).farShares = s.farShares := rfl
@[simp] theorem State.mstrand_fires (s : State) (k : Strand) (f : StrandSt → StrandSt) : (s.mstrand k f).fires = s.fires := rfl
@[simp] theorem State.mstrand_contribs (s : State) (k : Strand) (f : StrandSt → StrandSt) : (s.mstrand k f).contribs = s.contribs := rfl
@[simp] theorem State.mstrand_closing (s : State) (k : Strand) (f : StrandSt → StrandSt) : (s.mstrand k f).closing = s.closing := rfl
@[simp] theorem State.mstrand_recStores (s : State) (k : Strand) (f : StrandSt → StrandSt) : (s.mstrand k f).recStores = s.recStores := rfl
@[simp] theorem State.mstrand_pushes (s : State) (k : Strand) (f : StrandSt → StrandSt) : (s.mstrand k f).pushes = s.pushes := rfl
@[simp] theorem State.mstrand_contins (s : State) (k : Strand) (f : StrandSt → StrandSt) : (s.mstrand k f).contins = s.contins := rfl
@[simp] theorem State.mstrand_dump (s : State) (k : Strand) (f : StrandSt → StrandSt) : (s.mstrand k f).dump = s.dump := rfl
@[simp] theorem State.mstrand_msix (s : State) (k : Strand) (f : StrandSt → StrandSt) : (s.mstrand k f).msix = s.msix := rfl
@[simp] theorem State.mstrand_cycle (s : State) (k : Strand) (f : StrandSt → StrandSt) : (s.mstrand k f).cycle = s.cycle := rfl
@[simp] theorem State.mstrand_fresh (s : State) (k : Strand) (f : StrandSt → StrandSt) : (s.mstrand k f).fresh = s.fresh := rfl
@[simp] theorem State.mstrand_inbox (s : State) (k : Strand) (f : StrandSt → StrandSt) : (s.mstrand k f).inbox = s.inbox := rfl
@[simp] theorem State.mstrand_phase (s : State) (k : Strand) (f : StrandSt → StrandSt) : (s.mstrand k f).phase = s.phase := rfl
@[simp] theorem State.mstrand_sDone (s : State) (k : Strand) (f : StrandSt → StrandSt) : (s.mstrand k f).sDone = s.sDone := rfl
@[simp] theorem State.mstrand_late (s : State) (k : Strand) (f : StrandSt → StrandSt) : (s.mstrand k f).late = s.late := rfl
@[simp] theorem State.mstrand_grouped (s : State) (k : Strand) (f : StrandSt → StrandSt) : (s.mstrand k f).grouped = s.grouped := rfl
@[simp] theorem State.mstrand_window (s : State) (k : Strand) (f : StrandSt → StrandSt) : (s.mstrand k f).window = s.window := rfl
@[simp] theorem State.mstrand_bundle (s : State) (k : Strand) (f : StrandSt → StrandSt) : (s.mstrand k f).bundle = s.bundle := rfl
@[simp] theorem State.mstrand_event (s : State) (k : Strand) (f : StrandSt → StrandSt) : (s.mstrand k f).event = s.event := rfl

@[simp] theorem State.bump_ctx (s : State) : (s.bump).ctx = s.ctx := rfl
@[simp] theorem State.bump_plate (s : State) : (s.bump).plate = s.plate := rfl
@[simp] theorem State.bump_ctxs (s : State) : (s.bump).ctxs = s.ctxs := rfl
@[simp] theorem State.bump_plates (s : State) : (s.bump).plates = s.plates := rfl
@[simp] theorem State.bump_dies (s : State) : (s.bump).dies = s.dies := rfl
@[simp] theorem State.bump_mem (s : State) : (s.bump).mem = s.mem := rfl
@[simp] theorem State.bump_poison (s : State) : (s.bump).poison = s.poison := rfl
@[simp] theorem State.bump_bad (s : State) : (s.bump).bad = s.bad := rfl
@[simp] theorem State.bump_soft (s : State) : (s.bump).soft = s.soft := rfl
@[simp] theorem State.bump_barriers (s : State) : (s.bump).barriers = s.barriers := rfl
@[simp] theorem State.bump_writers (s : State) : (s.bump).writers = s.writers := rfl
@[simp] theorem State.bump_regions (s : State) : (s.bump).regions = s.regions := rfl
@[simp] theorem State.bump_policy (s : State) : (s.bump).policy = s.policy := rfl
@[simp] theorem State.bump_domains (s : State) : (s.bump).domains = s.domains := rfl
@[simp] theorem State.bump_fat (s : State) : (s.bump).fat = s.fat := rfl
@[simp] theorem State.bump_devid (s : State) : (s.bump).devid = s.devid := rfl
@[simp] theorem State.bump_jseq (s : State) : (s.bump).jseq = s.jseq := rfl
@[simp] theorem State.bump_control (s : State) : (s.bump).control = s.control := rfl
@[simp] theorem State.bump_resp (s : State) : (s.bump).resp = s.resp := rfl
@[simp] theorem State.bump_spoilt (s : State) : (s.bump).spoilt = s.spoilt := rfl
@[simp] theorem State.bump_hq (s : State) : (s.bump).hq = s.hq := rfl
@[simp] theorem State.bump_ident (s : State) : (s.bump).ident = s.ident := rfl
@[simp] theorem State.bump_net (s : State) : (s.bump).net = s.net := rfl
@[simp] theorem State.bump_ports (s : State) : (s.bump).ports = s.ports := rfl
@[simp] theorem State.bump_colls (s : State) : (s.bump).colls = s.colls := rfl
@[simp] theorem State.bump_props (s : State) : (s.bump).props = s.props := rfl
@[simp] theorem State.bump_farShares (s : State) : (s.bump).farShares = s.farShares := rfl
@[simp] theorem State.bump_fires (s : State) : (s.bump).fires = s.fires := rfl
@[simp] theorem State.bump_contribs (s : State) : (s.bump).contribs = s.contribs := rfl
@[simp] theorem State.bump_closing (s : State) : (s.bump).closing = s.closing := rfl
@[simp] theorem State.bump_recStores (s : State) : (s.bump).recStores = s.recStores := rfl
@[simp] theorem State.bump_pushes (s : State) : (s.bump).pushes = s.pushes := rfl
@[simp] theorem State.bump_contins (s : State) : (s.bump).contins = s.contins := rfl
@[simp] theorem State.bump_dump (s : State) : (s.bump).dump = s.dump := rfl
@[simp] theorem State.bump_msix (s : State) : (s.bump).msix = s.msix := rfl
@[simp] theorem State.bump_cycle (s : State) : (s.bump).cycle = s.cycle := rfl
@[simp] theorem State.bump_fresh (s : State) : (s.bump).fresh = s.fresh + 1 := rfl
@[simp] theorem State.bump_inbox (s : State) : (s.bump).inbox = s.inbox := rfl
@[simp] theorem State.bump_phase (s : State) : (s.bump).phase = s.phase := rfl
@[simp] theorem State.bump_sDone (s : State) : (s.bump).sDone = s.sDone := rfl
@[simp] theorem State.bump_late (s : State) : (s.bump).late = s.late := rfl
@[simp] theorem State.bump_grouped (s : State) : (s.bump).grouped = s.grouped := rfl
@[simp] theorem State.bump_window (s : State) : (s.bump).window = s.window := rfl
@[simp] theorem State.bump_bundle (s : State) : (s.bump).bundle = s.bundle := rfl
@[simp] theorem State.bump_event (s : State) : (s.bump).event = s.event := rfl

@[simp] theorem State.slotFor_ctx (s : State) (k : Strand) (c : Slot) : (s.slotFor k c).ctx = { s.ctx with slots := s.ctx.slots.set k.num c, slotPcs := s.ctx.slotPcs.set k.num (s.strand k).pc } := rfl
@[simp] theorem State.slotFor_plate (s : State) (k : Strand) (c : Slot) : (s.slotFor k c).plate = s.plate := rfl
@[simp] theorem State.slotFor_ctxs (s : State) (k : Strand) (c : Slot) : (s.slotFor k c).ctxs = s.ctxs := rfl
@[simp] theorem State.slotFor_plates (s : State) (k : Strand) (c : Slot) : (s.slotFor k c).plates = s.plates := rfl
@[simp] theorem State.slotFor_dies (s : State) (k : Strand) (c : Slot) : (s.slotFor k c).dies = s.dies := rfl
@[simp] theorem State.slotFor_mem (s : State) (k : Strand) (c : Slot) : (s.slotFor k c).mem = s.mem := rfl
@[simp] theorem State.slotFor_poison (s : State) (k : Strand) (c : Slot) : (s.slotFor k c).poison = s.poison := rfl
@[simp] theorem State.slotFor_bad (s : State) (k : Strand) (c : Slot) : (s.slotFor k c).bad = s.bad := rfl
@[simp] theorem State.slotFor_soft (s : State) (k : Strand) (c : Slot) : (s.slotFor k c).soft = s.soft := rfl
@[simp] theorem State.slotFor_barriers (s : State) (k : Strand) (c : Slot) : (s.slotFor k c).barriers = s.barriers := rfl
@[simp] theorem State.slotFor_writers (s : State) (k : Strand) (c : Slot) : (s.slotFor k c).writers = s.writers := rfl
@[simp] theorem State.slotFor_regions (s : State) (k : Strand) (c : Slot) : (s.slotFor k c).regions = s.regions := rfl
@[simp] theorem State.slotFor_policy (s : State) (k : Strand) (c : Slot) : (s.slotFor k c).policy = s.policy := rfl
@[simp] theorem State.slotFor_domains (s : State) (k : Strand) (c : Slot) : (s.slotFor k c).domains = s.domains := rfl
@[simp] theorem State.slotFor_fat (s : State) (k : Strand) (c : Slot) : (s.slotFor k c).fat = s.fat := rfl
@[simp] theorem State.slotFor_devid (s : State) (k : Strand) (c : Slot) : (s.slotFor k c).devid = s.devid := rfl
@[simp] theorem State.slotFor_jseq (s : State) (k : Strand) (c : Slot) : (s.slotFor k c).jseq = s.jseq := rfl
@[simp] theorem State.slotFor_control (s : State) (k : Strand) (c : Slot) : (s.slotFor k c).control = s.control := rfl
@[simp] theorem State.slotFor_resp (s : State) (k : Strand) (c : Slot) : (s.slotFor k c).resp = s.resp := rfl
@[simp] theorem State.slotFor_spoilt (s : State) (k : Strand) (c : Slot) : (s.slotFor k c).spoilt = s.spoilt := rfl
@[simp] theorem State.slotFor_hq (s : State) (k : Strand) (c : Slot) : (s.slotFor k c).hq = s.hq := rfl
@[simp] theorem State.slotFor_ident (s : State) (k : Strand) (c : Slot) : (s.slotFor k c).ident = s.ident := rfl
@[simp] theorem State.slotFor_net (s : State) (k : Strand) (c : Slot) : (s.slotFor k c).net = s.net := rfl
@[simp] theorem State.slotFor_ports (s : State) (k : Strand) (c : Slot) : (s.slotFor k c).ports = s.ports := rfl
@[simp] theorem State.slotFor_colls (s : State) (k : Strand) (c : Slot) : (s.slotFor k c).colls = s.colls := rfl
@[simp] theorem State.slotFor_props (s : State) (k : Strand) (c : Slot) : (s.slotFor k c).props = s.props := rfl
@[simp] theorem State.slotFor_farShares (s : State) (k : Strand) (c : Slot) : (s.slotFor k c).farShares = s.farShares := rfl
@[simp] theorem State.slotFor_fires (s : State) (k : Strand) (c : Slot) : (s.slotFor k c).fires = s.fires := rfl
@[simp] theorem State.slotFor_contribs (s : State) (k : Strand) (c : Slot) : (s.slotFor k c).contribs = s.contribs := rfl
@[simp] theorem State.slotFor_closing (s : State) (k : Strand) (c : Slot) : (s.slotFor k c).closing = s.closing := rfl
@[simp] theorem State.slotFor_recStores (s : State) (k : Strand) (c : Slot) : (s.slotFor k c).recStores = s.recStores := rfl
@[simp] theorem State.slotFor_pushes (s : State) (k : Strand) (c : Slot) : (s.slotFor k c).pushes = s.pushes := rfl
@[simp] theorem State.slotFor_contins (s : State) (k : Strand) (c : Slot) : (s.slotFor k c).contins = s.contins := rfl
@[simp] theorem State.slotFor_dump (s : State) (k : Strand) (c : Slot) : (s.slotFor k c).dump = s.dump := rfl
@[simp] theorem State.slotFor_msix (s : State) (k : Strand) (c : Slot) : (s.slotFor k c).msix = s.msix := rfl
@[simp] theorem State.slotFor_cycle (s : State) (k : Strand) (c : Slot) : (s.slotFor k c).cycle = s.cycle := rfl
@[simp] theorem State.slotFor_fresh (s : State) (k : Strand) (c : Slot) : (s.slotFor k c).fresh = s.fresh := rfl
@[simp] theorem State.slotFor_inbox (s : State) (k : Strand) (c : Slot) : (s.slotFor k c).inbox = s.inbox := rfl
@[simp] theorem State.slotFor_phase (s : State) (k : Strand) (c : Slot) : (s.slotFor k c).phase = s.phase := rfl
@[simp] theorem State.slotFor_sDone (s : State) (k : Strand) (c : Slot) : (s.slotFor k c).sDone = s.sDone := rfl
@[simp] theorem State.slotFor_late (s : State) (k : Strand) (c : Slot) : (s.slotFor k c).late = s.late := rfl
@[simp] theorem State.slotFor_grouped (s : State) (k : Strand) (c : Slot) : (s.slotFor k c).grouped = s.grouped := rfl
@[simp] theorem State.slotFor_window (s : State) (k : Strand) (c : Slot) : (s.slotFor k c).window = s.window := rfl
@[simp] theorem State.slotFor_bundle (s : State) (k : Strand) (c : Slot) : (s.slotFor k c).bundle = s.bundle := rfl
@[simp] theorem State.slotFor_event (s : State) (k : Strand) (c : Slot) : (s.slotFor k c).event = s.event := rfl

@[simp] theorem State.note_ctx (s : State) (k : Strand) (c : Slot) (e : Event) : (s.note k c e).ctx = (s.slotFor k c).ctx := rfl
@[simp] theorem State.note_plate (s : State) (k : Strand) (c : Slot) (e : Event) : (s.note k c e).plate = s.plate := rfl
@[simp] theorem State.note_ctxs (s : State) (k : Strand) (c : Slot) (e : Event) : (s.note k c e).ctxs = s.ctxs := rfl
@[simp] theorem State.note_plates (s : State) (k : Strand) (c : Slot) (e : Event) : (s.note k c e).plates = s.plates := rfl
@[simp] theorem State.note_dies (s : State) (k : Strand) (c : Slot) (e : Event) : (s.note k c e).dies = s.dies := rfl
@[simp] theorem State.note_mem (s : State) (k : Strand) (c : Slot) (e : Event) : (s.note k c e).mem = s.mem := rfl
@[simp] theorem State.note_poison (s : State) (k : Strand) (c : Slot) (e : Event) : (s.note k c e).poison = s.poison := rfl
@[simp] theorem State.note_bad (s : State) (k : Strand) (c : Slot) (e : Event) : (s.note k c e).bad = s.bad := rfl
@[simp] theorem State.note_soft (s : State) (k : Strand) (c : Slot) (e : Event) : (s.note k c e).soft = s.soft := rfl
@[simp] theorem State.note_barriers (s : State) (k : Strand) (c : Slot) (e : Event) : (s.note k c e).barriers = s.barriers := rfl
@[simp] theorem State.note_writers (s : State) (k : Strand) (c : Slot) (e : Event) : (s.note k c e).writers = s.writers := rfl
@[simp] theorem State.note_regions (s : State) (k : Strand) (c : Slot) (e : Event) : (s.note k c e).regions = s.regions := rfl
@[simp] theorem State.note_policy (s : State) (k : Strand) (c : Slot) (e : Event) : (s.note k c e).policy = s.policy := rfl
@[simp] theorem State.note_domains (s : State) (k : Strand) (c : Slot) (e : Event) : (s.note k c e).domains = s.domains := rfl
@[simp] theorem State.note_fat (s : State) (k : Strand) (c : Slot) (e : Event) : (s.note k c e).fat = s.fat := rfl
@[simp] theorem State.note_devid (s : State) (k : Strand) (c : Slot) (e : Event) : (s.note k c e).devid = s.devid := rfl
@[simp] theorem State.note_jseq (s : State) (k : Strand) (c : Slot) (e : Event) : (s.note k c e).jseq = s.jseq := rfl
@[simp] theorem State.note_control (s : State) (k : Strand) (c : Slot) (e : Event) : (s.note k c e).control = s.control := rfl
@[simp] theorem State.note_resp (s : State) (k : Strand) (c : Slot) (e : Event) : (s.note k c e).resp = s.resp := rfl
@[simp] theorem State.note_spoilt (s : State) (k : Strand) (c : Slot) (e : Event) : (s.note k c e).spoilt = s.spoilt := rfl
@[simp] theorem State.note_hq (s : State) (k : Strand) (c : Slot) (e : Event) : (s.note k c e).hq = s.hq := rfl
@[simp] theorem State.note_ident (s : State) (k : Strand) (c : Slot) (e : Event) : (s.note k c e).ident = s.ident := rfl
@[simp] theorem State.note_net (s : State) (k : Strand) (c : Slot) (e : Event) : (s.note k c e).net = s.net := rfl
@[simp] theorem State.note_ports (s : State) (k : Strand) (c : Slot) (e : Event) : (s.note k c e).ports = s.ports := rfl
@[simp] theorem State.note_colls (s : State) (k : Strand) (c : Slot) (e : Event) : (s.note k c e).colls = s.colls := rfl
@[simp] theorem State.note_props (s : State) (k : Strand) (c : Slot) (e : Event) : (s.note k c e).props = s.props := rfl
@[simp] theorem State.note_farShares (s : State) (k : Strand) (c : Slot) (e : Event) : (s.note k c e).farShares = s.farShares := rfl
@[simp] theorem State.note_fires (s : State) (k : Strand) (c : Slot) (e : Event) : (s.note k c e).fires = s.fires := rfl
@[simp] theorem State.note_contribs (s : State) (k : Strand) (c : Slot) (e : Event) : (s.note k c e).contribs = s.contribs := rfl
@[simp] theorem State.note_closing (s : State) (k : Strand) (c : Slot) (e : Event) : (s.note k c e).closing = s.closing := rfl
@[simp] theorem State.note_recStores (s : State) (k : Strand) (c : Slot) (e : Event) : (s.note k c e).recStores = s.recStores := rfl
@[simp] theorem State.note_pushes (s : State) (k : Strand) (c : Slot) (e : Event) : (s.note k c e).pushes = s.pushes := rfl
@[simp] theorem State.note_contins (s : State) (k : Strand) (c : Slot) (e : Event) : (s.note k c e).contins = s.contins := rfl
@[simp] theorem State.note_dump (s : State) (k : Strand) (c : Slot) (e : Event) : (s.note k c e).dump = s.dump := rfl
@[simp] theorem State.note_msix (s : State) (k : Strand) (c : Slot) (e : Event) : (s.note k c e).msix = s.msix := rfl
@[simp] theorem State.note_cycle (s : State) (k : Strand) (c : Slot) (e : Event) : (s.note k c e).cycle = s.cycle := rfl
@[simp] theorem State.note_fresh (s : State) (k : Strand) (c : Slot) (e : Event) : (s.note k c e).fresh = s.fresh := rfl
@[simp] theorem State.note_inbox (s : State) (k : Strand) (c : Slot) (e : Event) : (s.note k c e).inbox = s.inbox := rfl
@[simp] theorem State.note_phase (s : State) (k : Strand) (c : Slot) (e : Event) : (s.note k c e).phase = s.phase := rfl
@[simp] theorem State.note_sDone (s : State) (k : Strand) (c : Slot) (e : Event) : (s.note k c e).sDone = s.sDone := rfl
@[simp] theorem State.note_late (s : State) (k : Strand) (c : Slot) (e : Event) : (s.note k c e).late = s.late := rfl
@[simp] theorem State.note_grouped (s : State) (k : Strand) (c : Slot) (e : Event) : (s.note k c e).grouped = s.grouped := rfl
@[simp] theorem State.note_window (s : State) (k : Strand) (c : Slot) (e : Event) : (s.note k c e).window = s.window := rfl
@[simp] theorem State.note_bundle (s : State) (k : Strand) (c : Slot) (e : Event) : (s.note k c e).bundle = s.bundle := rfl
@[simp] theorem State.note_event (s : State) (k : Strand) (c : Slot) (e : Event) : (s.note k c e).event = e := rfl

@[simp] theorem State.notePend_plate (s : State) (d : Dest) (n : Nat) (old : Word) : (s.notePend d n old).plate = s.plate := rfl
@[simp] theorem State.notePend_ctxs (s : State) (d : Dest) (n : Nat) (old : Word) : (s.notePend d n old).ctxs = s.ctxs := rfl
@[simp] theorem State.notePend_plates (s : State) (d : Dest) (n : Nat) (old : Word) : (s.notePend d n old).plates = s.plates := rfl
@[simp] theorem State.notePend_dies (s : State) (d : Dest) (n : Nat) (old : Word) : (s.notePend d n old).dies = s.dies := rfl
@[simp] theorem State.notePend_mem (s : State) (d : Dest) (n : Nat) (old : Word) : (s.notePend d n old).mem = s.mem := rfl
@[simp] theorem State.notePend_poison (s : State) (d : Dest) (n : Nat) (old : Word) : (s.notePend d n old).poison = s.poison := rfl
@[simp] theorem State.notePend_bad (s : State) (d : Dest) (n : Nat) (old : Word) : (s.notePend d n old).bad = s.bad := rfl
@[simp] theorem State.notePend_soft (s : State) (d : Dest) (n : Nat) (old : Word) : (s.notePend d n old).soft = s.soft := rfl
@[simp] theorem State.notePend_barriers (s : State) (d : Dest) (n : Nat) (old : Word) : (s.notePend d n old).barriers = s.barriers := rfl
@[simp] theorem State.notePend_writers (s : State) (d : Dest) (n : Nat) (old : Word) : (s.notePend d n old).writers = s.writers := rfl
@[simp] theorem State.notePend_regions (s : State) (d : Dest) (n : Nat) (old : Word) : (s.notePend d n old).regions = s.regions := rfl
@[simp] theorem State.notePend_policy (s : State) (d : Dest) (n : Nat) (old : Word) : (s.notePend d n old).policy = s.policy := rfl
@[simp] theorem State.notePend_domains (s : State) (d : Dest) (n : Nat) (old : Word) : (s.notePend d n old).domains = s.domains := rfl
@[simp] theorem State.notePend_fat (s : State) (d : Dest) (n : Nat) (old : Word) : (s.notePend d n old).fat = s.fat := rfl
@[simp] theorem State.notePend_devid (s : State) (d : Dest) (n : Nat) (old : Word) : (s.notePend d n old).devid = s.devid := rfl
@[simp] theorem State.notePend_jseq (s : State) (d : Dest) (n : Nat) (old : Word) : (s.notePend d n old).jseq = s.jseq := rfl
@[simp] theorem State.notePend_control (s : State) (d : Dest) (n : Nat) (old : Word) : (s.notePend d n old).control = s.control := rfl
@[simp] theorem State.notePend_resp (s : State) (d : Dest) (n : Nat) (old : Word) : (s.notePend d n old).resp = s.resp := rfl
@[simp] theorem State.notePend_spoilt (s : State) (d : Dest) (n : Nat) (old : Word) : (s.notePend d n old).spoilt = s.spoilt := rfl
@[simp] theorem State.notePend_hq (s : State) (d : Dest) (n : Nat) (old : Word) : (s.notePend d n old).hq = s.hq := rfl
@[simp] theorem State.notePend_ident (s : State) (d : Dest) (n : Nat) (old : Word) : (s.notePend d n old).ident = s.ident := rfl
@[simp] theorem State.notePend_net (s : State) (d : Dest) (n : Nat) (old : Word) : (s.notePend d n old).net = s.net := rfl
@[simp] theorem State.notePend_ports (s : State) (d : Dest) (n : Nat) (old : Word) : (s.notePend d n old).ports = s.ports := rfl
@[simp] theorem State.notePend_colls (s : State) (d : Dest) (n : Nat) (old : Word) : (s.notePend d n old).colls = s.colls := rfl
@[simp] theorem State.notePend_props (s : State) (d : Dest) (n : Nat) (old : Word) : (s.notePend d n old).props = s.props := rfl
@[simp] theorem State.notePend_farShares (s : State) (d : Dest) (n : Nat) (old : Word) : (s.notePend d n old).farShares = s.farShares := rfl
@[simp] theorem State.notePend_fires (s : State) (d : Dest) (n : Nat) (old : Word) : (s.notePend d n old).fires = s.fires := rfl
@[simp] theorem State.notePend_contribs (s : State) (d : Dest) (n : Nat) (old : Word) : (s.notePend d n old).contribs = s.contribs := rfl
@[simp] theorem State.notePend_closing (s : State) (d : Dest) (n : Nat) (old : Word) : (s.notePend d n old).closing = s.closing := rfl
@[simp] theorem State.notePend_recStores (s : State) (d : Dest) (n : Nat) (old : Word) : (s.notePend d n old).recStores = s.recStores := rfl
@[simp] theorem State.notePend_pushes (s : State) (d : Dest) (n : Nat) (old : Word) : (s.notePend d n old).pushes = s.pushes := rfl
@[simp] theorem State.notePend_contins (s : State) (d : Dest) (n : Nat) (old : Word) : (s.notePend d n old).contins = s.contins := rfl
@[simp] theorem State.notePend_dump (s : State) (d : Dest) (n : Nat) (old : Word) : (s.notePend d n old).dump = s.dump := rfl
@[simp] theorem State.notePend_msix (s : State) (d : Dest) (n : Nat) (old : Word) : (s.notePend d n old).msix = s.msix := rfl
@[simp] theorem State.notePend_cycle (s : State) (d : Dest) (n : Nat) (old : Word) : (s.notePend d n old).cycle = s.cycle := rfl
@[simp] theorem State.notePend_fresh (s : State) (d : Dest) (n : Nat) (old : Word) : (s.notePend d n old).fresh = s.fresh := rfl
@[simp] theorem State.notePend_inbox (s : State) (d : Dest) (n : Nat) (old : Word) : (s.notePend d n old).inbox = s.inbox := rfl
@[simp] theorem State.notePend_phase (s : State) (d : Dest) (n : Nat) (old : Word) : (s.notePend d n old).phase = s.phase := rfl
@[simp] theorem State.notePend_sDone (s : State) (d : Dest) (n : Nat) (old : Word) : (s.notePend d n old).sDone = s.sDone := rfl
@[simp] theorem State.notePend_late (s : State) (d : Dest) (n : Nat) (old : Word) : (s.notePend d n old).late = s.late := rfl
@[simp] theorem State.notePend_grouped (s : State) (d : Dest) (n : Nat) (old : Word) : (s.notePend d n old).grouped = s.grouped := rfl
@[simp] theorem State.notePend_window (s : State) (d : Dest) (n : Nat) (old : Word) : (s.notePend d n old).window = s.window := rfl
@[simp] theorem State.notePend_bundle (s : State) (d : Dest) (n : Nat) (old : Word) : (s.notePend d n old).bundle = s.bundle := rfl
@[simp] theorem State.notePend_event (s : State) (d : Dest) (n : Nat) (old : Word) : (s.notePend d n old).event = s.event := rfl

@[simp] theorem State.putRegion_ctx (s : State) (r : Nat) (g : Region) : (s.putRegion r g).ctx = s.ctx := rfl
@[simp] theorem State.putRegion_plate (s : State) (r : Nat) (g : Region) : (s.putRegion r g).plate = s.plate := rfl
@[simp] theorem State.putRegion_ctxs (s : State) (r : Nat) (g : Region) : (s.putRegion r g).ctxs = s.ctxs := rfl
@[simp] theorem State.putRegion_plates (s : State) (r : Nat) (g : Region) : (s.putRegion r g).plates = s.plates := rfl
@[simp] theorem State.putRegion_dies (s : State) (r : Nat) (g : Region) : (s.putRegion r g).dies = s.dies := rfl
@[simp] theorem State.putRegion_mem (s : State) (r : Nat) (g : Region) : (s.putRegion r g).mem = s.mem := rfl
@[simp] theorem State.putRegion_poison (s : State) (r : Nat) (g : Region) : (s.putRegion r g).poison = s.poison := rfl
@[simp] theorem State.putRegion_bad (s : State) (r : Nat) (g : Region) : (s.putRegion r g).bad = s.bad := rfl
@[simp] theorem State.putRegion_soft (s : State) (r : Nat) (g : Region) : (s.putRegion r g).soft = s.soft := rfl
@[simp] theorem State.putRegion_barriers (s : State) (r : Nat) (g : Region) : (s.putRegion r g).barriers = s.barriers := rfl
@[simp] theorem State.putRegion_writers (s : State) (r : Nat) (g : Region) : (s.putRegion r g).writers = s.writers := rfl
@[simp] theorem State.putRegion_policy (s : State) (r : Nat) (g : Region) : (s.putRegion r g).policy = s.policy := rfl
@[simp] theorem State.putRegion_domains (s : State) (r : Nat) (g : Region) : (s.putRegion r g).domains = s.domains := rfl
@[simp] theorem State.putRegion_fat (s : State) (r : Nat) (g : Region) : (s.putRegion r g).fat = s.fat := rfl
@[simp] theorem State.putRegion_devid (s : State) (r : Nat) (g : Region) : (s.putRegion r g).devid = s.devid := rfl
@[simp] theorem State.putRegion_jseq (s : State) (r : Nat) (g : Region) : (s.putRegion r g).jseq = s.jseq := rfl
@[simp] theorem State.putRegion_control (s : State) (r : Nat) (g : Region) : (s.putRegion r g).control = s.control := rfl
@[simp] theorem State.putRegion_resp (s : State) (r : Nat) (g : Region) : (s.putRegion r g).resp = s.resp := rfl
@[simp] theorem State.putRegion_spoilt (s : State) (r : Nat) (g : Region) : (s.putRegion r g).spoilt = s.spoilt := rfl
@[simp] theorem State.putRegion_hq (s : State) (r : Nat) (g : Region) : (s.putRegion r g).hq = s.hq := rfl
@[simp] theorem State.putRegion_ident (s : State) (r : Nat) (g : Region) : (s.putRegion r g).ident = s.ident := rfl
@[simp] theorem State.putRegion_net (s : State) (r : Nat) (g : Region) : (s.putRegion r g).net = s.net := rfl
@[simp] theorem State.putRegion_ports (s : State) (r : Nat) (g : Region) : (s.putRegion r g).ports = s.ports := rfl
@[simp] theorem State.putRegion_colls (s : State) (r : Nat) (g : Region) : (s.putRegion r g).colls = s.colls := rfl
@[simp] theorem State.putRegion_props (s : State) (r : Nat) (g : Region) : (s.putRegion r g).props = s.props := rfl
@[simp] theorem State.putRegion_farShares (s : State) (r : Nat) (g : Region) : (s.putRegion r g).farShares = s.farShares := rfl
@[simp] theorem State.putRegion_fires (s : State) (r : Nat) (g : Region) : (s.putRegion r g).fires = s.fires := rfl
@[simp] theorem State.putRegion_contribs (s : State) (r : Nat) (g : Region) : (s.putRegion r g).contribs = s.contribs := rfl
@[simp] theorem State.putRegion_closing (s : State) (r : Nat) (g : Region) : (s.putRegion r g).closing = s.closing := rfl
@[simp] theorem State.putRegion_recStores (s : State) (r : Nat) (g : Region) : (s.putRegion r g).recStores = s.recStores := rfl
@[simp] theorem State.putRegion_pushes (s : State) (r : Nat) (g : Region) : (s.putRegion r g).pushes = s.pushes := rfl
@[simp] theorem State.putRegion_contins (s : State) (r : Nat) (g : Region) : (s.putRegion r g).contins = s.contins := rfl
@[simp] theorem State.putRegion_dump (s : State) (r : Nat) (g : Region) : (s.putRegion r g).dump = s.dump := rfl
@[simp] theorem State.putRegion_msix (s : State) (r : Nat) (g : Region) : (s.putRegion r g).msix = s.msix := rfl
@[simp] theorem State.putRegion_cycle (s : State) (r : Nat) (g : Region) : (s.putRegion r g).cycle = s.cycle := rfl
@[simp] theorem State.putRegion_fresh (s : State) (r : Nat) (g : Region) : (s.putRegion r g).fresh = s.fresh := rfl
@[simp] theorem State.putRegion_inbox (s : State) (r : Nat) (g : Region) : (s.putRegion r g).inbox = s.inbox := rfl
@[simp] theorem State.putRegion_phase (s : State) (r : Nat) (g : Region) : (s.putRegion r g).phase = s.phase := rfl
@[simp] theorem State.putRegion_sDone (s : State) (r : Nat) (g : Region) : (s.putRegion r g).sDone = s.sDone := rfl
@[simp] theorem State.putRegion_late (s : State) (r : Nat) (g : Region) : (s.putRegion r g).late = s.late := rfl
@[simp] theorem State.putRegion_grouped (s : State) (r : Nat) (g : Region) : (s.putRegion r g).grouped = s.grouped := rfl
@[simp] theorem State.putRegion_window (s : State) (r : Nat) (g : Region) : (s.putRegion r g).window = s.window := rfl
@[simp] theorem State.putRegion_bundle (s : State) (r : Nat) (g : Region) : (s.putRegion r g).bundle = s.bundle := rfl
@[simp] theorem State.putRegion_event (s : State) (r : Nat) (g : Region) : (s.putRegion r g).event = s.event := rfl

@[simp] theorem State.cure_ctx (s : State) (a n : Nat) : (s.cure a n).ctx = s.ctx := rfl
@[simp] theorem State.cure_plate (s : State) (a n : Nat) : (s.cure a n).plate = s.plate := rfl
@[simp] theorem State.cure_ctxs (s : State) (a n : Nat) : (s.cure a n).ctxs = s.ctxs := rfl
@[simp] theorem State.cure_plates (s : State) (a n : Nat) : (s.cure a n).plates = s.plates := rfl
@[simp] theorem State.cure_dies (s : State) (a n : Nat) : (s.cure a n).dies = s.dies := rfl
@[simp] theorem State.cure_mem (s : State) (a n : Nat) : (s.cure a n).mem = s.mem := rfl
@[simp] theorem State.cure_bad (s : State) (a n : Nat) : (s.cure a n).bad = s.bad := rfl
@[simp] theorem State.cure_soft (s : State) (a n : Nat) : (s.cure a n).soft = s.soft := rfl
@[simp] theorem State.cure_barriers (s : State) (a n : Nat) : (s.cure a n).barriers = s.barriers := rfl
@[simp] theorem State.cure_writers (s : State) (a n : Nat) : (s.cure a n).writers = s.writers := rfl
@[simp] theorem State.cure_regions (s : State) (a n : Nat) : (s.cure a n).regions = s.regions := rfl
@[simp] theorem State.cure_policy (s : State) (a n : Nat) : (s.cure a n).policy = s.policy := rfl
@[simp] theorem State.cure_domains (s : State) (a n : Nat) : (s.cure a n).domains = s.domains := rfl
@[simp] theorem State.cure_fat (s : State) (a n : Nat) : (s.cure a n).fat = s.fat := rfl
@[simp] theorem State.cure_devid (s : State) (a n : Nat) : (s.cure a n).devid = s.devid := rfl
@[simp] theorem State.cure_jseq (s : State) (a n : Nat) : (s.cure a n).jseq = s.jseq := rfl
@[simp] theorem State.cure_control (s : State) (a n : Nat) : (s.cure a n).control = s.control := rfl
@[simp] theorem State.cure_resp (s : State) (a n : Nat) : (s.cure a n).resp = s.resp := rfl
@[simp] theorem State.cure_spoilt (s : State) (a n : Nat) : (s.cure a n).spoilt = s.spoilt := rfl
@[simp] theorem State.cure_hq (s : State) (a n : Nat) : (s.cure a n).hq = s.hq := rfl
@[simp] theorem State.cure_ident (s : State) (a n : Nat) : (s.cure a n).ident = s.ident := rfl
@[simp] theorem State.cure_net (s : State) (a n : Nat) : (s.cure a n).net = s.net := rfl
@[simp] theorem State.cure_ports (s : State) (a n : Nat) : (s.cure a n).ports = s.ports := rfl
@[simp] theorem State.cure_colls (s : State) (a n : Nat) : (s.cure a n).colls = s.colls := rfl
@[simp] theorem State.cure_props (s : State) (a n : Nat) : (s.cure a n).props = s.props := rfl
@[simp] theorem State.cure_farShares (s : State) (a n : Nat) : (s.cure a n).farShares = s.farShares := rfl
@[simp] theorem State.cure_fires (s : State) (a n : Nat) : (s.cure a n).fires = s.fires := rfl
@[simp] theorem State.cure_contribs (s : State) (a n : Nat) : (s.cure a n).contribs = s.contribs := rfl
@[simp] theorem State.cure_closing (s : State) (a n : Nat) : (s.cure a n).closing = s.closing := rfl
@[simp] theorem State.cure_recStores (s : State) (a n : Nat) : (s.cure a n).recStores = s.recStores := rfl
@[simp] theorem State.cure_pushes (s : State) (a n : Nat) : (s.cure a n).pushes = s.pushes := rfl
@[simp] theorem State.cure_contins (s : State) (a n : Nat) : (s.cure a n).contins = s.contins := rfl
@[simp] theorem State.cure_dump (s : State) (a n : Nat) : (s.cure a n).dump = s.dump := rfl
@[simp] theorem State.cure_msix (s : State) (a n : Nat) : (s.cure a n).msix = s.msix := rfl
@[simp] theorem State.cure_cycle (s : State) (a n : Nat) : (s.cure a n).cycle = s.cycle := rfl
@[simp] theorem State.cure_fresh (s : State) (a n : Nat) : (s.cure a n).fresh = s.fresh := rfl
@[simp] theorem State.cure_inbox (s : State) (a n : Nat) : (s.cure a n).inbox = s.inbox := rfl
@[simp] theorem State.cure_phase (s : State) (a n : Nat) : (s.cure a n).phase = s.phase := rfl
@[simp] theorem State.cure_sDone (s : State) (a n : Nat) : (s.cure a n).sDone = s.sDone := rfl
@[simp] theorem State.cure_late (s : State) (a n : Nat) : (s.cure a n).late = s.late := rfl
@[simp] theorem State.cure_grouped (s : State) (a n : Nat) : (s.cure a n).grouped = s.grouped := rfl
@[simp] theorem State.cure_window (s : State) (a n : Nat) : (s.cure a n).window = s.window := rfl
@[simp] theorem State.cure_bundle (s : State) (a n : Nat) : (s.cure a n).bundle = s.bundle := rfl
@[simp] theorem State.cure_event (s : State) (a n : Nat) : (s.cure a n).event = s.event := rfl

@[simp] theorem State.send_ctx (s : State) (a b : Nat) (m : Msg) : (s.send a b m).ctx = s.ctx := rfl
@[simp] theorem State.send_plate (s : State) (a b : Nat) (m : Msg) : (s.send a b m).plate = s.plate := rfl
@[simp] theorem State.send_ctxs (s : State) (a b : Nat) (m : Msg) : (s.send a b m).ctxs = s.ctxs := rfl
@[simp] theorem State.send_plates (s : State) (a b : Nat) (m : Msg) : (s.send a b m).plates = s.plates := rfl
@[simp] theorem State.send_dies (s : State) (a b : Nat) (m : Msg) : (s.send a b m).dies = s.dies := rfl
@[simp] theorem State.send_mem (s : State) (a b : Nat) (m : Msg) : (s.send a b m).mem = s.mem := rfl
@[simp] theorem State.send_poison (s : State) (a b : Nat) (m : Msg) : (s.send a b m).poison = s.poison := rfl
@[simp] theorem State.send_bad (s : State) (a b : Nat) (m : Msg) : (s.send a b m).bad = s.bad := rfl
@[simp] theorem State.send_soft (s : State) (a b : Nat) (m : Msg) : (s.send a b m).soft = s.soft := rfl
@[simp] theorem State.send_barriers (s : State) (a b : Nat) (m : Msg) : (s.send a b m).barriers = s.barriers := rfl
@[simp] theorem State.send_writers (s : State) (a b : Nat) (m : Msg) : (s.send a b m).writers = s.writers := rfl
@[simp] theorem State.send_regions (s : State) (a b : Nat) (m : Msg) : (s.send a b m).regions = s.regions := rfl
@[simp] theorem State.send_policy (s : State) (a b : Nat) (m : Msg) : (s.send a b m).policy = s.policy := rfl
@[simp] theorem State.send_domains (s : State) (a b : Nat) (m : Msg) : (s.send a b m).domains = s.domains := rfl
@[simp] theorem State.send_fat (s : State) (a b : Nat) (m : Msg) : (s.send a b m).fat = s.fat := rfl
@[simp] theorem State.send_devid (s : State) (a b : Nat) (m : Msg) : (s.send a b m).devid = s.devid := rfl
@[simp] theorem State.send_jseq (s : State) (a b : Nat) (m : Msg) : (s.send a b m).jseq = s.jseq := rfl
@[simp] theorem State.send_control (s : State) (a b : Nat) (m : Msg) : (s.send a b m).control = s.control := rfl
@[simp] theorem State.send_resp (s : State) (a b : Nat) (m : Msg) : (s.send a b m).resp = s.resp := rfl
@[simp] theorem State.send_spoilt (s : State) (a b : Nat) (m : Msg) : (s.send a b m).spoilt = s.spoilt := rfl
@[simp] theorem State.send_hq (s : State) (a b : Nat) (m : Msg) : (s.send a b m).hq = s.hq := rfl
@[simp] theorem State.send_ident (s : State) (a b : Nat) (m : Msg) : (s.send a b m).ident = s.ident := rfl
@[simp] theorem State.send_ports (s : State) (a b : Nat) (m : Msg) : (s.send a b m).ports = s.ports := rfl
@[simp] theorem State.send_colls (s : State) (a b : Nat) (m : Msg) : (s.send a b m).colls = s.colls := rfl
@[simp] theorem State.send_props (s : State) (a b : Nat) (m : Msg) : (s.send a b m).props = s.props := rfl
@[simp] theorem State.send_farShares (s : State) (a b : Nat) (m : Msg) : (s.send a b m).farShares = s.farShares := rfl
@[simp] theorem State.send_fires (s : State) (a b : Nat) (m : Msg) : (s.send a b m).fires = s.fires := rfl
@[simp] theorem State.send_contribs (s : State) (a b : Nat) (m : Msg) : (s.send a b m).contribs = s.contribs := rfl
@[simp] theorem State.send_closing (s : State) (a b : Nat) (m : Msg) : (s.send a b m).closing = s.closing := rfl
@[simp] theorem State.send_recStores (s : State) (a b : Nat) (m : Msg) : (s.send a b m).recStores = s.recStores := rfl
@[simp] theorem State.send_pushes (s : State) (a b : Nat) (m : Msg) : (s.send a b m).pushes = s.pushes := rfl
@[simp] theorem State.send_contins (s : State) (a b : Nat) (m : Msg) : (s.send a b m).contins = s.contins := rfl
@[simp] theorem State.send_dump (s : State) (a b : Nat) (m : Msg) : (s.send a b m).dump = s.dump := rfl
@[simp] theorem State.send_msix (s : State) (a b : Nat) (m : Msg) : (s.send a b m).msix = s.msix := rfl
@[simp] theorem State.send_cycle (s : State) (a b : Nat) (m : Msg) : (s.send a b m).cycle = s.cycle := rfl
@[simp] theorem State.send_fresh (s : State) (a b : Nat) (m : Msg) : (s.send a b m).fresh = s.fresh := rfl
@[simp] theorem State.send_inbox (s : State) (a b : Nat) (m : Msg) : (s.send a b m).inbox = s.inbox := rfl
@[simp] theorem State.send_phase (s : State) (a b : Nat) (m : Msg) : (s.send a b m).phase = s.phase := rfl
@[simp] theorem State.send_sDone (s : State) (a b : Nat) (m : Msg) : (s.send a b m).sDone = s.sDone := rfl
@[simp] theorem State.send_late (s : State) (a b : Nat) (m : Msg) : (s.send a b m).late = s.late := rfl
@[simp] theorem State.send_grouped (s : State) (a b : Nat) (m : Msg) : (s.send a b m).grouped = s.grouped := rfl
@[simp] theorem State.send_window (s : State) (a b : Nat) (m : Msg) : (s.send a b m).window = s.window := rfl
@[simp] theorem State.send_bundle (s : State) (a b : Nat) (m : Msg) : (s.send a b m).bundle = s.bundle := rfl
@[simp] theorem State.send_event (s : State) (a b : Nat) (m : Msg) : (s.send a b m).event = s.event := rfl

end Sys2Proof.Machine
end

