-- ==== Sys2Proof/Laws/Tables.lean ====
section
/-! SUPPORT. Sparse tables and four-element tables: reading after writing, and the canonical form. -/

-- The package is also checked as one text: one thread of elaboration keeps that within memory.
set_option Elab.async false

namespace Sys2Proof

variable {α : Type}

/-! ### Four-element tables -/

/-- What is written to one of four is read back. -/
theorem Quad.get_set_same (q : Quad α) (k : Strand) (v : α) : (q.set k.num v).get k.num = v := by
  cases k <;> rfl

/-- Writing one strand's element leaves another's. -/
theorem Quad.get_set_ne (q : Quad α) (j k : Strand) (v : α) (h : j ≠ k) : (q.set k.num v).get j.num = q.get j.num := by
  cases j <;> cases k <;> first | rfl | exact absurd rfl h

/-- Every element of a mapped four is mapped. -/
@[simp] theorem Quad.get_map {β : Type} (f : α → β) (q : Quad α) (i : Nat) : (q.map f).get i = f (q.get i) := by
  match i with
  | 0 => rfl
  | 1 => rfl
  | 2 => rfl
  | n + 3 => rfl

/-! ### Sparse tables -/

variable [DecidableEq α]

/-- An empty table is in canonical form. -/
@[simp] theorem SMap.wf_nil (d : α) : SMap.wf d [] = true := rfl

omit [DecidableEq α] in
/-- An empty table reads as the default. -/
@[simp] theorem SMap.get_nil (d : α) (k : Nat) : SMap.get d [] k = d := rfl

/-- A key below every listed key. -/
def SMap.below (k : Nat) (m : SMap α) : Prop := ∀ e ∈ m, k < e.1

/-- The canonical form, entry by entry. -/
theorem SMap.wf_cons (d : α) (j : Nat) (v : α) (m : SMap α) :
    SMap.wf d ((j, v) :: m) = true ↔ v ≠ d ∧ SMap.below j m ∧ SMap.wf d m = true := by
  induction m generalizing j v with
  | nil => simp [SMap.wf, SMap.below]
  | cons e m ih =>
    obtain ⟨k, w⟩ := e
    have hk := ih k w
    simp only [SMap.wf, Bool.and_eq_true, decide_eq_true_eq]
    constructor
    · rintro ⟨⟨h1, h2⟩, h3⟩
      refine ⟨h1, ?_, h3⟩
      intro e he
      rcases List.mem_cons.mp he with rfl | h
      · exact h2
      · exact Nat.lt_trans h2 ((hk.mp h3).2.1 e h)
    · rintro ⟨h1, h2, h3⟩
      exact ⟨⟨h1, h2 (k, w) (by simp)⟩, h3⟩

omit [DecidableEq α] in
/-- A key below every listed key reads as the default. -/
theorem SMap.get_below (d : α) (m : SMap α) (k : Nat) (h : SMap.below k m) : SMap.get d m k = d := by
  cases m with
  | nil => rfl
  | cons e m =>
    obtain ⟨j, v⟩ := e
    have hj : k < j := h (j, v) (by simp)
    have : ¬ j = k := by omega
    simp [SMap.get, this, hj]

/-- Writing keeps a table above a bound. -/
theorem SMap.below_set (d : α) (m : SMap α) (b k : Nat) (v : α) (hb : SMap.below b m) (hk : b < k) :
    SMap.below b (SMap.set d m k v) := by
  induction m with
  | nil =>
    intro e he
    by_cases hv : v = d <;> simp [SMap.set, hv] at he
    subst he
    exact hk
  | cons e m ih =>
    obtain ⟨j, u⟩ := e
    have hj : b < j := hb (j, u) (by simp)
    have hm : SMap.below b m := fun e he => hb e (List.mem_cons_of_mem _ he)
    intro e he
    simp only [SMap.set] at he
    split at he
    · split at he
      · exact hb e he
      · rcases List.mem_cons.mp he with rfl | h
        · exact hk
        · exact hb e h
    · split at he
      · split at he
        · exact hm e he
        · rcases List.mem_cons.mp he with rfl | h
          · exact hk
          · exact hm e h
      · rcases List.mem_cons.mp he with rfl | h
        · exact hj
        · exact ih hm e h

/-- Writing keeps the canonical form. -/
theorem SMap.set_wf (d : α) (m : SMap α) (k : Nat) (v : α) (h : SMap.wf d m = true) :
    SMap.wf d (SMap.set d m k v) = true := by
  induction m with
  | nil => by_cases hv : v = d <;> simp [SMap.set, SMap.wf, hv]
  | cons e m ih =>
    obtain ⟨j, u⟩ := e
    obtain ⟨hu, hb, hm⟩ := (SMap.wf_cons d j u m).mp h
    simp only [SMap.set]
    split
    · next hkj =>
      split
      · exact h
      · next hv =>
        refine (SMap.wf_cons d k v _).mpr ⟨hv, ?_, h⟩
        intro e he
        rcases List.mem_cons.mp he with rfl | h'
        · exact hkj
        · exact Nat.lt_trans hkj (hb e h')
    · split
      · next hkj =>
        split
        · exact hm
        · next hv => exact (SMap.wf_cons d k v m).mpr ⟨hv, hkj ▸ hb, hm⟩
      · next h1 h2 =>
        exact (SMap.wf_cons d j u _).mpr ⟨hu, SMap.below_set d m j k v hb (by omega), ih hm⟩

/-- Reading a table in canonical form after a write. -/
theorem SMap.get_set (d : α) (m : SMap α) (k : Nat) (v : α) (h : SMap.wf d m = true) (i : Nat) :
    SMap.get d (SMap.set d m k v) i = if i = k then v else SMap.get d m i := by
  induction m with
  | nil =>
    by_cases hv : v = d
    · simp [SMap.set, hv]
    · simp only [SMap.set, hv, ite_false, SMap.get]
      by_cases hi : i = k
      · simp [hi]
      · simp [hi, Ne.symm hi]
  | cons e m ih =>
    obtain ⟨j, u⟩ := e
    obtain ⟨hu, hb, hm⟩ := (SMap.wf_cons d j u m).mp h
    simp only [SMap.set]
    split
    · next hkj =>
      split
      · next hv =>
        by_cases hi : i = k
        · subst hi
          have : ¬ j = i := by omega
          simp [SMap.get, this, hkj, hv]
        · simp [hi]
      · by_cases hi : i = k
        · subst hi; simp [SMap.get]
        · simp only [hi, ite_false]
          rw [SMap.get]
          simp only [Ne.symm hi, ite_false]
          split
          · next hik =>
            have h1 : ¬ j = i := by omega
            have h2 : i < j := by omega
            simp [SMap.get, h1, h2]
          · rfl
    · split
      · next hkj =>
        subst hkj
        split
        · next hv =>
          by_cases hi : i = k
          · subst hi; simp [hv, SMap.get_below d m i hb]
          · simp only [hi, ite_false, SMap.get, Ne.symm hi]
            split
            · next hik =>
              exact SMap.get_below d m i (fun e he => Nat.lt_trans hik (hb e he))
            · rfl
        · by_cases hi : i = k
          · subst hi; simp [SMap.get]
          · simp [SMap.get, hi, Ne.symm hi]
      · next h1 h2 =>
        simp only [SMap.get]
        by_cases hi : i = k
        · subst hi
          have h3 : ¬ j = i := by omega
          have h4 : ¬ i < j := h1
          simp [h3, h4, ih hm]
        · simp only [hi, ite_false] at ih ⊢
          rw [ih hm]

/-- Writing a value that is not the default: every key reads as expected, whatever the form of the table. -/
theorem SMap.get_set_of_ne (d : α) (m : SMap α) (k : Nat) (v : α) (hv : v ≠ d) (i : Nat) :
    SMap.get d (SMap.set d m k v) i = if i = k then v else SMap.get d m i := by
  induction m with
  | nil =>
    by_cases hi : i = k
    · simp [SMap.set, hv, SMap.get, hi]
    · simp [SMap.set, hv, SMap.get, hi, Ne.symm hi]
  | cons e m ih =>
    obtain ⟨j, u⟩ := e
    simp only [SMap.set, hv, ite_false]
    split
    · next hkj =>
      by_cases hi : i = k
      · subst hi; simp [SMap.get]
      · simp only [hi, ite_false]
        rw [SMap.get]
        simp only [Ne.symm hi, ite_false]
        split
        · next hik =>
          have h1 : ¬ j = i := by omega
          have h2 : i < j := by omega
          simp [SMap.get, h1, h2]
        · rfl
    · split
      · next hkj =>
        subst hkj
        by_cases hi : i = k
        · subst hi; simp [SMap.get]
        · simp [SMap.get, hi, Ne.symm hi]
      · next h1 h2 =>
        simp only [SMap.get]
        by_cases hi : i = k
        · subst hi
          have h3 : ¬ j = i := by omega
          have h4 : ¬ i < j := h1
          simp [h3, h4, ih]
        · simp only [hi, ite_false] at ih ⊢
          rw [ih]

end Sys2Proof
end

