-- ==== Sys2Proof/Laws/Operands.lean ====
section
/-! SUPPORT. The state in which a word's operands are read: what the count and the pops of its issue leave (R73, R96). One
lemma per field. -/

-- The package is also checked as one text: one thread of elaboration keeps that within memory.
set_option Elab.async false

namespace Sys2Proof.Machine

theorem acquire_id (s : State) (n : Nat) : (s.acquire n).ctx.id = s.ctx.id := by unfold State.acquire; split <;> rfl
theorem acquire_life (s : State) (n : Nat) : (s.acquire n).ctx.life = s.ctx.life := by unfold State.acquire; split <;> rfl
theorem acquire_task (s : State) (n : Nat) : (s.acquire n).ctx.task = s.ctx.task := by unfold State.acquire; split <;> rfl
theorem acquire_space (s : State) (n : Nat) : (s.acquire n).ctx.space = s.ctx.space := by unfold State.acquire; split <;> rfl
theorem acquire_die (s : State) (n : Nat) : (s.acquire n).ctx.die = s.ctx.die := by unfold State.acquire; split <;> rfl
theorem acquire_plate (s : State) (n : Nat) : (s.acquire n).ctx.plate = s.ctx.plate := by unfold State.acquire; split <;> rfl
theorem acquire_place (s : State) (n : Nat) : (s.acquire n).ctx.place = s.ctx.place := by unfold State.acquire; split <;> rfl
theorem acquire_base (s : State) (n : Nat) : (s.acquire n).ctx.base = s.ctx.base := by unfold State.acquire; split <;> rfl
theorem acquire_strands (s : State) (n : Nat) : (s.acquire n).ctx.strands = s.ctx.strands := by unfold State.acquire; split <;> rfl
theorem acquire_lockstep (s : State) (n : Nat) : (s.acquire n).ctx.lockstep = s.ctx.lockstep := by unfold State.acquire; split <;> rfl
theorem acquire_cur (s : State) (n : Nat) : (s.acquire n).ctx.cur = s.ctx.cur := by unfold State.acquire; split <;> rfl
theorem acquire_x (s : State) (n : Nat) : (s.acquire n).ctx.x = s.ctx.x := by unfold State.acquire; split <;> rfl
theorem acquire_p (s : State) (n : Nat) : (s.acquire n).ctx.p = s.ctx.p := by unfold State.acquire; split <;> rfl
theorem acquire_vp (s : State) (n : Nat) : (s.acquire n).ctx.vp = s.ctx.vp := by unfold State.acquire; split <;> rfl
theorem acquire_lines (s : State) (n : Nat) : (s.acquire n).ctx.lines = s.ctx.lines := by unfold State.acquire; split <;> rfl
theorem acquire_tokNext (s : State) (n : Nat) : (s.acquire n).ctx.tokNext = s.ctx.tokNext := by unfold State.acquire; split <;> rfl
theorem acquire_tokPrev (s : State) (n : Nat) : (s.acquire n).ctx.tokPrev = s.ctx.tokPrev := by unfold State.acquire; split <;> rfl
theorem acquire_newNext (s : State) (n : Nat) : (s.acquire n).ctx.newNext = s.ctx.newNext := by unfold State.acquire; split <;> rfl
theorem acquire_newPrev (s : State) (n : Nat) : (s.acquire n).ctx.newPrev = s.ctx.newPrev := by unfold State.acquire; split <;> rfl
theorem acquire_outNext (s : State) (n : Nat) : (s.acquire n).ctx.outNext = s.ctx.outNext := by unfold State.acquire; split <;> rfl
theorem acquire_outPrev (s : State) (n : Nat) : (s.acquire n).ctx.outPrev = s.ctx.outPrev := by unfold State.acquire; split <;> rfl
theorem acquire_loop (s : State) (n : Nat) : (s.acquire n).ctx.loop = s.ctx.loop := by unfold State.acquire; split <;> rfl
theorem acquire_g (s : State) (n : Nat) : (s.acquire n).ctx.g = s.ctx.g := by unfold State.acquire; split <;> rfl
theorem acquire_h (s : State) (n : Nat) : (s.acquire n).ctx.h = s.ctx.h := by unfold State.acquire; split <;> rfl
theorem acquire_csr (s : State) (n : Nat) : (s.acquire n).ctx.csr = s.ctx.csr := by unfold State.acquire; split <;> rfl
theorem acquire_frame (s : State) (n : Nat) : (s.acquire n).ctx.frame = s.ctx.frame := by unfold State.acquire; split <;> rfl
theorem acquire_stencil (s : State) (n : Nat) : (s.acquire n).ctx.stencil = s.ctx.stencil := by unfold State.acquire; split <;> rfl
theorem acquire_esn (s : State) (n : Nat) : (s.acquire n).ctx.esn = s.ctx.esn := by unfold State.acquire; split <;> rfl
theorem acquire_queues (s : State) (n : Nat) : (s.acquire n).ctx.queues = s.ctx.queues := by unfold State.acquire; split <;> rfl
theorem acquire_held (s : State) (n : Nat) : (s.acquire n).ctx.held = s.ctx.held := by unfold State.acquire; split <;> rfl
theorem acquire_weight (s : State) (n : Nat) : (s.acquire n).ctx.weight = s.ctx.weight := by unfold State.acquire; split <;> rfl
theorem acquire_staging (s : State) (n : Nat) : (s.acquire n).ctx.staging = s.ctx.staging := by unfold State.acquire; split <;> rfl
theorem acquire_tiles (s : State) (n : Nat) : (s.acquire n).ctx.tiles = s.ctx.tiles := by unfold State.acquire; split <;> rfl
theorem acquire_spad (s : State) (n : Nat) : (s.acquire n).ctx.spad = s.ctx.spad := by unfold State.acquire; split <;> rfl
theorem acquire_fe (s : State) (n : Nat) : (s.acquire n).ctx.fe = s.ctx.fe := by unfold State.acquire; split <;> rfl
theorem acquire_tags (s : State) (n : Nat) : (s.acquire n).ctx.tags = s.ctx.tags := by unfold State.acquire; split <;> rfl
theorem acquire_sig (s : State) (n : Nat) : (s.acquire n).ctx.sig = s.ctx.sig := by unfold State.acquire; split <;> rfl
theorem acquire_acct (s : State) (n : Nat) : (s.acquire n).ctx.acct = s.ctx.acct := by unfold State.acquire; split <;> rfl
theorem acquire_engAcct (s : State) (n : Nat) : (s.acquire n).ctx.engAcct = s.ctx.engAcct := by unfold State.acquire; split <;> rfl
theorem acquire_runs (s : State) (n : Nat) : (s.acquire n).ctx.runs = s.ctx.runs := by unfold State.acquire; split <;> rfl
theorem acquire_engRuns (s : State) (n : Nat) : (s.acquire n).ctx.engRuns = s.ctx.engRuns := by unfold State.acquire; split <;> rfl
theorem acquire_booking (s : State) (n : Nat) : (s.acquire n).ctx.booking = s.ctx.booking := by unfold State.acquire; split <;> rfl
theorem acquire_saved (s : State) (n : Nat) : (s.acquire n).ctx.saved = s.ctx.saved := by unfold State.acquire; split <;> rfl
theorem acquire_latch (s : State) (n : Nat) : (s.acquire n).ctx.latch = s.ctx.latch := by unfold State.acquire; split <;> rfl
theorem acquire_ecount (s : State) (n : Nat) : (s.acquire n).ctx.ecount = s.ctx.ecount := by unfold State.acquire; split <;> rfl
theorem acquire_pends (s : State) (n : Nat) : (s.acquire n).ctx.pends = s.ctx.pends := by unfold State.acquire; split <;> rfl
theorem acquire_flight (s : State) (n : Nat) : (s.acquire n).ctx.flight = s.ctx.flight := by unfold State.acquire; split <;> rfl
theorem acquire_hold (s : State) (n : Nat) : (s.acquire n).ctx.hold = s.ctx.hold := by unfold State.acquire; split <;> rfl
theorem acquire_holdFor (s : State) (n : Nat) : (s.acquire n).ctx.holdFor = s.ctx.holdFor := by unfold State.acquire; split <;> rfl
theorem acquire_ported (s : State) (n : Nat) : (s.acquire n).ctx.ported = s.ctx.ported := by unfold State.acquire; split <;> rfl
theorem acquire_slots (s : State) (n : Nat) : (s.acquire n).ctx.slots = s.ctx.slots := by unfold State.acquire; split <;> rfl
theorem acquire_slotPcs (s : State) (n : Nat) : (s.acquire n).ctx.slotPcs = s.ctx.slotPcs := by unfold State.acquire; split <;> rfl
theorem acquire_ending (s : State) (n : Nat) : (s.acquire n).ctx.ending = s.ctx.ending := by unfold State.acquire; split <;> rfl
theorem acquire_saving (s : State) (n : Nat) : (s.acquire n).ctx.saving = s.ctx.saving := by unfold State.acquire; split <;> rfl
theorem acquire_ready (s : State) (n : Nat) : (s.acquire n).ctx.ready = s.ctx.ready := by unfold State.acquire; split <;> rfl
theorem acquire_streams (s : State) (n : Nat) : (s.acquire n).ctx.streams = s.ctx.streams := by unfold State.acquire; split <;> rfl
theorem acquire_joining (s : State) (n : Nat) : (s.acquire n).ctx.joining = s.ctx.joining := by unfold State.acquire; split <;> rfl
theorem acquire_asked (s : State) (n : Nat) : (s.acquire n).ctx.asked = s.ctx.asked := by unfold State.acquire; split <;> rfl
theorem acquire_granted (s : State) (n : Nat) : (s.acquire n).ctx.granted = s.ctx.granted := by unfold State.acquire; split <;> rfl
theorem acquire_engstep (s : State) (n : Nat) : (s.acquire n).ctx.engstep = s.ctx.engstep := by unfold State.acquire; split <;> rfl
theorem acquire_steps (s : State) (n : Nat) : (s.acquire n).ctx.steps = s.ctx.steps := by unfold State.acquire; split <;> rfl
theorem acquire_bpPass (s : State) (n : Nat) : (s.acquire n).ctx.bpPass = s.ctx.bpPass := by unfold State.acquire; split <;> rfl
theorem acquire_ibPass (s : State) (n : Nat) : (s.acquire n).ctx.ibPass = s.ctx.ibPass := by unfold State.acquire; split <;> rfl
theorem acquire_since (s : State) (n : Nat) : (s.acquire n).ctx.since = s.ctx.since := by unfold State.acquire; split <;> rfl
theorem popPrev_id (c : Ctx) (k : Strand) : (c.popPrev k).1.id = c.id := by unfold Ctx.popPrev; split <;> rfl
theorem popNext_id (c : Ctx) (k : Strand) : (c.popNext k).1.id = c.id := by unfold Ctx.popNext; split <;> rfl
theorem pop_id (c : Ctx) (k : Strand) (a b : Bool) : (c.pop k a b).1.id = c.id := by
  unfold Ctx.pop; cases a <;> cases b <;> simp [popPrev_id, popNext_id]
theorem popPrev_life (c : Ctx) (k : Strand) : (c.popPrev k).1.life = c.life := by unfold Ctx.popPrev; split <;> rfl
theorem popNext_life (c : Ctx) (k : Strand) : (c.popNext k).1.life = c.life := by unfold Ctx.popNext; split <;> rfl
theorem pop_life (c : Ctx) (k : Strand) (a b : Bool) : (c.pop k a b).1.life = c.life := by
  unfold Ctx.pop; cases a <;> cases b <;> simp [popPrev_life, popNext_life]
theorem popPrev_task (c : Ctx) (k : Strand) : (c.popPrev k).1.task = c.task := by unfold Ctx.popPrev; split <;> rfl
theorem popNext_task (c : Ctx) (k : Strand) : (c.popNext k).1.task = c.task := by unfold Ctx.popNext; split <;> rfl
theorem pop_task (c : Ctx) (k : Strand) (a b : Bool) : (c.pop k a b).1.task = c.task := by
  unfold Ctx.pop; cases a <;> cases b <;> simp [popPrev_task, popNext_task]
theorem popPrev_space (c : Ctx) (k : Strand) : (c.popPrev k).1.space = c.space := by unfold Ctx.popPrev; split <;> rfl
theorem popNext_space (c : Ctx) (k : Strand) : (c.popNext k).1.space = c.space := by unfold Ctx.popNext; split <;> rfl
theorem pop_space (c : Ctx) (k : Strand) (a b : Bool) : (c.pop k a b).1.space = c.space := by
  unfold Ctx.pop; cases a <;> cases b <;> simp [popPrev_space, popNext_space]
theorem popPrev_die (c : Ctx) (k : Strand) : (c.popPrev k).1.die = c.die := by unfold Ctx.popPrev; split <;> rfl
theorem popNext_die (c : Ctx) (k : Strand) : (c.popNext k).1.die = c.die := by unfold Ctx.popNext; split <;> rfl
theorem pop_die (c : Ctx) (k : Strand) (a b : Bool) : (c.pop k a b).1.die = c.die := by
  unfold Ctx.pop; cases a <;> cases b <;> simp [popPrev_die, popNext_die]
theorem popPrev_plate (c : Ctx) (k : Strand) : (c.popPrev k).1.plate = c.plate := by unfold Ctx.popPrev; split <;> rfl
theorem popNext_plate (c : Ctx) (k : Strand) : (c.popNext k).1.plate = c.plate := by unfold Ctx.popNext; split <;> rfl
theorem pop_plate (c : Ctx) (k : Strand) (a b : Bool) : (c.pop k a b).1.plate = c.plate := by
  unfold Ctx.pop; cases a <;> cases b <;> simp [popPrev_plate, popNext_plate]
theorem popPrev_place (c : Ctx) (k : Strand) : (c.popPrev k).1.place = c.place := by unfold Ctx.popPrev; split <;> rfl
theorem popNext_place (c : Ctx) (k : Strand) : (c.popNext k).1.place = c.place := by unfold Ctx.popNext; split <;> rfl
theorem pop_place (c : Ctx) (k : Strand) (a b : Bool) : (c.pop k a b).1.place = c.place := by
  unfold Ctx.pop; cases a <;> cases b <;> simp [popPrev_place, popNext_place]
theorem popPrev_base (c : Ctx) (k : Strand) : (c.popPrev k).1.base = c.base := by unfold Ctx.popPrev; split <;> rfl
theorem popNext_base (c : Ctx) (k : Strand) : (c.popNext k).1.base = c.base := by unfold Ctx.popNext; split <;> rfl
theorem pop_base (c : Ctx) (k : Strand) (a b : Bool) : (c.pop k a b).1.base = c.base := by
  unfold Ctx.pop; cases a <;> cases b <;> simp [popPrev_base, popNext_base]
theorem popPrev_lockstep (c : Ctx) (k : Strand) : (c.popPrev k).1.lockstep = c.lockstep := by unfold Ctx.popPrev; split <;> rfl
theorem popNext_lockstep (c : Ctx) (k : Strand) : (c.popNext k).1.lockstep = c.lockstep := by unfold Ctx.popNext; split <;> rfl
theorem pop_lockstep (c : Ctx) (k : Strand) (a b : Bool) : (c.pop k a b).1.lockstep = c.lockstep := by
  unfold Ctx.pop; cases a <;> cases b <;> simp [popPrev_lockstep, popNext_lockstep]
theorem popPrev_cur (c : Ctx) (k : Strand) : (c.popPrev k).1.cur = c.cur := by unfold Ctx.popPrev; split <;> rfl
theorem popNext_cur (c : Ctx) (k : Strand) : (c.popNext k).1.cur = c.cur := by unfold Ctx.popNext; split <;> rfl
theorem pop_cur (c : Ctx) (k : Strand) (a b : Bool) : (c.pop k a b).1.cur = c.cur := by
  unfold Ctx.pop; cases a <;> cases b <;> simp [popPrev_cur, popNext_cur]
theorem popPrev_x (c : Ctx) (k : Strand) : (c.popPrev k).1.x = c.x := by unfold Ctx.popPrev; split <;> rfl
theorem popNext_x (c : Ctx) (k : Strand) : (c.popNext k).1.x = c.x := by unfold Ctx.popNext; split <;> rfl
theorem pop_x (c : Ctx) (k : Strand) (a b : Bool) : (c.pop k a b).1.x = c.x := by
  unfold Ctx.pop; cases a <;> cases b <;> simp [popPrev_x, popNext_x]
theorem popPrev_p (c : Ctx) (k : Strand) : (c.popPrev k).1.p = c.p := by unfold Ctx.popPrev; split <;> rfl
theorem popNext_p (c : Ctx) (k : Strand) : (c.popNext k).1.p = c.p := by unfold Ctx.popNext; split <;> rfl
theorem pop_p (c : Ctx) (k : Strand) (a b : Bool) : (c.pop k a b).1.p = c.p := by
  unfold Ctx.pop; cases a <;> cases b <;> simp [popPrev_p, popNext_p]
theorem popPrev_vp (c : Ctx) (k : Strand) : (c.popPrev k).1.vp = c.vp := by unfold Ctx.popPrev; split <;> rfl
theorem popNext_vp (c : Ctx) (k : Strand) : (c.popNext k).1.vp = c.vp := by unfold Ctx.popNext; split <;> rfl
theorem pop_vp (c : Ctx) (k : Strand) (a b : Bool) : (c.pop k a b).1.vp = c.vp := by
  unfold Ctx.pop; cases a <;> cases b <;> simp [popPrev_vp, popNext_vp]
theorem popPrev_lines (c : Ctx) (k : Strand) : (c.popPrev k).1.lines = c.lines := by unfold Ctx.popPrev; split <;> rfl
theorem popNext_lines (c : Ctx) (k : Strand) : (c.popNext k).1.lines = c.lines := by unfold Ctx.popNext; split <;> rfl
theorem pop_lines (c : Ctx) (k : Strand) (a b : Bool) : (c.pop k a b).1.lines = c.lines := by
  unfold Ctx.pop; cases a <;> cases b <;> simp [popPrev_lines, popNext_lines]
theorem popPrev_newNext (c : Ctx) (k : Strand) : (c.popPrev k).1.newNext = c.newNext := by unfold Ctx.popPrev; split <;> rfl
theorem popNext_newNext (c : Ctx) (k : Strand) : (c.popNext k).1.newNext = c.newNext := by unfold Ctx.popNext; split <;> rfl
theorem pop_newNext (c : Ctx) (k : Strand) (a b : Bool) : (c.pop k a b).1.newNext = c.newNext := by
  unfold Ctx.pop; cases a <;> cases b <;> simp [popPrev_newNext, popNext_newNext]
theorem popPrev_newPrev (c : Ctx) (k : Strand) : (c.popPrev k).1.newPrev = c.newPrev := by unfold Ctx.popPrev; split <;> rfl
theorem popNext_newPrev (c : Ctx) (k : Strand) : (c.popNext k).1.newPrev = c.newPrev := by unfold Ctx.popNext; split <;> rfl
theorem pop_newPrev (c : Ctx) (k : Strand) (a b : Bool) : (c.pop k a b).1.newPrev = c.newPrev := by
  unfold Ctx.pop; cases a <;> cases b <;> simp [popPrev_newPrev, popNext_newPrev]
theorem popPrev_outNext (c : Ctx) (k : Strand) : (c.popPrev k).1.outNext = c.outNext := by unfold Ctx.popPrev; split <;> rfl
theorem popNext_outNext (c : Ctx) (k : Strand) : (c.popNext k).1.outNext = c.outNext := by unfold Ctx.popNext; split <;> rfl
theorem pop_outNext (c : Ctx) (k : Strand) (a b : Bool) : (c.pop k a b).1.outNext = c.outNext := by
  unfold Ctx.pop; cases a <;> cases b <;> simp [popPrev_outNext, popNext_outNext]
theorem popPrev_outPrev (c : Ctx) (k : Strand) : (c.popPrev k).1.outPrev = c.outPrev := by unfold Ctx.popPrev; split <;> rfl
theorem popNext_outPrev (c : Ctx) (k : Strand) : (c.popNext k).1.outPrev = c.outPrev := by unfold Ctx.popNext; split <;> rfl
theorem pop_outPrev (c : Ctx) (k : Strand) (a b : Bool) : (c.pop k a b).1.outPrev = c.outPrev := by
  unfold Ctx.pop; cases a <;> cases b <;> simp [popPrev_outPrev, popNext_outPrev]
theorem popPrev_loop (c : Ctx) (k : Strand) : (c.popPrev k).1.loop = c.loop := by unfold Ctx.popPrev; split <;> rfl
theorem popNext_loop (c : Ctx) (k : Strand) : (c.popNext k).1.loop = c.loop := by unfold Ctx.popNext; split <;> rfl
theorem pop_loop (c : Ctx) (k : Strand) (a b : Bool) : (c.pop k a b).1.loop = c.loop := by
  unfold Ctx.pop; cases a <;> cases b <;> simp [popPrev_loop, popNext_loop]
theorem popPrev_g (c : Ctx) (k : Strand) : (c.popPrev k).1.g = c.g := by unfold Ctx.popPrev; split <;> rfl
theorem popNext_g (c : Ctx) (k : Strand) : (c.popNext k).1.g = c.g := by unfold Ctx.popNext; split <;> rfl
theorem pop_g (c : Ctx) (k : Strand) (a b : Bool) : (c.pop k a b).1.g = c.g := by
  unfold Ctx.pop; cases a <;> cases b <;> simp [popPrev_g, popNext_g]
theorem popPrev_h (c : Ctx) (k : Strand) : (c.popPrev k).1.h = c.h := by unfold Ctx.popPrev; split <;> rfl
theorem popNext_h (c : Ctx) (k : Strand) : (c.popNext k).1.h = c.h := by unfold Ctx.popNext; split <;> rfl
theorem pop_h (c : Ctx) (k : Strand) (a b : Bool) : (c.pop k a b).1.h = c.h := by
  unfold Ctx.pop; cases a <;> cases b <;> simp [popPrev_h, popNext_h]
theorem popPrev_csr (c : Ctx) (k : Strand) : (c.popPrev k).1.csr = c.csr := by unfold Ctx.popPrev; split <;> rfl
theorem popNext_csr (c : Ctx) (k : Strand) : (c.popNext k).1.csr = c.csr := by unfold Ctx.popNext; split <;> rfl
theorem pop_csr (c : Ctx) (k : Strand) (a b : Bool) : (c.pop k a b).1.csr = c.csr := by
  unfold Ctx.pop; cases a <;> cases b <;> simp [popPrev_csr, popNext_csr]
theorem popPrev_frame (c : Ctx) (k : Strand) : (c.popPrev k).1.frame = c.frame := by unfold Ctx.popPrev; split <;> rfl
theorem popNext_frame (c : Ctx) (k : Strand) : (c.popNext k).1.frame = c.frame := by unfold Ctx.popNext; split <;> rfl
theorem pop_frame (c : Ctx) (k : Strand) (a b : Bool) : (c.pop k a b).1.frame = c.frame := by
  unfold Ctx.pop; cases a <;> cases b <;> simp [popPrev_frame, popNext_frame]
theorem popPrev_stencil (c : Ctx) (k : Strand) : (c.popPrev k).1.stencil = c.stencil := by unfold Ctx.popPrev; split <;> rfl
theorem popNext_stencil (c : Ctx) (k : Strand) : (c.popNext k).1.stencil = c.stencil := by unfold Ctx.popNext; split <;> rfl
theorem pop_stencil (c : Ctx) (k : Strand) (a b : Bool) : (c.pop k a b).1.stencil = c.stencil := by
  unfold Ctx.pop; cases a <;> cases b <;> simp [popPrev_stencil, popNext_stencil]
theorem popPrev_esn (c : Ctx) (k : Strand) : (c.popPrev k).1.esn = c.esn := by unfold Ctx.popPrev; split <;> rfl
theorem popNext_esn (c : Ctx) (k : Strand) : (c.popNext k).1.esn = c.esn := by unfold Ctx.popNext; split <;> rfl
theorem pop_esn (c : Ctx) (k : Strand) (a b : Bool) : (c.pop k a b).1.esn = c.esn := by
  unfold Ctx.pop; cases a <;> cases b <;> simp [popPrev_esn, popNext_esn]
theorem popPrev_queues (c : Ctx) (k : Strand) : (c.popPrev k).1.queues = c.queues := by unfold Ctx.popPrev; split <;> rfl
theorem popNext_queues (c : Ctx) (k : Strand) : (c.popNext k).1.queues = c.queues := by unfold Ctx.popNext; split <;> rfl
theorem pop_queues (c : Ctx) (k : Strand) (a b : Bool) : (c.pop k a b).1.queues = c.queues := by
  unfold Ctx.pop; cases a <;> cases b <;> simp [popPrev_queues, popNext_queues]
theorem popPrev_held (c : Ctx) (k : Strand) : (c.popPrev k).1.held = c.held := by unfold Ctx.popPrev; split <;> rfl
theorem popNext_held (c : Ctx) (k : Strand) : (c.popNext k).1.held = c.held := by unfold Ctx.popNext; split <;> rfl
theorem pop_held (c : Ctx) (k : Strand) (a b : Bool) : (c.pop k a b).1.held = c.held := by
  unfold Ctx.pop; cases a <;> cases b <;> simp [popPrev_held, popNext_held]
theorem popPrev_weight (c : Ctx) (k : Strand) : (c.popPrev k).1.weight = c.weight := by unfold Ctx.popPrev; split <;> rfl
theorem popNext_weight (c : Ctx) (k : Strand) : (c.popNext k).1.weight = c.weight := by unfold Ctx.popNext; split <;> rfl
theorem pop_weight (c : Ctx) (k : Strand) (a b : Bool) : (c.pop k a b).1.weight = c.weight := by
  unfold Ctx.pop; cases a <;> cases b <;> simp [popPrev_weight, popNext_weight]
theorem popPrev_staging (c : Ctx) (k : Strand) : (c.popPrev k).1.staging = c.staging := by unfold Ctx.popPrev; split <;> rfl
theorem popNext_staging (c : Ctx) (k : Strand) : (c.popNext k).1.staging = c.staging := by unfold Ctx.popNext; split <;> rfl
theorem pop_staging (c : Ctx) (k : Strand) (a b : Bool) : (c.pop k a b).1.staging = c.staging := by
  unfold Ctx.pop; cases a <;> cases b <;> simp [popPrev_staging, popNext_staging]
theorem popPrev_tiles (c : Ctx) (k : Strand) : (c.popPrev k).1.tiles = c.tiles := by unfold Ctx.popPrev; split <;> rfl
theorem popNext_tiles (c : Ctx) (k : Strand) : (c.popNext k).1.tiles = c.tiles := by unfold Ctx.popNext; split <;> rfl
theorem pop_tiles (c : Ctx) (k : Strand) (a b : Bool) : (c.pop k a b).1.tiles = c.tiles := by
  unfold Ctx.pop; cases a <;> cases b <;> simp [popPrev_tiles, popNext_tiles]
theorem popPrev_spad (c : Ctx) (k : Strand) : (c.popPrev k).1.spad = c.spad := by unfold Ctx.popPrev; split <;> rfl
theorem popNext_spad (c : Ctx) (k : Strand) : (c.popNext k).1.spad = c.spad := by unfold Ctx.popNext; split <;> rfl
theorem pop_spad (c : Ctx) (k : Strand) (a b : Bool) : (c.pop k a b).1.spad = c.spad := by
  unfold Ctx.pop; cases a <;> cases b <;> simp [popPrev_spad, popNext_spad]
theorem popPrev_fe (c : Ctx) (k : Strand) : (c.popPrev k).1.fe = c.fe := by unfold Ctx.popPrev; split <;> rfl
theorem popNext_fe (c : Ctx) (k : Strand) : (c.popNext k).1.fe = c.fe := by unfold Ctx.popNext; split <;> rfl
theorem pop_fe (c : Ctx) (k : Strand) (a b : Bool) : (c.pop k a b).1.fe = c.fe := by
  unfold Ctx.pop; cases a <;> cases b <;> simp [popPrev_fe, popNext_fe]
theorem popPrev_tags (c : Ctx) (k : Strand) : (c.popPrev k).1.tags = c.tags := by unfold Ctx.popPrev; split <;> rfl
theorem popNext_tags (c : Ctx) (k : Strand) : (c.popNext k).1.tags = c.tags := by unfold Ctx.popNext; split <;> rfl
theorem pop_tags (c : Ctx) (k : Strand) (a b : Bool) : (c.pop k a b).1.tags = c.tags := by
  unfold Ctx.pop; cases a <;> cases b <;> simp [popPrev_tags, popNext_tags]
theorem popPrev_view (c : Ctx) (k : Strand) : (c.popPrev k).1.view = c.view := by unfold Ctx.popPrev; split <;> rfl
theorem popNext_view (c : Ctx) (k : Strand) : (c.popNext k).1.view = c.view := by unfold Ctx.popNext; split <;> rfl
theorem pop_view (c : Ctx) (k : Strand) (a b : Bool) : (c.pop k a b).1.view = c.view := by
  unfold Ctx.pop; cases a <;> cases b <;> simp [popPrev_view, popNext_view]
theorem popPrev_sig (c : Ctx) (k : Strand) : (c.popPrev k).1.sig = c.sig := by unfold Ctx.popPrev; split <;> rfl
theorem popNext_sig (c : Ctx) (k : Strand) : (c.popNext k).1.sig = c.sig := by unfold Ctx.popNext; split <;> rfl
theorem pop_sig (c : Ctx) (k : Strand) (a b : Bool) : (c.pop k a b).1.sig = c.sig := by
  unfold Ctx.pop; cases a <;> cases b <;> simp [popPrev_sig, popNext_sig]
theorem popPrev_acct (c : Ctx) (k : Strand) : (c.popPrev k).1.acct = c.acct := by unfold Ctx.popPrev; split <;> rfl
theorem popNext_acct (c : Ctx) (k : Strand) : (c.popNext k).1.acct = c.acct := by unfold Ctx.popNext; split <;> rfl
theorem pop_acct (c : Ctx) (k : Strand) (a b : Bool) : (c.pop k a b).1.acct = c.acct := by
  unfold Ctx.pop; cases a <;> cases b <;> simp [popPrev_acct, popNext_acct]
theorem popPrev_engAcct (c : Ctx) (k : Strand) : (c.popPrev k).1.engAcct = c.engAcct := by unfold Ctx.popPrev; split <;> rfl
theorem popNext_engAcct (c : Ctx) (k : Strand) : (c.popNext k).1.engAcct = c.engAcct := by unfold Ctx.popNext; split <;> rfl
theorem pop_engAcct (c : Ctx) (k : Strand) (a b : Bool) : (c.pop k a b).1.engAcct = c.engAcct := by
  unfold Ctx.pop; cases a <;> cases b <;> simp [popPrev_engAcct, popNext_engAcct]
theorem popPrev_runs (c : Ctx) (k : Strand) : (c.popPrev k).1.runs = c.runs := by unfold Ctx.popPrev; split <;> rfl
theorem popNext_runs (c : Ctx) (k : Strand) : (c.popNext k).1.runs = c.runs := by unfold Ctx.popNext; split <;> rfl
theorem pop_runs (c : Ctx) (k : Strand) (a b : Bool) : (c.pop k a b).1.runs = c.runs := by
  unfold Ctx.pop; cases a <;> cases b <;> simp [popPrev_runs, popNext_runs]
theorem popPrev_engRuns (c : Ctx) (k : Strand) : (c.popPrev k).1.engRuns = c.engRuns := by unfold Ctx.popPrev; split <;> rfl
theorem popNext_engRuns (c : Ctx) (k : Strand) : (c.popNext k).1.engRuns = c.engRuns := by unfold Ctx.popNext; split <;> rfl
theorem pop_engRuns (c : Ctx) (k : Strand) (a b : Bool) : (c.pop k a b).1.engRuns = c.engRuns := by
  unfold Ctx.pop; cases a <;> cases b <;> simp [popPrev_engRuns, popNext_engRuns]
theorem popPrev_booking (c : Ctx) (k : Strand) : (c.popPrev k).1.booking = c.booking := by unfold Ctx.popPrev; split <;> rfl
theorem popNext_booking (c : Ctx) (k : Strand) : (c.popNext k).1.booking = c.booking := by unfold Ctx.popNext; split <;> rfl
theorem pop_booking (c : Ctx) (k : Strand) (a b : Bool) : (c.pop k a b).1.booking = c.booking := by
  unfold Ctx.pop; cases a <;> cases b <;> simp [popPrev_booking, popNext_booking]
theorem popPrev_saved (c : Ctx) (k : Strand) : (c.popPrev k).1.saved = c.saved := by unfold Ctx.popPrev; split <;> rfl
theorem popNext_saved (c : Ctx) (k : Strand) : (c.popNext k).1.saved = c.saved := by unfold Ctx.popNext; split <;> rfl
theorem pop_saved (c : Ctx) (k : Strand) (a b : Bool) : (c.pop k a b).1.saved = c.saved := by
  unfold Ctx.pop; cases a <;> cases b <;> simp [popPrev_saved, popNext_saved]
theorem popPrev_latch (c : Ctx) (k : Strand) : (c.popPrev k).1.latch = c.latch := by unfold Ctx.popPrev; split <;> rfl
theorem popNext_latch (c : Ctx) (k : Strand) : (c.popNext k).1.latch = c.latch := by unfold Ctx.popNext; split <;> rfl
theorem pop_latch (c : Ctx) (k : Strand) (a b : Bool) : (c.pop k a b).1.latch = c.latch := by
  unfold Ctx.pop; cases a <;> cases b <;> simp [popPrev_latch, popNext_latch]
theorem popPrev_ecount (c : Ctx) (k : Strand) : (c.popPrev k).1.ecount = c.ecount := by unfold Ctx.popPrev; split <;> rfl
theorem popNext_ecount (c : Ctx) (k : Strand) : (c.popNext k).1.ecount = c.ecount := by unfold Ctx.popNext; split <;> rfl
theorem pop_ecount (c : Ctx) (k : Strand) (a b : Bool) : (c.pop k a b).1.ecount = c.ecount := by
  unfold Ctx.pop; cases a <;> cases b <;> simp [popPrev_ecount, popNext_ecount]
theorem popPrev_pends (c : Ctx) (k : Strand) : (c.popPrev k).1.pends = c.pends := by unfold Ctx.popPrev; split <;> rfl
theorem popNext_pends (c : Ctx) (k : Strand) : (c.popNext k).1.pends = c.pends := by unfold Ctx.popNext; split <;> rfl
theorem pop_pends (c : Ctx) (k : Strand) (a b : Bool) : (c.pop k a b).1.pends = c.pends := by
  unfold Ctx.pop; cases a <;> cases b <;> simp [popPrev_pends, popNext_pends]
theorem popPrev_flight (c : Ctx) (k : Strand) : (c.popPrev k).1.flight = c.flight := by unfold Ctx.popPrev; split <;> rfl
theorem popNext_flight (c : Ctx) (k : Strand) : (c.popNext k).1.flight = c.flight := by unfold Ctx.popNext; split <;> rfl
theorem pop_flight (c : Ctx) (k : Strand) (a b : Bool) : (c.pop k a b).1.flight = c.flight := by
  unfold Ctx.pop; cases a <;> cases b <;> simp [popPrev_flight, popNext_flight]
theorem popPrev_hold (c : Ctx) (k : Strand) : (c.popPrev k).1.hold = c.hold := by unfold Ctx.popPrev; split <;> rfl
theorem popNext_hold (c : Ctx) (k : Strand) : (c.popNext k).1.hold = c.hold := by unfold Ctx.popNext; split <;> rfl
theorem pop_hold (c : Ctx) (k : Strand) (a b : Bool) : (c.pop k a b).1.hold = c.hold := by
  unfold Ctx.pop; cases a <;> cases b <;> simp [popPrev_hold, popNext_hold]
theorem popPrev_holdFor (c : Ctx) (k : Strand) : (c.popPrev k).1.holdFor = c.holdFor := by unfold Ctx.popPrev; split <;> rfl
theorem popNext_holdFor (c : Ctx) (k : Strand) : (c.popNext k).1.holdFor = c.holdFor := by unfold Ctx.popNext; split <;> rfl
theorem pop_holdFor (c : Ctx) (k : Strand) (a b : Bool) : (c.pop k a b).1.holdFor = c.holdFor := by
  unfold Ctx.pop; cases a <;> cases b <;> simp [popPrev_holdFor, popNext_holdFor]
theorem popPrev_ported (c : Ctx) (k : Strand) : (c.popPrev k).1.ported = c.ported := by unfold Ctx.popPrev; split <;> rfl
theorem popNext_ported (c : Ctx) (k : Strand) : (c.popNext k).1.ported = c.ported := by unfold Ctx.popNext; split <;> rfl
theorem pop_ported (c : Ctx) (k : Strand) (a b : Bool) : (c.pop k a b).1.ported = c.ported := by
  unfold Ctx.pop; cases a <;> cases b <;> simp [popPrev_ported, popNext_ported]
theorem popPrev_slots (c : Ctx) (k : Strand) : (c.popPrev k).1.slots = c.slots := by unfold Ctx.popPrev; split <;> rfl
theorem popNext_slots (c : Ctx) (k : Strand) : (c.popNext k).1.slots = c.slots := by unfold Ctx.popNext; split <;> rfl
theorem pop_slots (c : Ctx) (k : Strand) (a b : Bool) : (c.pop k a b).1.slots = c.slots := by
  unfold Ctx.pop; cases a <;> cases b <;> simp [popPrev_slots, popNext_slots]
theorem popPrev_slotPcs (c : Ctx) (k : Strand) : (c.popPrev k).1.slotPcs = c.slotPcs := by unfold Ctx.popPrev; split <;> rfl
theorem popNext_slotPcs (c : Ctx) (k : Strand) : (c.popNext k).1.slotPcs = c.slotPcs := by unfold Ctx.popNext; split <;> rfl
theorem pop_slotPcs (c : Ctx) (k : Strand) (a b : Bool) : (c.pop k a b).1.slotPcs = c.slotPcs := by
  unfold Ctx.pop; cases a <;> cases b <;> simp [popPrev_slotPcs, popNext_slotPcs]
theorem popPrev_ending (c : Ctx) (k : Strand) : (c.popPrev k).1.ending = c.ending := by unfold Ctx.popPrev; split <;> rfl
theorem popNext_ending (c : Ctx) (k : Strand) : (c.popNext k).1.ending = c.ending := by unfold Ctx.popNext; split <;> rfl
theorem pop_ending (c : Ctx) (k : Strand) (a b : Bool) : (c.pop k a b).1.ending = c.ending := by
  unfold Ctx.pop; cases a <;> cases b <;> simp [popPrev_ending, popNext_ending]
theorem popPrev_saving (c : Ctx) (k : Strand) : (c.popPrev k).1.saving = c.saving := by unfold Ctx.popPrev; split <;> rfl
theorem popNext_saving (c : Ctx) (k : Strand) : (c.popNext k).1.saving = c.saving := by unfold Ctx.popNext; split <;> rfl
theorem pop_saving (c : Ctx) (k : Strand) (a b : Bool) : (c.pop k a b).1.saving = c.saving := by
  unfold Ctx.pop; cases a <;> cases b <;> simp [popPrev_saving, popNext_saving]
theorem popPrev_ready (c : Ctx) (k : Strand) : (c.popPrev k).1.ready = c.ready := by unfold Ctx.popPrev; split <;> rfl
theorem popNext_ready (c : Ctx) (k : Strand) : (c.popNext k).1.ready = c.ready := by unfold Ctx.popNext; split <;> rfl
theorem pop_ready (c : Ctx) (k : Strand) (a b : Bool) : (c.pop k a b).1.ready = c.ready := by
  unfold Ctx.pop; cases a <;> cases b <;> simp [popPrev_ready, popNext_ready]
theorem popPrev_streams (c : Ctx) (k : Strand) : (c.popPrev k).1.streams = c.streams := by unfold Ctx.popPrev; split <;> rfl
theorem popNext_streams (c : Ctx) (k : Strand) : (c.popNext k).1.streams = c.streams := by unfold Ctx.popNext; split <;> rfl
theorem pop_streams (c : Ctx) (k : Strand) (a b : Bool) : (c.pop k a b).1.streams = c.streams := by
  unfold Ctx.pop; cases a <;> cases b <;> simp [popPrev_streams, popNext_streams]
theorem popPrev_joining (c : Ctx) (k : Strand) : (c.popPrev k).1.joining = c.joining := by unfold Ctx.popPrev; split <;> rfl
theorem popNext_joining (c : Ctx) (k : Strand) : (c.popNext k).1.joining = c.joining := by unfold Ctx.popNext; split <;> rfl
theorem pop_joining (c : Ctx) (k : Strand) (a b : Bool) : (c.pop k a b).1.joining = c.joining := by
  unfold Ctx.pop; cases a <;> cases b <;> simp [popPrev_joining, popNext_joining]
theorem popPrev_asked (c : Ctx) (k : Strand) : (c.popPrev k).1.asked = c.asked := by unfold Ctx.popPrev; split <;> rfl
theorem popNext_asked (c : Ctx) (k : Strand) : (c.popNext k).1.asked = c.asked := by unfold Ctx.popNext; split <;> rfl
theorem pop_asked (c : Ctx) (k : Strand) (a b : Bool) : (c.pop k a b).1.asked = c.asked := by
  unfold Ctx.pop; cases a <;> cases b <;> simp [popPrev_asked, popNext_asked]
theorem popPrev_granted (c : Ctx) (k : Strand) : (c.popPrev k).1.granted = c.granted := by unfold Ctx.popPrev; split <;> rfl
theorem popNext_granted (c : Ctx) (k : Strand) : (c.popNext k).1.granted = c.granted := by unfold Ctx.popNext; split <;> rfl
theorem pop_granted (c : Ctx) (k : Strand) (a b : Bool) : (c.pop k a b).1.granted = c.granted := by
  unfold Ctx.pop; cases a <;> cases b <;> simp [popPrev_granted, popNext_granted]
theorem popPrev_engstep (c : Ctx) (k : Strand) : (c.popPrev k).1.engstep = c.engstep := by unfold Ctx.popPrev; split <;> rfl
theorem popNext_engstep (c : Ctx) (k : Strand) : (c.popNext k).1.engstep = c.engstep := by unfold Ctx.popNext; split <;> rfl
theorem pop_engstep (c : Ctx) (k : Strand) (a b : Bool) : (c.pop k a b).1.engstep = c.engstep := by
  unfold Ctx.pop; cases a <;> cases b <;> simp [popPrev_engstep, popNext_engstep]
theorem popPrev_steps (c : Ctx) (k : Strand) : (c.popPrev k).1.steps = c.steps := by unfold Ctx.popPrev; split <;> rfl
theorem popNext_steps (c : Ctx) (k : Strand) : (c.popNext k).1.steps = c.steps := by unfold Ctx.popNext; split <;> rfl
theorem pop_steps (c : Ctx) (k : Strand) (a b : Bool) : (c.pop k a b).1.steps = c.steps := by
  unfold Ctx.pop; cases a <;> cases b <;> simp [popPrev_steps, popNext_steps]
theorem popPrev_bpPass (c : Ctx) (k : Strand) : (c.popPrev k).1.bpPass = c.bpPass := by unfold Ctx.popPrev; split <;> rfl
theorem popNext_bpPass (c : Ctx) (k : Strand) : (c.popNext k).1.bpPass = c.bpPass := by unfold Ctx.popNext; split <;> rfl
theorem pop_bpPass (c : Ctx) (k : Strand) (a b : Bool) : (c.pop k a b).1.bpPass = c.bpPass := by
  unfold Ctx.pop; cases a <;> cases b <;> simp [popPrev_bpPass, popNext_bpPass]
theorem popPrev_ibPass (c : Ctx) (k : Strand) : (c.popPrev k).1.ibPass = c.ibPass := by unfold Ctx.popPrev; split <;> rfl
theorem popNext_ibPass (c : Ctx) (k : Strand) : (c.popNext k).1.ibPass = c.ibPass := by unfold Ctx.popNext; split <;> rfl
theorem pop_ibPass (c : Ctx) (k : Strand) (a b : Bool) : (c.pop k a b).1.ibPass = c.ibPass := by
  unfold Ctx.pop; cases a <;> cases b <;> simp [popPrev_ibPass, popNext_ibPass]
theorem popPrev_since (c : Ctx) (k : Strand) : (c.popPrev k).1.since = c.since := by unfold Ctx.popPrev; split <;> rfl
theorem popNext_since (c : Ctx) (k : Strand) : (c.popNext k).1.since = c.since := by unfold Ctx.popNext; split <;> rfl
theorem pop_since (c : Ctx) (k : Strand) (a b : Bool) : (c.pop k a b).1.since = c.since := by
  unfold Ctx.pop; cases a <;> cases b <;> simp [popPrev_since, popNext_since]
@[simp] theorem operands_id (s : State) (i : Instr) (k : Ctl) : (s.operands i k).ctx.id = s.ctx.id := by
  unfold State.operands State.begin State.popTokens State.cureRegs; simp only []; split <;> simp [acquire_id, pop_id] <;> rfl
@[simp] theorem operands_life (s : State) (i : Instr) (k : Ctl) : (s.operands i k).ctx.life = s.ctx.life := by
  unfold State.operands State.begin State.popTokens State.cureRegs; simp only []; split <;> simp [acquire_life, pop_life] <;> rfl
@[simp] theorem operands_task (s : State) (i : Instr) (k : Ctl) : (s.operands i k).ctx.task = s.ctx.task := by
  unfold State.operands State.begin State.popTokens State.cureRegs; simp only []; split <;> simp [acquire_task, pop_task] <;> rfl
@[simp] theorem operands_space (s : State) (i : Instr) (k : Ctl) : (s.operands i k).ctx.space = s.ctx.space := by
  unfold State.operands State.begin State.popTokens State.cureRegs; simp only []; split <;> simp [acquire_space, pop_space] <;> rfl
@[simp] theorem operands_die (s : State) (i : Instr) (k : Ctl) : (s.operands i k).ctx.die = s.ctx.die := by
  unfold State.operands State.begin State.popTokens State.cureRegs; simp only []; split <;> simp [acquire_die, pop_die] <;> rfl
@[simp] theorem operands_plate (s : State) (i : Instr) (k : Ctl) : (s.operands i k).ctx.plate = s.ctx.plate := by
  unfold State.operands State.begin State.popTokens State.cureRegs; simp only []; split <;> simp [acquire_plate, pop_plate] <;> rfl
@[simp] theorem operands_place (s : State) (i : Instr) (k : Ctl) : (s.operands i k).ctx.place = s.ctx.place := by
  unfold State.operands State.begin State.popTokens State.cureRegs; simp only []; split <;> simp [acquire_place, pop_place] <;> rfl
@[simp] theorem operands_base (s : State) (i : Instr) (k : Ctl) : (s.operands i k).ctx.base = s.ctx.base := by
  unfold State.operands State.begin State.popTokens State.cureRegs; simp only []; split <;> simp [acquire_base, pop_base] <;> rfl
@[simp] theorem operands_lockstep (s : State) (i : Instr) (k : Ctl) : (s.operands i k).ctx.lockstep = s.ctx.lockstep := by
  unfold State.operands State.begin State.popTokens State.cureRegs; simp only []; split <;> simp [acquire_lockstep, pop_lockstep] <;> rfl
@[simp] theorem operands_cur (s : State) (i : Instr) (k : Ctl) : (s.operands i k).ctx.cur = s.ctx.cur := by
  unfold State.operands State.begin State.popTokens State.cureRegs; simp only []; split <;> simp [acquire_cur, pop_cur] <;> rfl
@[simp] theorem operands_x (s : State) (i : Instr) (k : Ctl) : (s.operands i k).ctx.x = s.ctx.x := by
  unfold State.operands State.begin State.popTokens State.cureRegs; simp only []; split <;> simp [acquire_x, pop_x] <;> rfl
@[simp] theorem operands_p (s : State) (i : Instr) (k : Ctl) : (s.operands i k).ctx.p = s.ctx.p := by
  unfold State.operands State.begin State.popTokens State.cureRegs; simp only []; split <;> simp [acquire_p, pop_p] <;> rfl
@[simp] theorem operands_vp (s : State) (i : Instr) (k : Ctl) : (s.operands i k).ctx.vp = s.ctx.vp := by
  unfold State.operands State.begin State.popTokens State.cureRegs; simp only []; split <;> simp [acquire_vp, pop_vp] <;> rfl
@[simp] theorem operands_lines (s : State) (i : Instr) (k : Ctl) : (s.operands i k).ctx.lines = s.ctx.lines := by
  unfold State.operands State.begin State.popTokens State.cureRegs; simp only []; split <;> simp [acquire_lines, pop_lines] <;> rfl
@[simp] theorem operands_newNext (s : State) (i : Instr) (k : Ctl) : (s.operands i k).ctx.newNext = s.ctx.newNext := by
  unfold State.operands State.begin State.popTokens State.cureRegs; simp only []; split <;> simp [acquire_newNext, pop_newNext] <;> rfl
@[simp] theorem operands_newPrev (s : State) (i : Instr) (k : Ctl) : (s.operands i k).ctx.newPrev = s.ctx.newPrev := by
  unfold State.operands State.begin State.popTokens State.cureRegs; simp only []; split <;> simp [acquire_newPrev, pop_newPrev] <;> rfl
@[simp] theorem operands_outNext (s : State) (i : Instr) (k : Ctl) : (s.operands i k).ctx.outNext = s.ctx.outNext := by
  unfold State.operands State.begin State.popTokens State.cureRegs; simp only []; split <;> simp [acquire_outNext, pop_outNext] <;> rfl
@[simp] theorem operands_outPrev (s : State) (i : Instr) (k : Ctl) : (s.operands i k).ctx.outPrev = s.ctx.outPrev := by
  unfold State.operands State.begin State.popTokens State.cureRegs; simp only []; split <;> simp [acquire_outPrev, pop_outPrev] <;> rfl
@[simp] theorem operands_loop (s : State) (i : Instr) (k : Ctl) : (s.operands i k).ctx.loop = s.ctx.loop := by
  unfold State.operands State.begin State.popTokens State.cureRegs; simp only []; split <;> simp [acquire_loop, pop_loop] <;> rfl
@[simp] theorem operands_g (s : State) (i : Instr) (k : Ctl) : (s.operands i k).ctx.g = s.ctx.g := by
  unfold State.operands State.begin State.popTokens State.cureRegs; simp only []; split <;> simp [acquire_g, pop_g] <;> rfl
@[simp] theorem operands_h (s : State) (i : Instr) (k : Ctl) : (s.operands i k).ctx.h = s.ctx.h := by
  unfold State.operands State.begin State.popTokens State.cureRegs; simp only []; split <;> simp [acquire_h, pop_h] <;> rfl
@[simp] theorem operands_csr (s : State) (i : Instr) (k : Ctl) : (s.operands i k).ctx.csr = s.ctx.csr := by
  unfold State.operands State.begin State.popTokens State.cureRegs; simp only []; split <;> simp [acquire_csr, pop_csr] <;> rfl
@[simp] theorem operands_frame (s : State) (i : Instr) (k : Ctl) : (s.operands i k).ctx.frame = s.ctx.frame := by
  unfold State.operands State.begin State.popTokens State.cureRegs; simp only []; split <;> simp [acquire_frame, pop_frame] <;> rfl
@[simp] theorem operands_stencil (s : State) (i : Instr) (k : Ctl) : (s.operands i k).ctx.stencil = s.ctx.stencil := by
  unfold State.operands State.begin State.popTokens State.cureRegs; simp only []; split <;> simp [acquire_stencil, pop_stencil] <;> rfl
@[simp] theorem operands_esn (s : State) (i : Instr) (k : Ctl) : (s.operands i k).ctx.esn = s.ctx.esn := by
  unfold State.operands State.begin State.popTokens State.cureRegs; simp only []; split <;> simp [acquire_esn, pop_esn] <;> rfl
@[simp] theorem operands_queues (s : State) (i : Instr) (k : Ctl) : (s.operands i k).ctx.queues = s.ctx.queues := by
  unfold State.operands State.begin State.popTokens State.cureRegs; simp only []; split <;> simp [acquire_queues, pop_queues] <;> rfl
@[simp] theorem operands_held (s : State) (i : Instr) (k : Ctl) : (s.operands i k).ctx.held = s.ctx.held := by
  unfold State.operands State.begin State.popTokens State.cureRegs; simp only []; split <;> simp [acquire_held, pop_held] <;> rfl
@[simp] theorem operands_weight (s : State) (i : Instr) (k : Ctl) : (s.operands i k).ctx.weight = s.ctx.weight := by
  unfold State.operands State.begin State.popTokens State.cureRegs; simp only []; split <;> simp [acquire_weight, pop_weight] <;> rfl
@[simp] theorem operands_staging (s : State) (i : Instr) (k : Ctl) : (s.operands i k).ctx.staging = s.ctx.staging := by
  unfold State.operands State.begin State.popTokens State.cureRegs; simp only []; split <;> simp [acquire_staging, pop_staging] <;> rfl
@[simp] theorem operands_tiles (s : State) (i : Instr) (k : Ctl) : (s.operands i k).ctx.tiles = s.ctx.tiles := by
  unfold State.operands State.begin State.popTokens State.cureRegs; simp only []; split <;> simp [acquire_tiles, pop_tiles] <;> rfl
@[simp] theorem operands_spad (s : State) (i : Instr) (k : Ctl) : (s.operands i k).ctx.spad = s.ctx.spad := by
  unfold State.operands State.begin State.popTokens State.cureRegs; simp only []; split <;> simp [acquire_spad, pop_spad] <;> rfl
@[simp] theorem operands_fe (s : State) (i : Instr) (k : Ctl) : (s.operands i k).ctx.fe = s.ctx.fe := by
  unfold State.operands State.begin State.popTokens State.cureRegs; simp only []; split <;> simp [acquire_fe, pop_fe] <;> rfl
@[simp] theorem operands_tags (s : State) (i : Instr) (k : Ctl) : (s.operands i k).ctx.tags = s.ctx.tags := by
  unfold State.operands State.begin State.popTokens State.cureRegs; simp only []; split <;> simp [acquire_tags, pop_tags] <;> rfl
@[simp] theorem operands_sig (s : State) (i : Instr) (k : Ctl) : (s.operands i k).ctx.sig = s.ctx.sig := by
  unfold State.operands State.begin State.popTokens State.cureRegs; simp only []; split <;> simp [acquire_sig, pop_sig] <;> rfl
@[simp] theorem operands_acct (s : State) (i : Instr) (k : Ctl) : (s.operands i k).ctx.acct = s.ctx.acct := by
  unfold State.operands State.begin State.popTokens State.cureRegs; simp only []; split <;> simp [acquire_acct, pop_acct] <;> rfl
@[simp] theorem operands_engAcct (s : State) (i : Instr) (k : Ctl) : (s.operands i k).ctx.engAcct = s.ctx.engAcct := by
  unfold State.operands State.begin State.popTokens State.cureRegs; simp only []; split <;> simp [acquire_engAcct, pop_engAcct] <;> rfl
@[simp] theorem operands_runs (s : State) (i : Instr) (k : Ctl) : (s.operands i k).ctx.runs = s.ctx.runs := by
  unfold State.operands State.begin State.popTokens State.cureRegs; simp only []; split <;> simp [acquire_runs, pop_runs] <;> rfl
@[simp] theorem operands_engRuns (s : State) (i : Instr) (k : Ctl) : (s.operands i k).ctx.engRuns = s.ctx.engRuns := by
  unfold State.operands State.begin State.popTokens State.cureRegs; simp only []; split <;> simp [acquire_engRuns, pop_engRuns] <;> rfl
@[simp] theorem operands_booking (s : State) (i : Instr) (k : Ctl) : (s.operands i k).ctx.booking = s.ctx.booking := by
  unfold State.operands State.begin State.popTokens State.cureRegs; simp only []; split <;> simp [acquire_booking, pop_booking] <;> rfl
@[simp] theorem operands_saved (s : State) (i : Instr) (k : Ctl) : (s.operands i k).ctx.saved = s.ctx.saved := by
  unfold State.operands State.begin State.popTokens State.cureRegs; simp only []; split <;> simp [acquire_saved, pop_saved] <;> rfl
@[simp] theorem operands_latch (s : State) (i : Instr) (k : Ctl) : (s.operands i k).ctx.latch = s.ctx.latch := by
  unfold State.operands State.begin State.popTokens State.cureRegs; simp only []; split <;> simp [acquire_latch, pop_latch] <;> rfl
@[simp] theorem operands_ecount (s : State) (i : Instr) (k : Ctl) : (s.operands i k).ctx.ecount = s.ctx.ecount := by
  unfold State.operands State.begin State.popTokens State.cureRegs; simp only []; split <;> simp [acquire_ecount, pop_ecount] <;> rfl
@[simp] theorem operands_pends (s : State) (i : Instr) (k : Ctl) : (s.operands i k).ctx.pends = s.ctx.pends := by
  unfold State.operands State.begin State.popTokens State.cureRegs; simp only []; split <;> simp [acquire_pends, pop_pends] <;> rfl
@[simp] theorem operands_flight (s : State) (i : Instr) (k : Ctl) : (s.operands i k).ctx.flight = s.ctx.flight := by
  unfold State.operands State.begin State.popTokens State.cureRegs; simp only []; split <;> simp [acquire_flight, pop_flight] <;> rfl
@[simp] theorem operands_hold (s : State) (i : Instr) (k : Ctl) : (s.operands i k).ctx.hold = s.ctx.hold := by
  unfold State.operands State.begin State.popTokens State.cureRegs; simp only []; split <;> simp [acquire_hold, pop_hold] <;> rfl
@[simp] theorem operands_holdFor (s : State) (i : Instr) (k : Ctl) : (s.operands i k).ctx.holdFor = s.ctx.holdFor := by
  unfold State.operands State.begin State.popTokens State.cureRegs; simp only []; split <;> simp [acquire_holdFor, pop_holdFor] <;> rfl
@[simp] theorem operands_slots (s : State) (i : Instr) (k : Ctl) : (s.operands i k).ctx.slots = s.ctx.slots := by
  unfold State.operands State.begin State.popTokens State.cureRegs; simp only []; split <;> simp [acquire_slots, pop_slots] <;> rfl
@[simp] theorem operands_slotPcs (s : State) (i : Instr) (k : Ctl) : (s.operands i k).ctx.slotPcs = s.ctx.slotPcs := by
  unfold State.operands State.begin State.popTokens State.cureRegs; simp only []; split <;> simp [acquire_slotPcs, pop_slotPcs] <;> rfl
@[simp] theorem operands_ending (s : State) (i : Instr) (k : Ctl) : (s.operands i k).ctx.ending = s.ctx.ending := by
  unfold State.operands State.begin State.popTokens State.cureRegs; simp only []; split <;> simp [acquire_ending, pop_ending] <;> rfl
@[simp] theorem operands_saving (s : State) (i : Instr) (k : Ctl) : (s.operands i k).ctx.saving = s.ctx.saving := by
  unfold State.operands State.begin State.popTokens State.cureRegs; simp only []; split <;> simp [acquire_saving, pop_saving] <;> rfl
@[simp] theorem operands_ready (s : State) (i : Instr) (k : Ctl) : (s.operands i k).ctx.ready = s.ctx.ready := by
  unfold State.operands State.begin State.popTokens State.cureRegs; simp only []; split <;> simp [acquire_ready, pop_ready] <;> rfl
@[simp] theorem operands_streams (s : State) (i : Instr) (k : Ctl) : (s.operands i k).ctx.streams = s.ctx.streams := by
  unfold State.operands State.begin State.popTokens State.cureRegs; simp only []; split <;> simp [acquire_streams, pop_streams] <;> rfl
@[simp] theorem operands_joining (s : State) (i : Instr) (k : Ctl) : (s.operands i k).ctx.joining = s.ctx.joining := by
  unfold State.operands State.begin State.popTokens State.cureRegs; simp only []; split <;> simp [acquire_joining, pop_joining] <;> rfl
@[simp] theorem operands_asked (s : State) (i : Instr) (k : Ctl) : (s.operands i k).ctx.asked = s.ctx.asked := by
  unfold State.operands State.begin State.popTokens State.cureRegs; simp only []; split <;> simp [acquire_asked, pop_asked] <;> rfl
@[simp] theorem operands_granted (s : State) (i : Instr) (k : Ctl) : (s.operands i k).ctx.granted = s.ctx.granted := by
  unfold State.operands State.begin State.popTokens State.cureRegs; simp only []; split <;> simp [acquire_granted, pop_granted] <;> rfl
@[simp] theorem operands_engstep (s : State) (i : Instr) (k : Ctl) : (s.operands i k).ctx.engstep = s.ctx.engstep := by
  unfold State.operands State.begin State.popTokens State.cureRegs; simp only []; split <;> simp [acquire_engstep, pop_engstep] <;> rfl
@[simp] theorem operands_steps (s : State) (i : Instr) (k : Ctl) : (s.operands i k).ctx.steps = s.ctx.steps := by
  unfold State.operands State.begin State.popTokens State.cureRegs; simp only []; split <;> simp [acquire_steps, pop_steps] <;> rfl
@[simp] theorem operands_bpPass (s : State) (i : Instr) (k : Ctl) : (s.operands i k).ctx.bpPass = s.ctx.bpPass := by
  unfold State.operands State.begin State.popTokens State.cureRegs; simp only []; split <;> simp [acquire_bpPass, pop_bpPass] <;> rfl
@[simp] theorem operands_ibPass (s : State) (i : Instr) (k : Ctl) : (s.operands i k).ctx.ibPass = s.ctx.ibPass := by
  unfold State.operands State.begin State.popTokens State.cureRegs; simp only []; split <;> simp [acquire_ibPass, pop_ibPass] <;> rfl
@[simp] theorem operands_since (s : State) (i : Instr) (k : Ctl) : (s.operands i k).ctx.since = s.ctx.since := by
  unfold State.operands State.begin State.popTokens State.cureRegs; simp only []; split <;> simp [acquire_since, pop_since] <;> rfl
@[simp] theorem operands_s_ctxs (s : State) (i : Instr) (k : Ctl) : (s.operands i k).ctxs = s.ctxs := by
  unfold State.operands State.begin State.popTokens State.cureRegs; simp only []; split <;> (try unfold State.acquire) <;> rfl
@[simp] theorem operands_s_plates (s : State) (i : Instr) (k : Ctl) : (s.operands i k).plates = s.plates := by
  unfold State.operands State.begin State.popTokens State.cureRegs; simp only []; split <;> (try unfold State.acquire) <;> rfl
@[simp] theorem operands_s_dies (s : State) (i : Instr) (k : Ctl) : (s.operands i k).dies = s.dies := by
  unfold State.operands State.begin State.popTokens State.cureRegs; simp only []; split <;> (try unfold State.acquire) <;> rfl
@[simp] theorem operands_s_mem (s : State) (i : Instr) (k : Ctl) : (s.operands i k).mem = s.mem := by
  unfold State.operands State.begin State.popTokens State.cureRegs; simp only []; split <;> (try unfold State.acquire) <;> rfl
@[simp] theorem operands_s_poison (s : State) (i : Instr) (k : Ctl) : (s.operands i k).poison = s.poison := by
  unfold State.operands State.begin State.popTokens State.cureRegs; simp only []; split <;> (try unfold State.acquire) <;> rfl
@[simp] theorem operands_s_soft (s : State) (i : Instr) (k : Ctl) : (s.operands i k).soft = s.soft := by
  unfold State.operands State.begin State.popTokens State.cureRegs; simp only []; split <;> (try unfold State.acquire) <;> rfl
@[simp] theorem operands_s_barriers (s : State) (i : Instr) (k : Ctl) : (s.operands i k).barriers = s.barriers := by
  unfold State.operands State.begin State.popTokens State.cureRegs; simp only []; split <;> (try unfold State.acquire) <;> rfl
@[simp] theorem operands_s_writers (s : State) (i : Instr) (k : Ctl) : (s.operands i k).writers = s.writers := by
  unfold State.operands State.begin State.popTokens State.cureRegs; simp only []; split <;> (try unfold State.acquire) <;> rfl
@[simp] theorem operands_s_regions (s : State) (i : Instr) (k : Ctl) : (s.operands i k).regions = s.regions := by
  unfold State.operands State.begin State.popTokens State.cureRegs; simp only []; split <;> (try unfold State.acquire) <;> rfl
@[simp] theorem operands_s_policy (s : State) (i : Instr) (k : Ctl) : (s.operands i k).policy = s.policy := by
  unfold State.operands State.begin State.popTokens State.cureRegs; simp only []; split <;> (try unfold State.acquire) <;> rfl
@[simp] theorem operands_s_domains (s : State) (i : Instr) (k : Ctl) : (s.operands i k).domains = s.domains := by
  unfold State.operands State.begin State.popTokens State.cureRegs; simp only []; split <;> (try unfold State.acquire) <;> rfl
@[simp] theorem operands_s_fat (s : State) (i : Instr) (k : Ctl) : (s.operands i k).fat = s.fat := by
  unfold State.operands State.begin State.popTokens State.cureRegs; simp only []; split <;> (try unfold State.acquire) <;> rfl
@[simp] theorem operands_s_devid (s : State) (i : Instr) (k : Ctl) : (s.operands i k).devid = s.devid := by
  unfold State.operands State.begin State.popTokens State.cureRegs; simp only []; split <;> (try unfold State.acquire) <;> rfl
@[simp] theorem operands_s_jseq (s : State) (i : Instr) (k : Ctl) : (s.operands i k).jseq = s.jseq := by
  unfold State.operands State.begin State.popTokens State.cureRegs; simp only []; split <;> (try unfold State.acquire) <;> rfl
@[simp] theorem operands_s_control (s : State) (i : Instr) (k : Ctl) : (s.operands i k).control = s.control := by
  unfold State.operands State.begin State.popTokens State.cureRegs; simp only []; split <;> (try unfold State.acquire) <;> rfl
@[simp] theorem operands_s_resp (s : State) (i : Instr) (k : Ctl) : (s.operands i k).resp = s.resp := by
  unfold State.operands State.begin State.popTokens State.cureRegs; simp only []; split <;> (try unfold State.acquire) <;> rfl
@[simp] theorem operands_s_hq (s : State) (i : Instr) (k : Ctl) : (s.operands i k).hq = s.hq := by
  unfold State.operands State.begin State.popTokens State.cureRegs; simp only []; split <;> (try unfold State.acquire) <;> rfl
@[simp] theorem operands_s_ident (s : State) (i : Instr) (k : Ctl) : (s.operands i k).ident = s.ident := by
  unfold State.operands State.begin State.popTokens State.cureRegs; simp only []; split <;> (try unfold State.acquire) <;> rfl
@[simp] theorem operands_s_net (s : State) (i : Instr) (k : Ctl) : (s.operands i k).net = s.net := by
  unfold State.operands State.begin State.popTokens State.cureRegs; simp only []; split <;> (try unfold State.acquire) <;> rfl
@[simp] theorem operands_s_ports (s : State) (i : Instr) (k : Ctl) : (s.operands i k).ports = s.ports := by
  unfold State.operands State.begin State.popTokens State.cureRegs; simp only []; split <;> (try unfold State.acquire) <;> rfl
@[simp] theorem operands_s_colls (s : State) (i : Instr) (k : Ctl) : (s.operands i k).colls = s.colls := by
  unfold State.operands State.begin State.popTokens State.cureRegs; simp only []; split <;> (try unfold State.acquire) <;> rfl
@[simp] theorem operands_s_fires (s : State) (i : Instr) (k : Ctl) : (s.operands i k).fires = s.fires := by
  unfold State.operands State.begin State.popTokens State.cureRegs; simp only []; split <;> (try unfold State.acquire) <;> rfl
@[simp] theorem operands_s_contribs (s : State) (i : Instr) (k : Ctl) : (s.operands i k).contribs = s.contribs := by
  unfold State.operands State.begin State.popTokens State.cureRegs; simp only []; split <;> (try unfold State.acquire) <;> rfl
@[simp] theorem operands_s_closing (s : State) (i : Instr) (k : Ctl) : (s.operands i k).closing = s.closing := by
  unfold State.operands State.begin State.popTokens State.cureRegs; simp only []; split <;> (try unfold State.acquire) <;> rfl
@[simp] theorem operands_s_recStores (s : State) (i : Instr) (k : Ctl) : (s.operands i k).recStores = s.recStores := by
  unfold State.operands State.begin State.popTokens State.cureRegs; simp only []; split <;> (try unfold State.acquire) <;> rfl
@[simp] theorem operands_s_pushes (s : State) (i : Instr) (k : Ctl) : (s.operands i k).pushes = s.pushes := by
  unfold State.operands State.begin State.popTokens State.cureRegs; simp only []; split <;> (try unfold State.acquire) <;> rfl
@[simp] theorem operands_s_contins (s : State) (i : Instr) (k : Ctl) : (s.operands i k).contins = s.contins := by
  unfold State.operands State.begin State.popTokens State.cureRegs; simp only []; split <;> (try unfold State.acquire) <;> rfl
@[simp] theorem operands_s_dump (s : State) (i : Instr) (k : Ctl) : (s.operands i k).dump = s.dump := by
  unfold State.operands State.begin State.popTokens State.cureRegs; simp only []; split <;> (try unfold State.acquire) <;> rfl
@[simp] theorem operands_s_msix (s : State) (i : Instr) (k : Ctl) : (s.operands i k).msix = s.msix := by
  unfold State.operands State.begin State.popTokens State.cureRegs; simp only []; split <;> (try unfold State.acquire) <;> rfl
@[simp] theorem operands_s_cycle (s : State) (i : Instr) (k : Ctl) : (s.operands i k).cycle = s.cycle := by
  unfold State.operands State.begin State.popTokens State.cureRegs; simp only []; split <;> (try unfold State.acquire) <;> rfl
@[simp] theorem operands_s_inbox (s : State) (i : Instr) (k : Ctl) : (s.operands i k).inbox = s.inbox := by
  unfold State.operands State.begin State.popTokens State.cureRegs; simp only []; split <;> (try unfold State.acquire) <;> rfl
@[simp] theorem operands_s_phase (s : State) (i : Instr) (k : Ctl) : (s.operands i k).phase = s.phase := by
  unfold State.operands State.begin State.popTokens State.cureRegs; simp only []; split <;> (try unfold State.acquire) <;> rfl
@[simp] theorem operands_s_sDone (s : State) (i : Instr) (k : Ctl) : (s.operands i k).sDone = s.sDone := by
  unfold State.operands State.begin State.popTokens State.cureRegs; simp only []; split <;> (try unfold State.acquire) <;> rfl
@[simp] theorem operands_s_bundle (s : State) (i : Instr) (k : Ctl) : (s.operands i k).bundle = s.bundle := by
  unfold State.operands State.begin State.popTokens State.cureRegs; simp only []; split <;> (try unfold State.acquire) <;> rfl
@[simp] theorem operands_s_event (s : State) (i : Instr) (k : Ctl) : (s.operands i k).event = s.event := by
  unfold State.operands State.begin State.popTokens State.cureRegs; simp only []; split <;> (try unfold State.acquire) <;> rfl

/-- The free values of a word are drawn at the count after its own. -/
@[simp] theorem operands_fresh (s : State) (i : Instr) (k : Ctl) : (s.operands i k).fresh = s.fresh + 1 := by
  unfold State.operands State.begin State.popTokens State.cureRegs; simp only []; split <;> (try unfold State.acquire) <;> rfl

/-- Popping leaves b0 to b3. -/
theorem popPrev_b (c : Ctx) (k j : Strand) : ((c.popPrev k).1.strands.get j.num).b = (c.strands.get j.num).b := by
  unfold Ctx.popPrev
  split
  · rfl
  · by_cases h : j = k
    · subst h; simp [Ctx.mstrand, Quad.get_set_same]
    · simp [Ctx.mstrand, Quad.get_set_ne _ _ _ _ h]

theorem popNext_b (c : Ctx) (k j : Strand) : ((c.popNext k).1.strands.get j.num).b = (c.strands.get j.num).b := by
  unfold Ctx.popNext
  split
  · rfl
  · by_cases h : j = k
    · subst h; simp [Ctx.mstrand, Quad.get_set_same]
    · simp [Ctx.mstrand, Quad.get_set_ne _ _ _ _ h]

theorem pop_b (c : Ctx) (k j : Strand) (a b : Bool) : ((c.pop k a b).1.strands.get j.num).b = (c.strands.get j.num).b := by
  unfold Ctx.pop; cases a <;> cases b <;> simp [popPrev_b, popNext_b]

/-- The count and the pops leave b0 to b3. -/
theorem operands_b (s : State) (i : Instr) (k : Ctl) (j : Strand) :
    ((s.operands i k).ctx.strands.get j.num).b = (s.ctx.strands.get j.num).b := by
  have h : ((s.bump.mctx (fun c => { c with ported := false })).tick.ctx.strands.get j.num).b = (s.ctx.strands.get j.num).b := by
    by_cases hj : j = s.ctx.cur
    · subst hj; simp [State.tick, Ctx.mstrand, Quad.get_set_same]
    · simp [State.tick, Ctx.mstrand, Quad.get_set_ne _ _ _ _ hj]
  unfold State.operands State.begin State.popTokens State.cureRegs
  simp only []
  split
  · simp only [acquire_strands]; exact (pop_b _ _ _ _ _).trans h
  · exact (pop_b _ _ _ _ _).trans h

/-- The resume address of a join is as before (R55). -/
theorem operands_joinBad (s : State) (i : Instr) (k : Ctl) : (s.operands i k).joinBad k = s.joinBad k := by
  have h := operands_b s i k .c
  simp only [State.joinBad, State.strand, operands_lockstep, operands_cur, h]

end Sys2Proof.Machine
end

