-- ==== Sys2Proof/Laws/Issue.lean ====
section
/-! SUPPORT. What issuing a word does, said once: a word that is ready runs its effect on its operands' state, and closing it
changes the control state of its context alone. -/

-- The package is also checked as one text: one thread of elaboration keeps that within memory.
set_option Elab.async false

namespace Sys2Proof.Machine

/-! ### The word that is ready -/

/-- A word that is ready and passes its checks closes the way its effect ends. -/
theorem issue_ready (s : State) (i : Instr) (k : Ctl) (allowed : Strand → Bool) (ct : Bool)
    (checks : State → Option Cause) (eff : State → Res) (h : s.ready i k allowed ct) (hc : checks s.bump = none) :
    s.issue i k allowed ct checks eff =
      (s.bump.mctx (fun c => { c with ported := false })).close (BitVec.ofNat 32 (encodeWord i)) k false .issue
        (eff (s.operands i k)) := by
  obtain ⟨h1, h2, h3, h4, h5, -⟩ := h
  have h2' : (s.bump.strand s.bump.ctx.cur).mark = false := h2
  simp only [State.issue, h1, hc, h2', h3, h4, h5, State.operands, Bool.false_eq_true, if_false]

/-- Before its placement is right a word faults with ILLEGAL, before anything else (R92). -/
theorem issue_misplaced (s : State) (i : Instr) (k : Ctl) (allowed : Strand → Bool) (ct : Bool)
    (checks : State → Option Cause) (eff : State → Res) (h : s.bump.misplaced i k.sy allowed ct = true) :
    s.issue i k allowed ct checks eff =
      s.bump.faultBefore (BitVec.ofNat 32 (encodeWord i)) .illegal s.bump.anyAddr := by
  simp only [State.issue, h, if_true]

/-- A word whose own check fails faults with the cause the check names (R92). -/
theorem issue_check (s : State) (i : Instr) (k : Ctl) (allowed : Strand → Bool) (ct : Bool)
    (checks : State → Option Cause) (eff : State → Res) (c : Cause) (h : s.bump.misplaced i k.sy allowed ct = false)
    (hc : checks s.bump = some c) :
    s.issue i k allowed ct checks eff = s.bump.faultBefore (BitVec.ofNat 32 (encodeWord i)) c s.bump.anyAddr := by
  simp only [State.issue, h, hc, Bool.false_eq_true, if_false]

/-! ### Moving on -/

/-- Keeping a context is transitive. -/
theorem Ctx.kept.trans {c d e : Ctx} (h : c.kept d) (g : d.kept e) : c.kept e :=
  ⟨Eq.trans g.1 h.1, Eq.trans g.2 (congrArg (fun z : Ctx => { z with
    x := e.x, p := e.p, vp := e.vp, lines := e.lines, strands := e.strands, lockstep := e.lockstep, ported := e.ported,
    lateFlags := e.lateFlags, newNext := e.newNext, newPrev := e.newPrev, outNext := e.outNext, outPrev := e.outPrev, latch := e.latch,
    pends := e.pends, flight := e.flight, slots := e.slots, slotPcs := e.slotPcs }) h.2)⟩

/-- Leaving the rest of the machine alone is transitive. -/
theorem State.aside.trans {s t u : State} (h : s.aside t) (g : t.aside u) : s.aside u :=
  Eq.trans g (congrArg (fun z : State => { z with ctx := u.ctx, event := u.event }) h)

/-- Closing: everything stays but the control state of the context's strands, tokens, results in flight and slots. -/
structure Closed (u t : State) : Prop where
  aside : u.aside t
  kept : u.ctx.kept t.ctx
  x : t.ctx.x = u.ctx.x
  p : u.ctx.sameP t.ctx
  vp : t.ctx.vp = u.ctx.vp
  lines : t.ctx.lines = u.ctx.lines
  b : u.ctx.sameB t.ctx

/-- Closing twice is closing. -/
theorem Closed.trans {s t u : State} (h : Closed s t) (g : Closed t u) : Closed s u :=
  ⟨h.aside.trans g.aside, h.kept.trans g.kept, g.x.trans h.x, Eq.trans g.p h.p, g.vp.trans h.vp,
   g.lines.trans h.lines, fun j => (g.b j).trans (h.b j)⟩

/-- Changing the context in focus leaves the rest of the machine. -/
theorem aside_mctx (s : State) (f : Ctx → Ctx) : s.aside (s.mctx f) := rfl

/-- A change of the context in focus that is closing for the context is closing. -/
theorem Closed.mctx (s : State) (f : Ctx → Ctx) (h : s.ctx.kept (f s.ctx)) (hx : (f s.ctx).x = s.ctx.x)
    (hp : s.ctx.sameP (f s.ctx)) (hv : (f s.ctx).vp = s.ctx.vp) (hl : (f s.ctx).lines = s.ctx.lines)
    (hb : s.ctx.sameB (f s.ctx)) : Closed s (s.mctx f) := ⟨aside_mctx s f, h, hx, hp, hv, hl, hb⟩

/-- Changing a strand keeps the rest of its context. -/
theorem Ctx.kept_mstrand (c : Ctx) (k : Strand) (f : StrandSt → StrandSt) : c.kept (c.mstrand k f) := ⟨rfl, rfl⟩

/-- A change of a strand that leaves b0 to b3. -/
theorem Ctx.sameB_mstrand (c : Ctx) (k : Strand) (f : StrandSt → StrandSt) (hf : ∀ t, (f t).b = t.b) :
    c.sameB (c.mstrand k f) := by
  intro j
  by_cases hj : j = k
  · subst hj; simp [Ctx.mstrand, Quad.get_set_same, hf]
  · simp [Ctx.mstrand, Quad.get_set_ne _ _ _ _ hj]

/-- A change of a strand that leaves b0 to b3 is closing. -/
theorem Closed.mstrand (s : State) (k : Strand) (f : StrandSt → StrandSt) (hf : ∀ t, (f t).b = t.b) :
    Closed s (s.mstrand k f) :=
  Closed.mctx s _ (s.ctx.kept_mstrand k f) rfl rfl rfl rfl (s.ctx.sameB_mstrand k f hf)

/-- Moving past a word of an apart strand (R55). -/
theorem advanceApart_closed (s : State) (k : Strand) (jmp : Option (Word × Nat)) (join : Bool) :
    Closed s (s.advanceApart k jmp join) :=
  Closed.mstrand s k _ (fun _ => rfl)

/-- Other predicates keep the rest of a context. -/
theorem Ctx.kept_p (c : Ctx) (m : SMap (Cell Bool)) : c.kept { c with p := m } := ⟨rfl, rfl⟩

/-- A change of the mode and of every strand keeps the rest of a context. -/
theorem Ctx.kept_modes (c : Ctx) (l p : Bool) (q : Quad StrandSt) :
    c.kept { c with lockstep := l, ported := p, strands := q } := ⟨rfl, rfl⟩

/-- Moving past a bundle (R53, R54). -/
theorem advanceBundle_closed (s : State) (jmp : Option (Word × Nat)) (split : Bool) :
    Closed s (s.advanceBundle jmp split) := by
  unfold State.advanceBundle
  refine Closed.mctx s _ ((Ctx.kept_modes _ _ _ _).trans (Ctx.kept_mstrand _ _ _)) rfl rfl rfl rfl ?_
  intro j; cases j <;> rfl

/-- Moving past a word or a bundle (R53, R54, R55, R110). -/
theorem moveOn_closed (s : State) (jmp : Option (Word × Nat)) (sy : Bool) : Closed s (s.moveOn jmp sy) := by
  unfold State.moveOn
  split
  · exact advanceBundle_closed s _ _
  · exact advanceApart_closed s _ _ _

/-- Pushes that land or become outstanding are closing (R59). -/
theorem Ctx.kept_land (c : Ctx) (k : Strand) (a b : Bool) (t : Token) : c.kept (c.land k a b t) := ⟨rfl, rfl⟩
theorem Ctx.kept_owe (c : Ctx) (k : Strand) (a b : Bool) : c.kept (c.owe k a b) := ⟨rfl, rfl⟩
theorem Ctx.kept_age (c : Ctx) (k : Strand) : c.kept (c.age k) := by
  refine ⟨?_, rfl⟩
  simp only [Ctx.sameFlags, Ctx.age, List.map_map]
  refine List.map_congr_left (fun e _ => ?_)
  simp only [Function.comp]
  split <;> rfl

/-- The pushes of a word that is done are closing. -/
theorem pushTokens_closed (s : State) (k : Ctl) (marked : Bool) (n : Nat) : Closed s (s.pushTokens k marked n) := by
  cases marked
  · exact Closed.mctx s (fun c => (c.owe c.cur k.qp k.qn).land c.cur k.qp k.qn { clk := s.pushClock n, acq := false })
      ((s.ctx.kept_owe _ _ _).trans (Ctx.kept_land _ _ _ _ _)) rfl rfl rfl rfl (fun _ => rfl)
  · exact Closed.mctx s (fun c => c.land c.cur k.qp k.qn { clk := s.pushClock n, acq := false })
      (Ctx.kept_land _ _ _ _ _) rfl rfl rfl rfl (fun _ => rfl)

/-- Counting bounds down is closing (R68). -/
theorem age_closed (s : State) (k : Strand) : Closed s (s.mctx (fun c => c.age k)) :=
  Closed.mctx s _ (s.ctx.kept_age k) rfl rfl rfl rfl (fun _ => rfl)

/-- Counting bounds down for a word that issues, and not for one that has issued before, is closing (R68). -/
theorem ageFor_closed (s : State) (marked : Bool) : Closed s (s.ageFor marked) := by
  cases marked
  · exact age_closed s _
  · exact ⟨rfl, ⟨rfl, rfl⟩, rfl, rfl, rfl, rfl, fun _ => rfl⟩

/-- Noting how a word ended is closing. -/
theorem note_closed (s : State) (k : Strand) (c : Slot) (e : Event) : Closed s (s.note k c e) :=
  ⟨rfl, ⟨rfl, rfl⟩, rfl, rfl, rfl, rfl, fun _ => rfl⟩

/-- Closing a word that is done (R59, R68, R73). -/
theorem finish_closed (s : State) (k : Ctl) (marked : Bool) (why : Slot) (n : Nat) (jmp : Option (Word × Nat)) :
    Closed s (s.finish k marked why n jmp) := by
  have h0 : ∀ me e, Closed s (((s.pushTokens k marked n).ageFor marked).note me why e) := fun me e =>
    ((pushTokens_closed s k marked n).trans (ageFor_closed _ _)).trans (note_closed _ _ _ _)
  have h2 : ∀ me e j, Closed s (if (((s.pushTokens k marked n).ageFor marked).note me why e).bundle
      then ((s.pushTokens k marked n).ageFor marked).note me why e
      else (((s.pushTokens k marked n).ageFor marked).note me why e).moveOn j k.sy) := by
    intro me e j
    split
    · exact h0 _ _
    · exact (h0 _ _).trans (moveOn_closed _ _ _)
  cases jmp with
  | none => exact h2 _ _ _
  | some j => exact h2 _ _ _

/-! ### Words whose effect is a register -/

/-- A write of a register whose count is past the reset count: every cell of the table reads as expected (R50, R96). -/
theorem setX_cells (u : State) (d : Reg) (v : Word) (n : Nat) (hn : 0 < u.now) (r : Nat) :
    SMap.get (Cell.init 0) (u.setX d v n).ctx.x r =
      if r = d.toNat ∧ d ≠ 0 then (SMap.get (Cell.init 0) u.ctx.x d.toNat).write u.ctx.cur (u.now + (n - 1)) v
      else SMap.get (Cell.init 0) u.ctx.x r := by
  unfold State.setX
  by_cases hd : d = 0
  · simp [hd]
  · simp only [hd, ite_false, ne_eq, not_false_eq_true, and_true]
    show SMap.get (Cell.init 0) (SMap.set (Cell.init 0) u.ctx.x d.toNat _) r = _
    rw [SMap.get_set_of_ne]
    intro h
    have := congrArg Cell.tick h
    simp only [Cell.write, Cell.init] at this
    omega

/-- The counted strand's count is positive. -/
theorem operands_now (s : State) (i : Instr) (k : Ctl) : 0 < (s.operands i k).now := by
  have hput : ∀ (c : Clock) (j : Strand) (n : Nat), (c.put j n).of j = n := by intro c j n; cases j <;> rfl
  have hjoin : ∀ (a b : Clock) (j : Strand), 0 < a.of j → 0 < (a.join b).of j := by
    intro a b j h; cases j <;> simp only [Clock.of, Clock.join] at h ⊢ <;> omega
  have hp : ∀ (c : Ctx) (j : Strand), 0 < (c.strands.get j.num).clk.of j → 0 < ((c.popPrev j).1.strands.get j.num).clk.of j := by
    intro c j h
    unfold Ctx.popPrev
    split
    · exact h
    · simp only [Ctx.mstrand, Quad.get_set_same]; exact hjoin _ _ _ h
  have hq : ∀ (c : Ctx) (j : Strand), 0 < (c.strands.get j.num).clk.of j → 0 < ((c.popNext j).1.strands.get j.num).clk.of j := by
    intro c j h
    unfold Ctx.popNext
    split
    · exact h
    · simp only [Ctx.mstrand, Quad.get_set_same]; exact hjoin _ _ _ h
  have hpop : ∀ (c : Ctx) (j : Strand) (a b : Bool), 0 < (c.strands.get j.num).clk.of j →
      0 < ((c.pop j a b).1.strands.get j.num).clk.of j := by
    intro c j a b h
    unfold Ctx.pop
    cases a <;> cases b
    · exact h
    · exact hq _ _ h
    · exact hp _ _ h
    · exact hq _ _ (hp _ _ h)
  have ht : 0 < ((s.bump.mctx (fun c => { c with ported := false })).tick.ctx.strands.get s.ctx.cur.num).clk.of s.ctx.cur := by
    have e := Quad.get_set_same s.ctx.strands s.ctx.cur ((fun (t : StrandSt) =>
      { t with clk := t.clk.put s.ctx.cur (t.clk.of s.ctx.cur + 1) }) (s.ctx.strands.get s.ctx.cur.num))
    have e2 := congrArg (fun (t : StrandSt) => t.clk.of s.ctx.cur) e
    simp only [hput] at e2
    exact Nat.lt_of_lt_of_eq (Nat.succ_pos _) e2.symm
  have hf : 0 < ((s.operands i k).ctx.strands.get s.ctx.cur.num).clk.of s.ctx.cur := by
    unfold State.operands State.begin State.popTokens State.cureRegs
    simp only []
    split
    · simp only [acquire_strands]; exact hpop _ _ _ _ ht
    · exact hpop _ _ _ _ ht
  show 0 < ((s.operands i k).strand (s.operands i k).ctx.cur).clk.of (s.operands i k).ctx.cur
  rw [operands_cur]
  exact hf

/-- The bounds after a result was noted and the word counted down (R68). -/
theorem within_age (l : List Pend) (k : Strand) (d : Dest) (n lands : Nat) (old : Word) :
    ((((if n ≤ 1 then l.filter (fun p => !(p.strand == k && p.dest == d))
        else l.filter (fun p => !(p.strand == k && p.dest == d)) ++ [{ strand := k, dest := d, left := n, land := lands, old := old }]).map
          (fun p => if p.strand = k then { p with left := p.left - 1 } else p)).filter (fun p => decide (0 < p.left))).filter
        (fun p => p.strand == k && p.dest == d)).map (fun p => p.left) = if 1 < n then [n - 1] else [] := by
  have h0 : ∀ l : List Pend, ((((l.filter (fun p => !(p.strand == k && p.dest == d))).map
      (fun p => if p.strand = k then { p with left := p.left - 1 } else p)).filter (fun p => decide (0 < p.left))).filter
        (fun p => p.strand == k && p.dest == d)) = [] := by
    intro l
    rw [List.filter_eq_nil_iff]
    intro p hp
    obtain ⟨hp, -⟩ := List.mem_filter.mp hp
    obtain ⟨q, hq, rfl⟩ := List.mem_map.mp hp
    obtain ⟨-, hq⟩ := List.mem_filter.mp hq
    have hq' : (q.strand == k && q.dest == d) = false := by
      cases hb : (q.strand == k && q.dest == d)
      · rfl
      · rw [hb] at hq; exact nomatch hq
    split <;> exact fun hh => Bool.noConfusion (hq'.symm.trans hh)
  by_cases hn : n ≤ 1
  · have h1 : ¬ 1 < n := by omega
    rw [if_pos hn, if_neg h1, h0]
    rfl
  · have h1 : 1 < n := by omega
    have h2 : 0 < n - 1 := by omega
    rw [if_neg hn, if_pos h1, List.map_append, List.filter_append, List.filter_append, h0]
    simp [h2]

/-- What closing leaves of the bound of a result noted by the effect of a word that issues. -/
theorem finish_within (u e : State) (k : Ctl) (why : Slot) (d : Dest) (n : Nat) (old : Word)
    (jmp : Option (Word × Nat)) (m : Nat) (hc : e.ctx.cur = u.ctx.cur)
    (he : e.ctx.pends = (u.notePend d n old).ctx.pends) : (e.finish k false why m jmp).ctx.within u.ctx.cur d n := by
  have hp : (e.finish k false why m jmp).ctx.pends = (e.ctx.age e.ctx.cur).pends := by
    have h2 : ∀ (s : State) j b, (s.moveOn j b).ctx.pends = s.ctx.pends := by
      intro s j b; unfold State.moveOn; split <;> rfl
    have h3 : ∀ me ev, (((e.pushTokens k false m).ageFor false).note me why ev).ctx.pends = (e.ctx.age e.ctx.cur).pends :=
      fun _ _ => rfl
    have h4 : ∀ me ev j, (if (((e.pushTokens k false m).ageFor false).note me why ev).bundle
        then ((e.pushTokens k false m).ageFor false).note me why ev
        else (((e.pushTokens k false m).ageFor false).note me why ev).moveOn j k.sy).ctx.pends =
        (e.ctx.age e.ctx.cur).pends := by
      intro me ev j
      split
      · exact h3 _ _
      · rw [h2]; exact h3 _ _
    cases jmp with
    | none => exact h4 _ _ _
    | some j => exact h4 _ _ _
  unfold Ctx.within
  rw [hp, Ctx.age, he, hc]
  exact within_age u.ctx.pends u.ctx.cur d n (u.cycle + n) old

/-- A word whose effect is done, and leaves the issuing strand, the mode and b0 to b3, closes that effect. -/
theorem issue_done (s : State) (i : Instr) (k : Ctl) (allowed : Strand → Bool) (ct : Bool) (checks : State → Option Cause)
    (eff : State → Res) (e : State) (n : Nat) (h : s.ready i k allowed ct) (hc : checks s.bump = none)
    (he : eff (s.operands i k) = .done e n) (h1 : e.ctx.cur = (s.operands i k).ctx.cur)
    (h2 : e.ctx.lockstep = (s.operands i k).ctx.lockstep) (h3 : (e.strand .c).b = ((s.operands i k).strand .c).b) :
    s.issue i k allowed ct checks eff = e.finish k false .issue n none ∧ Closed e (e.finish k false .issue n none) := by
  refine ⟨?_, finish_closed _ _ _ _ _ _⟩
  rw [issue_ready s i k allowed ct checks eff h hc, he]
  have hj : e.joinBad k = false := by
    have h5 := operands_joinBad s i k
    rw [h.2.2.2.2.2] at h5
    rw [← h5]
    simp only [State.joinBad, h1, h2, h3]
  simp only [State.close, hj, Bool.false_eq_true, if_false]

/-- A word whose effect is one register write and nothing else (R95). -/
theorem issue_setX (s : State) (i : Instr) (k : Ctl) (allowed : Strand → Bool) (ct : Bool) (checks : State → Option Cause)
    (eff : State → Res) (d : Reg) (v : Word) (n : Nat) (h : s.ready i k allowed ct)
    (hc : checks s.bump = none) (he : eff (s.operands i k) = .done ((s.operands i k).setX d v n) n) :
    (s.operands i k).wroteX (s.issue i k allowed ct checks eff) d v n := by
  have e1 : ((s.operands i k).setX d v n).ctx.cur = (s.operands i k).ctx.cur := by unfold State.setX; split <;> rfl
  have e2 : ((s.operands i k).setX d v n).ctx.lockstep = (s.operands i k).ctx.lockstep := by unfold State.setX; split <;> rfl
  have e3 : ((s.operands i k).setX d v n).ctx.strands = (s.operands i k).ctx.strands := by unfold State.setX; split <;> rfl
  have e4 : ((s.operands i k).setX d v n).ctx.p = (s.operands i k).ctx.p := by unfold State.setX; split <;> rfl
  have hv : ((s.operands i k).setX d v n).ctx.vp = (s.operands i k).ctx.vp := by unfold State.setX; split <;> rfl
  have hl : ((s.operands i k).setX d v n).ctx.lines = (s.operands i k).ctx.lines := by unfold State.setX; split <;> rfl
  have ha : (s.operands i k).aside ((s.operands i k).setX d v n) := by unfold State.setX; split <;> rfl
  have hk : (s.operands i k).ctx.kept ((s.operands i k).setX d v n).ctx := by unfold State.setX; split <;> exact ⟨rfl, rfl⟩
  obtain ⟨hi, hcl⟩ := issue_done s i k allowed ct checks eff _ n h hc he e1 e2 (by simp only [State.strand, e3])
  have hn := operands_now s i k
  rw [hi]
  refine ⟨ha.trans hcl.aside, hk.trans hcl.kept, Eq.trans hcl.p e4, ⟨hcl.vp.trans hv, hcl.lines.trans hl⟩, fun j => ?_, fun hd => ⟨?_, ?_⟩, fun r hr => ?_⟩
  · rw [hcl.b j, e3]
  · rw [hcl.x, setX_cells _ d v n hn, if_pos ⟨rfl, hd⟩]; rfl
  · refine finish_within _ _ _ _ (.x d.toNat) n 0 _ _ e1 ?_
    unfold State.setX
    rw [if_neg hd]
    rfl
  · rw [hcl.x, setX_cells _ d v n hn]
    rcases hr with hr | hr <;> simp [hr]

/-- A word of any strand whose only effect is x[d] ← f (R95). -/
theorem xWord_wrote (s : State) (i : Instr) (k : Ctl) (d : Reg) (n : Nat) (f : State → Word)
    (h : s.ready i k anyStrand false) :
    ∃ t, xWord i k d n f s = .next t ∧ (s.operands i k).wroteX t d (f (s.operands i k)) n :=
  ⟨_, rfl, issue_setX s i k anyStrand false noCheck _ d _ n h rfl rfl⟩

/-- Closing, as statements say it. -/
theorem Closed.closes {u t : State} (h : Closed u t) : u.closes t :=
  ⟨h.aside, h.kept, h.x, h.p, ⟨h.vp, h.lines⟩, h.b⟩

/-- An effect that leaves the issuing strand, the mode, b0 to b3 and the predicates of its operands' state. -/
structure Steady (u e : State) : Prop where
  cur : e.ctx.cur = u.ctx.cur
  lockstep : e.ctx.lockstep = u.ctx.lockstep
  b : ∀ j : Strand, (e.strand j).b = (u.strand j).b
  p : e.ctx.p = u.ctx.p

/-- An effect that leaves the context is steady. -/
theorem Steady.of_ctx {u e : State} (h : e.ctx = u.ctx) : Steady u e := by
  constructor <;> simp [h, State.strand]

theorem Steady.trans {s t u : State} (h : Steady s t) (g : Steady t u) : Steady s u :=
  ⟨g.cur.trans h.cur, g.lockstep.trans h.lockstep, fun j => (g.b j).trans (h.b j), g.p.trans h.p⟩

/-- A register write is steady. -/
theorem Steady.setX (s : State) (d : Reg) (v : Word) (n : Nat) : Steady s (s.setX d v n) := by
  unfold State.setX
  constructor <;> (try intro j) <;> split <;> rfl

theorem Steady.setLine (s : State) (m : Nat) (w : VReg) (n : Nat) : Steady s (s.setLine m w n) := by
  constructor <;> (try intro j) <;> rfl

theorem Steady.setVp (s : State) (m : Nat) (w : Word) (n : Nat) : Steady s (s.setVp m w n) := by
  constructor <;> (try intro j) <;> rfl

/-- A word whose effect is done and steady closes that effect. -/
theorem issue_closes (s : State) (i : Instr) (k : Ctl) (allowed : Strand → Bool) (ct : Bool) (checks : State → Option Cause)
    (eff : State → Res) (e : State) (n : Nat) (h : s.ready i k allowed ct) (hc : checks s.bump = none)
    (he : eff (s.operands i k) = .done e n) (hs : Steady (s.operands i k) e) : e.closes (s.issue i k allowed ct checks eff) := by
  obtain ⟨hi, hcl⟩ := issue_done s i k allowed ct checks eff e n h hc he hs.cur hs.lockstep (hs.b .c)
  rw [hi]
  exact hcl.closes

/-! ### Predicates and vector registers -/

/-- A predicate write whose count is past the reset count: every predicate reads as expected (R95). -/
theorem setP_cells (u : State) (m : Nat) (v : Bool) (n : Nat) (hn : 0 < u.now) (r : Nat) :
    SMap.get (Cell.init false) (u.setP m v n).ctx.p r =
      if r = m ∧ m ≠ 0 then (SMap.get (Cell.init false) u.ctx.p m).write u.ctx.cur (u.now + (n - 1)) v
      else SMap.get (Cell.init false) u.ctx.p r := by
  unfold State.setP
  by_cases hd : m = 0
  · simp [hd]
  · simp only [hd, ite_false, ne_eq, not_false_eq_true, and_true]
    show SMap.get (Cell.init false) (SMap.set (Cell.init false) u.ctx.p m _) r = _
    rw [SMap.get_set_of_ne]
    intro h
    have := congrArg Cell.tick h
    simp only [Cell.write, Cell.init] at this
    omega

/-- A word whose only effect is one predicate (R95). -/
theorem issue_setP (s : State) (i : Instr) (k : Ctl) (allowed : Strand → Bool) (ct : Bool) (checks : State → Option Cause)
    (eff : State → Res) (d : BitVec 4) (v : Bool) (h : s.ready i k allowed ct)
    (hc : checks s.bump = none) (he : eff (s.operands i k) = .done ((s.operands i k).setP d.toNat v 1) 1) :
    (s.operands i k).wroteP (s.issue i k allowed ct checks eff) d v := by
  have hd0 : d = 0 ↔ d.toNat = 0 := by
    constructor
    · intro h; subst h; rfl
    · intro h; exact BitVec.eq_of_toNat_eq h
  have e1 : ((s.operands i k).setP d.toNat v 1).ctx.cur = (s.operands i k).ctx.cur := by unfold State.setP; split <;> rfl
  have e2 : ((s.operands i k).setP d.toNat v 1).ctx.lockstep = (s.operands i k).ctx.lockstep := by unfold State.setP; split <;> rfl
  have e3 : ((s.operands i k).setP d.toNat v 1).ctx.strands = (s.operands i k).ctx.strands := by unfold State.setP; split <;> rfl
  have hx : ((s.operands i k).setP d.toNat v 1).ctx.x = (s.operands i k).ctx.x := by unfold State.setP; split <;> rfl
  have hv : ((s.operands i k).setP d.toNat v 1).ctx.vp = (s.operands i k).ctx.vp := by unfold State.setP; split <;> rfl
  have hl : ((s.operands i k).setP d.toNat v 1).ctx.lines = (s.operands i k).ctx.lines := by unfold State.setP; split <;> rfl
  have ha : (s.operands i k).aside ((s.operands i k).setP d.toNat v 1) := by unfold State.setP; split <;> rfl
  have hk : (s.operands i k).ctx.kept ((s.operands i k).setP d.toNat v 1).ctx := by unfold State.setP; split <;> exact ⟨rfl, rfl⟩
  obtain ⟨hi, hcl⟩ := issue_done s i k allowed ct checks eff _ 1 h hc he e1 e2 (by simp only [State.strand, e3])
  have hn := operands_now s i k
  rw [hi]
  refine ⟨ha.trans hcl.aside, hk.trans hcl.kept, hcl.x.trans hx, ⟨hcl.vp.trans hv, hcl.lines.trans hl⟩, fun j => ?_, fun hd => ⟨?_, ?_⟩, fun r hr => ?_⟩
  · rw [hcl.b j, e3]
  · rw [hcl.p, setP_cells _ _ v 1 hn, if_pos ⟨rfl, fun hz => hd (hd0.mpr hz)⟩]; rfl
  · refine finish_within _ _ _ _ (.p d.toNat) 1 0 _ _ e1 ?_
    unfold State.setP
    rw [if_neg (fun hz => hd (hd0.mpr hz))]
    rfl
  · rw [hcl.p, setP_cells _ _ v 1 hn]
    rcases hr with hr | hr
    · simp [hr]
    · simp [hd0.mp hr]

/-- A word whose only effect is p[d] ← f (R95). -/
theorem pWord_wrote (s : State) (i : Instr) (k : Ctl) (allowed : Strand → Bool) (d : BitVec 4) (f : State → Bool)
    (h : s.ready i k allowed false) :
    ∃ t, pWord i k allowed d f s = .next t ∧ (s.operands i k).wroteP t d (f (s.operands i k)) :=
  ⟨_, rfl, issue_setP s i k allowed false noCheck _ d _ h rfl rfl⟩

/-- A line write whose count is past the reset count. -/
theorem setLine_cells (u : State) (m : Nat) (w : VReg) (n : Nat) (hn : 0 < u.now) (r : Nat) :
    SMap.get (Cell.init 0) (u.setLine m w n).ctx.lines r =
      if r = m then (SMap.get (Cell.init 0) u.ctx.lines m).write u.ctx.cur (u.now + (n - 1)) w
      else SMap.get (Cell.init 0) u.ctx.lines r := by
  show SMap.get (Cell.init 0) (SMap.set (Cell.init 0) u.ctx.lines m _) r = _
  rw [SMap.get_set_of_ne]
  intro h
  have := congrArg Cell.tick h
  simp only [Cell.write, Cell.init] at this
  omega

/-- A word whose only effect is one line of the register space. -/
theorem issue_setLine (s : State) (i : Instr) (k : Ctl) (allowed : Strand → Bool) (ct : Bool) (checks : State → Option Cause)
    (eff : State → Res) (m : Nat) (w : VReg) (n : Nat) (h : s.ready i k allowed ct)
    (hc : checks s.bump = none) (he : eff (s.operands i k) = .done ((s.operands i k).setLine m w n) n) :
    (s.operands i k).wroteV (s.issue i k allowed ct checks eff) m w n := by
  obtain ⟨hi, hcl⟩ := issue_done s i k allowed ct checks eff _ n h hc he rfl rfl rfl
  have hn := operands_now s i k
  have ha : (s.operands i k).aside ((s.operands i k).setLine m w n) := rfl
  have hk : (s.operands i k).ctx.kept ((s.operands i k).setLine m w n).ctx := ⟨rfl, rfl⟩
  rw [hi]
  refine ⟨ha.trans hcl.aside, hk.trans hcl.kept, hcl.x, hcl.p, hcl.vp, hcl.b, ?_, ?_, fun r hr => ?_⟩
  · rw [hcl.lines, setLine_cells _ _ _ _ hn, if_pos rfl]; rfl
  · exact finish_within _ _ _ _ (.v m) n 0 _ _ rfl rfl
  · rw [hcl.lines, setLine_cells _ _ _ _ hn, if_neg hr]

/-- An effect whose vector registers lie in the register space is the effect (R61). -/
theorem inRange_ok (s : State) (l : List Reg) (r : Res) (h : ∀ v ∈ l, s.vok v = true) : s.inRange l r = r := by
  unfold State.inRange
  rw [if_pos (List.all_eq_true.mpr h)]

/-- A word of strand X whose only effect is v[d] ← f. -/
theorem vWord_wrote (s : State) (i : Instr) (k : Ctl) (d : Reg) (l : List Reg) (n : Nat) (f : State → VReg)
    (h : s.ready i k onlyX false) (hv : ∀ r ∈ l, (s.operands i k).vok r = true) :
    ∃ t, vWord i k d l n f s = .next t ∧
      (s.operands i k).wroteV t ((s.operands i k).vline d) (f (s.operands i k)) n :=
  ⟨_, rfl, issue_setLine s i k onlyX false noCheck _ _ _ n h rfl (inRange_ok _ l _ hv)⟩

end Sys2Proof.Machine
end

