-- ==== Sys2Proof/Laws/Finish.lean ====
section
/-! SUPPORT. Where a closed word leaves its strand: the event it notes, and outside a bundle the pc, the pending transfer and
the mode (R53 to R55, R110). -/

-- The package is also checked as one text: one thread of elaboration keeps that within memory.
set_option Elab.async false

namespace Sys2Proof.Machine

/-! ### Moving on -/

/-- Past a word of an apart strand (R55, R110). -/
theorem advanceApart_strand (s : State) (k : Strand) (jmp : Option (Word × Nat)) (join : Bool) :
    ((s.advanceApart k jmp join).strand k).pc = (nextPc (s.strand k).pc 4 (s.strand k).xfer jmp).1 ∧
    ((s.advanceApart k jmp join).strand k).xfer = (nextPc (s.strand k).pc 4 (s.strand k).xfer jmp).2 ∧
    ((s.advanceApart k jmp join).strand k).joined = join := by
  simp [State.advanceApart, State.strand, Ctx.mstrand, Quad.get_set_same]

/-- Past a bundle: every strand's pc is the next bundle's, or its own b0 once it splits (R53, R54, R110). -/
theorem advanceBundle_pc (s : State) (jmp : Option (Word × Nat)) (split : Bool) (j : Strand) :
    ((s.advanceBundle jmp split).strand j).pc =
      if split then (s.strand j).b.q0 else (nextPc (s.strand .c).pc 16 (s.strand .c).xfer jmp).1 := by
  cases j <;> rfl

theorem advanceBundle_xfer (s : State) (jmp : Option (Word × Nat)) (split : Bool) :
    ((s.advanceBundle jmp split).strand .c).xfer =
      if split then none else (nextPc (s.strand .c).pc 16 (s.strand .c).xfer jmp).2 := rfl

theorem advanceBundle_mode (s : State) (jmp : Option (Word × Nat)) (split : Bool) :
    (s.advanceBundle jmp split).ctx.lockstep = !split := rfl

theorem advanceBundle_event (s : State) (jmp : Option (Word × Nat)) (split : Bool) :
    (s.advanceBundle jmp split).event = s.event := rfl

theorem advanceApart_event (s : State) (k : Strand) (jmp : Option (Word × Nat)) (join : Bool) :
    (s.advanceApart k jmp join).event = s.event := rfl

/-! ### Closing a word -/

/-- The word counted, its pushes landed and its slot noted, before its strand moves on. -/
def State.closed (s : State) (k : Ctl) (marked : Bool) (why : Slot) (n : Nat) (e : Event) : State :=
  ((s.pushTokens k marked n).ageFor marked).note s.ctx.cur why e

/-- How a word that is done ends. -/
def State.doneEvent (s : State) (jmp : Option (Word × Nat)) : Event :=
  match jmp with
  | some (t, d) => .jumped s.ctx.cur t d
  | none => .issued s.ctx.cur

theorem finish_eq (s : State) (k : Ctl) (marked : Bool) (why : Slot) (n : Nat) (jmp : Option (Word × Nat)) :
    s.finish k marked why n jmp =
      if (s.closed k marked why n (s.doneEvent jmp)).bundle then s.closed k marked why n (s.doneEvent jmp)
      else (s.closed k marked why n (s.doneEvent jmp)).moveOn jmp k.sy := by
  cases jmp <;> rfl

theorem pushTokens_ctx (s : State) (k : Ctl) (marked : Bool) (n : Nat) :
    (s.pushTokens k marked n).ctx = ((if marked then s.ctx else s.ctx.owe s.ctx.cur k.qp k.qn).land s.ctx.cur k.qp k.qn
      { clk := s.pushClock n, acq := false }) := rfl

theorem pushTokens_bundle (s : State) (k : Ctl) (marked : Bool) (n : Nat) : (s.pushTokens k marked n).bundle = s.bundle := by
  unfold State.pushTokens; rfl

theorem closed_ctx (s : State) (k : Ctl) (marked : Bool) (why : Slot) (n : Nat) (e : Event) :
    (s.closed k marked why n e).ctx.strands = s.ctx.strands ∧ (s.closed k marked why n e).ctx.lockstep = s.ctx.lockstep ∧
    (s.closed k marked why n e).ctx.cur = s.ctx.cur := by
  cases marked <;> simp [State.closed, State.ageFor, pushTokens_ctx, Ctx.age, Ctx.land, Ctx.owe]

theorem closed_bundle (s : State) (k : Ctl) (marked : Bool) (why : Slot) (n : Nat) (e : Event) :
    (s.closed k marked why n e).bundle = s.bundle := by
  cases marked <;> simp [State.closed, State.ageFor, pushTokens_bundle]

theorem closed_event (s : State) (k : Ctl) (marked : Bool) (why : Slot) (n : Nat) (e : Event) :
    (s.closed k marked why n e).event = e := by
  simp [State.closed]

theorem closed_strand (s : State) (k : Ctl) (marked : Bool) (why : Slot) (n : Nat) (e : Event) (j : Strand) :
    (s.closed k marked why n e).strand j = s.strand j := by
  simp only [State.strand, (closed_ctx s k marked why n e).1]

/-- The event of a word that is done. -/
theorem finish_event (s : State) (k : Ctl) (marked : Bool) (why : Slot) (n : Nat) (jmp : Option (Word × Nat)) :
    (s.finish k marked why n jmp).event = s.doneEvent jmp := by
  rw [finish_eq]
  split
  · exact closed_event _ _ _ _ _ _
  · unfold State.moveOn
    split
    · rw [advanceBundle_event]; exact closed_event _ _ _ _ _ _
    · rw [advanceApart_event]; exact closed_event _ _ _ _ _ _

/-- A word of a bundle leaves the strands (R53). -/
theorem finish_bundle (s : State) (k : Ctl) (marked : Bool) (why : Slot) (n : Nat) (jmp : Option (Word × Nat))
    (h : s.bundle = true) : (s.finish k marked why n jmp).ctx.strands = s.ctx.strands := by
  rw [finish_eq, closed_bundle, h]
  exact (closed_ctx _ _ _ _ _ _).1

/-- A word of an apart strand (R55). -/
theorem finish_apart (s : State) (k : Ctl) (marked : Bool) (why : Slot) (n : Nat) (jmp : Option (Word × Nat))
    (h : s.bundle = false) (hl : s.ctx.lockstep = false) :
    ((s.finish k marked why n jmp).strand s.ctx.cur).pc = (nextPc (s.strand s.ctx.cur).pc 4 (s.strand s.ctx.cur).xfer jmp).1 ∧
    ((s.finish k marked why n jmp).strand s.ctx.cur).xfer = (nextPc (s.strand s.ctx.cur).pc 4 (s.strand s.ctx.cur).xfer jmp).2 ∧
    ((s.finish k marked why n jmp).strand s.ctx.cur).joined = k.sy := by
  have hm : (s.closed k marked why n (s.doneEvent jmp)).ctx.lockstep = false := (closed_ctx _ _ _ _ _ _).2.1.trans hl
  have hc : (s.closed k marked why n (s.doneEvent jmp)).ctx.cur = s.ctx.cur := (closed_ctx _ _ _ _ _ _).2.2
  rw [finish_eq, closed_bundle, h]
  simp only [Bool.false_eq_true, if_false, State.moveOn, hm, hc]
  have := advanceApart_strand (s.closed k marked why n (s.doneEvent jmp)) s.ctx.cur jmp k.sy
  rw [closed_strand] at this
  exact this

/-- A word that is a whole lock-step bundle (R53, R54). -/
theorem finish_lock (s : State) (k : Ctl) (marked : Bool) (why : Slot) (n : Nat) (jmp : Option (Word × Nat))
    (h : s.bundle = false) (hl : s.ctx.lockstep = true) :
    s.finish k marked why n jmp =
      (s.closed k marked why n (s.doneEvent jmp)).advanceBundle jmp (s.ctx.cur == .c && !k.sy) := by
  have hm : (s.closed k marked why n (s.doneEvent jmp)).ctx.lockstep = true := (closed_ctx _ _ _ _ _ _).2.1.trans hl
  have hc : (s.closed k marked why n (s.doneEvent jmp)).ctx.cur = s.ctx.cur := (closed_ctx _ _ _ _ _ _).2.2
  rw [finish_eq, closed_bundle, h]
  simp only [Bool.false_eq_true, if_false, State.moveOn, hm, hc, if_true]

/-! ### Operands -/

/-- A change of one strand's clock leaves the pc and the pending transfer of all. -/
theorem mstrand_pc (c : Ctx) (m j : Strand) (f : StrandSt → StrandSt) (hf : ∀ t, (f t).pc = t.pc ∧ (f t).xfer = t.xfer) :
    ((c.mstrand m f).strands.get j.num).pc = (c.strands.get j.num).pc ∧
    ((c.mstrand m f).strands.get j.num).xfer = (c.strands.get j.num).xfer := by
  by_cases h : j = m
  · subst h; simp [Ctx.mstrand, Quad.get_set_same, hf]
  · simp [Ctx.mstrand, Quad.get_set_ne _ _ _ _ h]

/-- The pops leave the pc and the pending transfer of every strand. -/
theorem pop_pc (c : Ctx) (m j : Strand) (a b : Bool) :
    ((c.pop m a b).1.strands.get j.num).pc = (c.strands.get j.num).pc ∧
    ((c.pop m a b).1.strands.get j.num).xfer = (c.strands.get j.num).xfer := by
  have hp : ∀ c : Ctx, ((c.popPrev m).1.strands.get j.num).pc = (c.strands.get j.num).pc ∧
      ((c.popPrev m).1.strands.get j.num).xfer = (c.strands.get j.num).xfer := by
    intro c
    unfold Ctx.popPrev
    split
    · exact ⟨rfl, rfl⟩
    · next ts _ => exact mstrand_pc { c with tokNext := c.tokNext.set m.prev.num ts } m j _ (fun _ => ⟨rfl, rfl⟩)
  have hq : ∀ c : Ctx, ((c.popNext m).1.strands.get j.num).pc = (c.strands.get j.num).pc ∧
      ((c.popNext m).1.strands.get j.num).xfer = (c.strands.get j.num).xfer := by
    intro c
    unfold Ctx.popNext
    split
    · exact ⟨rfl, rfl⟩
    · next ts _ => exact mstrand_pc { c with tokPrev := c.tokPrev.set m.next.num ts } m j _ (fun _ => ⟨rfl, rfl⟩)
  unfold Ctx.pop
  cases a <;> cases b <;> simp [hp, hq]

/-- The count and the pops leave the pc and the pending transfer of every strand. -/
theorem operands_pc (s : State) (i : Instr) (k : Ctl) (j : Strand) :
    ((s.operands i k).strand j).pc = (s.strand j).pc ∧ ((s.operands i k).strand j).xfer = (s.strand j).xfer := by
  have h0 := mstrand_pc s.ctx s.ctx.cur j (fun t => { t with clk := t.clk.put s.ctx.cur (t.clk.of s.ctx.cur + 1) })
    (fun _ => ⟨rfl, rfl⟩)
  unfold State.operands State.begin State.popTokens State.cureRegs State.strand
  simp only []
  split
  · simp only [acquire_strands]
    exact ⟨(pop_pc _ _ _ _ _).1.trans h0.1, (pop_pc _ _ _ _ _).2.trans h0.2⟩
  · exact ⟨(pop_pc _ _ _ _ _).1.trans h0.1, (pop_pc _ _ _ _ _).2.trans h0.2⟩

/-! ### Transfers -/

/-- A word whose effect is a transfer closes it. -/
theorem issue_jump (s : State) (i : Instr) (k : Ctl) (allowed : Strand → Bool) (ct : Bool) (checks : State → Option Cause)
    (eff : State → Res) (e : State) (dest : Word) (n : Nat) (h : s.ready i k allowed ct) (hc : checks s.bump = none)
    (he : eff (s.operands i k) = .jump e dest n) :
    s.issue i k allowed ct checks eff = e.finish k false .issue 1 (some (dest, n)) := by
  rw [issue_ready s i k allowed ct checks eff h hc, he]
  rfl

/-- Where a transfer leaves its strand (R110). -/
theorem finish_jumpedTo (s e : State) (k : Ctl) (dest : Word) (n : Nat) (h1 : e.ctx.cur = s.ctx.cur) (h2 : e.bundle = s.bundle)
    (h3 : (e.strand s.ctx.cur).pc = (s.strand s.ctx.cur).pc) (h4 : e.ctx.lockstep = s.ctx.lockstep)
    (hl : s.ctx.lockstep = true → s.ctx.cur = .c ∧ k.sy = true) :
    s.jumpedTo (e.finish k false .issue 1 (some (dest, n))) dest n := by
  refine ⟨?_, fun hb => ?_⟩
  · rw [finish_event, ← h1]; rfl
  · have hb' : e.bundle = false := h2.trans hb
    cases hm : s.ctx.lockstep with
    | false =>
      have h := finish_apart e k false .issue 1 (some (dest, n)) hb' (h4.trans hm)
      rw [h1, h3] at h
      rw [h.1, h.2.1]
      have hs : s.ctx.stepOf = 4 := by simp [Ctx.stepOf, hm]
      rw [hs]
      cases n <;> exact ⟨rfl, rfl⟩
    | true =>
      obtain ⟨hcur, hsy⟩ := hl hm
      have hs : s.ctx.stepOf = 16 := by simp [Ctx.stepOf, hm]
      have hc : e.ctx.cur = .c := h1.trans hcur
      rw [finish_lock e k false .issue 1 _ hb' (h4.trans hm), hcur, hs]
      have hsp : (e.ctx.cur == Strand.c && !k.sy) = false := by rw [hsy]; cases (e.ctx.cur == Strand.c) <;> rfl
      rw [hsp, advanceBundle_pc, advanceBundle_xfer, closed_strand]
      rw [hcur] at h3
      rw [h3]
      cases n <;> exact ⟨rfl, rfl⟩

end Sys2Proof.Machine
end

