-- ==== Sys2Proof/Laws/Memory.lean ====
section
/-! SUPPORT. Memory operations: each leaves the context in focus and keeps the canonical form of memory; bytes written are read
back. -/

-- The package is also checked as one text: one thread of elaboration keeps that within memory.
set_option Elab.async false

namespace Sys2Proof.Machine

/-- An operation on memory and caches: the context in focus stays, and so does the canonical form of memory. -/
def Quiet (s t : State) : Prop := t.ctx = s.ctx ∧ (Memory.wf s.mem = true → Memory.wf t.mem = true)

theorem Quiet.refl (s : State) : Quiet s s := ⟨rfl, id⟩

theorem Quiet.trans {s t u : State} (h : Quiet s t) (g : Quiet t u) : Quiet s u :=
  ⟨g.1.trans h.1, fun w => g.2 (h.2 w)⟩

/-- A state with the same context and memory. -/
theorem Quiet.of_eq {s t : State} (h : t.ctx = s.ctx) (g : t.mem = s.mem) : Quiet s t := ⟨h, fun w => g ▸ w⟩

/-- Repeating a quiet operation is quiet. -/
theorem Quiet.foldl {α : Type} (f : State → α → State) (h : ∀ s a, Quiet s (f s a)) (l : List α) (s : State) :
    Quiet s (l.foldl f s) := by
  induction l generalizing s with
  | nil => exact .refl s
  | cons a l ih => exact (h s a).trans (ih _)

/-! ### Bytes -/

/-- Writing bytes keeps the canonical form. -/
theorem writeBytes_wf (bs : List Byte) (m : SMap Byte) (pa : Nat) (h : Memory.wf m = true) :
    Memory.wf (writeBytes m pa bs) = true := by
  induction bs generalizing m pa with
  | nil => exact h
  | cons b bs ih => exact ih _ _ (SMap.set_wf _ _ _ _ h)

/-- A byte table after bytes were written: those bytes inside, as before outside. -/
theorem writeBytes_get (bs : List Byte) (m : SMap Byte) (pa a : Nat) (h : Memory.wf m = true) :
    SMap.get 0 (writeBytes m pa bs) a =
      if pa ≤ a ∧ a < pa + bs.length then bs.getD (a - pa) 0 else SMap.get 0 m a := by
  induction bs generalizing m pa with
  | nil =>
    have : ¬ (pa ≤ a ∧ a < pa + ([] : List Byte).length) := by simp only [List.length_nil]; omega
    rw [if_neg this]
    rfl
  | cons b bs ih =>
    rw [writeBytes, ih _ _ (SMap.set_wf _ _ _ _ h), SMap.get_set _ _ _ _ h]
    simp only [List.length_cons]
    by_cases h1 : a = pa
    · subst h1
      rw [if_neg (show ¬ (a + 1 ≤ a ∧ a < a + 1 + bs.length) by omega), if_pos (show a ≤ a ∧ a < a + (bs.length + 1) by omega)]
      simp
    · by_cases h2 : pa + 1 ≤ a ∧ a < pa + 1 + bs.length
      · have h3 : pa ≤ a ∧ a < pa + (bs.length + 1) := by omega
        have h4 : a - pa = (a - (pa + 1)) + 1 := by omega
        simp only [h2, h3, and_self, ite_true, h4, List.getD_cons_succ]
      · have h3 : ¬ (pa ≤ a ∧ a < pa + (bs.length + 1)) := by omega
        rw [if_neg h2, if_neg h1, if_neg h3]

/-! ### Writes at the coherent point -/

theorem homeByte_quiet (s : State) (p r pa : Nat) (b : Byte) : Quiet s (s.homeByte p r pa b) := by
  unfold State.homeByte
  simp only []
  split
  · exact .refl s
  · exact ⟨rfl, fun w => SMap.set_wf _ _ _ _ w⟩

theorem homeBytes_quiet (p r : Nat) (bs : List Byte) (s : State) (pa : Nat) : Quiet s (s.homeBytes p r pa bs) := by
  induction bs generalizing s pa with
  | nil => exact .refl s
  | cons b bs ih => exact (homeByte_quiet s p r pa b).trans (ih _ _)

theorem homeMask_quiet (p r line : Nat) (data : Line) (mask : BitVec 128) (is : List Nat) (s : State) :
    Quiet s (s.homeMask p r line data mask is) := by
  induction is generalizing s with
  | nil => exact .refl s
  | cons i is ih =>
    unfold State.homeMask
    split
    · exact (homeByte_quiet s _ _ _ _).trans (ih _)
    · exact ih _

theorem cure_quiet (s : State) (pa n : Nat) : Quiet s (s.cure pa n) := .of_eq rfl rfl

theorem notePush_quiet (s : State) (r line : Nat) : Quiet s (s.notePush r line) := by
  unfold State.notePush
  simp only []
  split
  · exact .of_eq rfl rfl
  · exact .refl s

theorem rawBytes_quiet (s : State) (pa : Nat) (bs : List Byte) : Quiet s (s.rawBytes pa bs) :=
  ⟨rfl, fun w => writeBytes_wf bs s.mem pa w⟩

theorem clearWriters_quiet (s : State) (pa n : Nat) : Quiet s (s.clearWriters pa n) := .of_eq rfl rfl

theorem mdie_quiet (s : State) (d : Nat) (f : Die → Die) : Quiet s (s.mdie d f) := .of_eq rfl rfl

theorem mplate_quiet (s : State) (f : Plate → Plate) : Quiet s (s.mplate f) := .of_eq rfl rfl

theorem send_quiet (s : State) (a b : Nat) (m : Msg) : Quiet s (s.send a b m) := .of_eq rfl rfl

theorem setSharers_quiet (s : State) (line : Nat) (v : BitVec 4) : Quiet s (s.setSharers line v) := .of_eq rfl rfl

theorem invSharers_quiet (s : State) (line : Nat) : Quiet s (s.invSharers line) := by
  unfold State.invSharers
  simp only []
  split
  · exact .refl s
  · refine Quiet.trans (Quiet.foldl _ (fun t d => ?_) _ s) (setSharers_quiet _ _ _)
    split
    · exact send_quiet _ _ _ _
    · exact .refl t

theorem rawMask_quiet (s : State) (line : Nat) (data : Line) (mask : BitVec 128) : Quiet s (s.rawMask line data mask) := by
  refine ⟨rfl, fun w => ?_⟩
  have : ∀ (l : List Nat) (m : SMap Byte), Memory.wf m = true →
      Memory.wf (l.foldl (fun m i => if mask.getLsbD i then SMap.set 0 m (line * 128 + i) (lineByte data i) else m) m) = true := by
    intro l
    induction l with
    | nil => exact fun m h => h
    | cons i l ih =>
      intro m h
      refine ih _ ?_
      simp only []
      split
      · exact SMap.set_wf _ _ _ _ h
      · exact h
  exact this _ _ w

/-! ### The L2 -/

theorem l2Out_quiet (s : State) (d : Nat) (e : L2Line) : Quiet s (s.l2Out d e) := by
  unfold State.l2Out
  split
  · exact rawMask_quiet _ _ _ _
  · split
    · exact invSharers_quiet _ _
    · exact .refl s

theorem l2Insert_quiet (s : State) (d : Nat) (e : L2Line) : Quiet s ((s.l2Insert d e).getD s) := by
  unfold State.l2Insert
  split
  · exact .refl s
  · simp only [Option.getD_some]
    split
    · exact Quiet.trans (t := State.mdie s d (fun _ => _)) (mdie_quiet _ _ _) (l2Out_quiet _ _ _)
    · exact .of_eq rfl rfl

theorem l2Touch_quiet (s : State) (d line rh : Nat) (swm : Bool) (r : Nat) : Quiet s (s.l2Touch d line rh swm r) := by
  have miss : ∀ t : State, Quiet t (if homeDie (line * 128) = d ∨ swm = true then
      (if rh = 3 then t else (t.l2Insert d (t.l2Fresh line rh swm r)).getD t)
      else if t.rdOut d line = true then t else t.send d (homeDie (line * 128)) (.rd line rh r)) := by
    intro t
    by_cases h1 : homeDie (line * 128) = d ∨ swm = true
    · rw [if_pos h1]
      by_cases h2 : rh = 3
      · rw [if_pos h2]; exact .refl t
      · rw [if_neg h2]; exact l2Insert_quiet _ _ _
    · rw [if_neg h1]
      by_cases h2 : t.rdOut d line = true
      · rw [if_pos h2]; exact .refl t
      · rw [if_neg h2]; exact send_quiet _ _ _ _
  unfold State.l2Touch
  simp only []
  split
  · exact mdie_quiet _ _ _
  · exact Quiet.trans (mdie_quiet s d _) (miss _)

/-! ### Requests at the home -/

theorem markPoison_quiet (s : State) (line : Nat) (mask : BitVec 128) (q : BitVec 2) : Quiet s (s.markPoison line mask q) :=
  .of_eq rfl rfl

theorem noteDirty_quiet (s : State) (line : Nat) (mask : BitVec 128) : Quiet s (s.noteDirty line mask) := mdie_quiet s _ _

theorem mergeWr_quiet (s : State) (line : Nat) (data : Line) (mask : BitVec 128) (q : BitVec 2) (p r : Nat) :
    Quiet s (s.mergeWr line data mask q p r) := by
  unfold State.mergeWr
  refine Quiet.trans ?_ ((((markPoison_quiet _ line mask q).trans (notePush_quiet _ _ _)).trans (noteDirty_quiet _ _ _)).trans (invSharers_quiet _ _))
  split
  · exact homeMask_quiet _ _ _ _ _ _ s
  · refine (rawMask_quiet s _ _ _).trans (Quiet.foldl _ (fun t i => ?_) _ _)
    split
    · exact clearWriters_quiet _ _ _
    · exact .refl t

theorem bankStep_quiet (s : State) (pa n r : Nat) (f : Nat → Nat) : Quiet s (s.bankStep pa n r f).1 := by
  have h : Quiet s (if isCarved pa = true then s else (s.l2Touch (homeDie pa) (pa / 128) 0 false r).invSharers (pa / 128)) := by
    split
    · exact .refl s
    · exact (l2Touch_quiet _ _ _ _ _ _).trans (invSharers_quiet _ _)
  exact (((h.trans (rawBytes_quiet _ _ _)).trans (clearWriters_quiet _ _ _)).trans (notePush_quiet _ _ _)).trans (noteDirty_quiet _ _ _)

theorem barrierAdd_quiet (s : State) (pa : Nat) : Quiet s (s.barrierAdd pa) := by
  unfold State.barrierAdd
  split
  · exact rawBytes_quiet _ _ _
  · exact .refl s

theorem atomStep_quiet (s : State) (pa op r : Nat) (a e : Word) : Quiet s (s.atomStep pa op r a e).1 := by
  unfold State.atomStep
  simp only []
  split
  · exact (bankStep_quiet _ _ _ _ _).trans (barrierAdd_quiet _ _)
  · exact bankStep_quiet _ _ _ _ _

theorem perform_quiet (s : State) (m : Msg) : Quiet s (s.perform m).1 := by
  unfold State.perform
  split
  · exact mergeWr_quiet _ _ _ _ _ _ _
  · exact atomStep_quiet _ _ _ _ _ _
  · exact .refl s

theorem restate_quiet (s : State) (a b : Nat) (m n : Msg) : Quiet s (s.restate a b m n) := .of_eq rfl rfl

/-- Performing what a die has on its way to the homes is quiet. -/
theorem settle_quiet (s : State) (d : Nat) (pick : Nat → Bool) : Quiet s (s.settle d pick) :=
  Quiet.foldl _ (fun _ _ => Quiet.foldl _ (fun u m => (perform_quiet u m).trans (restate_quiet _ _ _ _ _)) _ _) _ _

theorem l2Access_quiet (s : State) (d line rh : Nat) (swm : Bool) (r : Nat) : Quiet s (s.l2Access d line rh swm r) := by
  unfold State.l2Access
  split
  · exact l2Touch_quiet _ _ _ _ _ _
  · exact (settle_quiet _ _ _).trans (l2Touch_quiet _ _ _ _ _ _)

theorem homeLine_quiet (s : State) (d p r line : Nat) (data : Line) (mask : BitVec 128) (q : BitVec 2) :
    Quiet s (s.homeLine d p r line data mask q) := by
  unfold State.homeLine
  split
  · exact mergeWr_quiet _ _ _ _ _ _ _
  · exact send_quiet _ _ _ _

theorem homeWrite_quiet (s : State) (p r pa n v : Nat) : Quiet s (s.homeWrite p r pa n v) :=
  Quiet.foldl _ (fun _ _ => homeLine_quiet _ _ _ _ _ _ _ _) _ _

theorem l2Merge_quiet (s : State) (d line r : Nat) (data : Line) (mask : BitVec 128) (tags : List (Nat × Nat × Nat)) :
    Quiet s (s.l2Merge d line r data mask tags) := by
  unfold State.l2Merge
  simp only []
  generalize hu : (if (s.die d).l2.any (fun e => e.line == line && e.swm) = true then s
    else (s.l2Insert d (s.l2Fresh line 0 true r)).getD s) = u
  have h : Quiet s u := by
    subst hu
    split
    · exact .refl s
    · exact l2Insert_quiet _ _ _
  refine h.trans ?_
  split
  · exact mdie_quiet _ _ _
  · exact rawMask_quiet _ _ _ _

/-! ### The L1 -/

theorem writeBack_quiet (s : State) (p : Nat) (l : L1Line) : Quiet s (s.writeBack p l) := by
  unfold State.writeBack
  split
  · exact .refl s
  · split
    · exact (l2Merge_quiet _ _ _ _ _ _ _).trans (markPoison_quiet _ _ _ _)
    · exact Quiet.foldl _ (fun _ _ => homeLine_quiet _ _ _ _ _ _ _ _) _ s

theorem l1Insert_quiet (s : State) (l : L1Line) (first : Bool) : Quiet s (s.l1Insert l first) := by
  unfold State.l1Insert
  simp only []
  split
  · exact mplate_quiet _ _
  · split
    · exact .refl s
    · exact ((mplate_quiet s _).trans (writeBack_quiet _ _ _)).trans (mplate_quiet _ _)

theorem l1Refill_quiet (s : State) (x : Xlat) (line rh : Nat) : Quiet s (s.l1Refill x line rh) :=
  (l2Access_quiet s _ _ _ _ _).trans (mplate_quiet _ _)

theorem l1Fill_quiet (s : State) (x : Xlat) (line rh : Nat) : Quiet s (s.l1Fill x line rh) :=
  (l2Access_quiet s _ _ _ _ _).trans (l1Insert_quiet _ _ _)

/-! ### Reads -/

/-- A read is quiet. -/
def Got.Quiet (s : State) (g : Got) : Prop := ∀ t v h, g = .val t v h → Machine.Quiet s t

theorem touch_quiet (s : State) (rh line : Nat) : Quiet s (if rh = 0 ∨ rh = 2 then s.l1Front line else s) := by
  split
  · exact mplate_quiet _ _
  · exact .refl s

theorem readLine_quiet (s : State) (x : Xlat) (line off n sb rh : Nat) : Got.Quiet s (s.readLine x line off n sb rh) := by
  intro t v h e
  unfold State.readLine at e
  simp only [] at e
  split at e
  · split at e
    · injection e with e1 e2 e3; subst e1; exact touch_quiet _ _ _
    · split at e
      · exact Got.noConfusion e
      · injection e with e1 e2 e3; subst e1
        exact (l1Refill_quiet _ _ _ _).trans (touch_quiet _ _ _)
  · split at e
    · injection e with e1 e2 e3; subst e1; exact l2Access_quiet _ _ _ _ _ _
    · injection e with e1 e2 e3; subst e1; exact l1Fill_quiet _ _ _ _

theorem readLines_quiet (x : Xlat) (sb rh : Nat) (l : List (Nat × Nat × Nat × Nat)) (s : State) :
    Got.Quiet s (s.readLines x sb rh l) := by
  induction l generalizing s with
  | nil => intro t v h e; unfold State.readLines at e; injection e with e1 e2 e3; subst e1; exact .refl s
  | cons a l ih =>
    intro t v h e
    obtain ⟨line, off, n, at_⟩ := a
    unfold State.readLines at e
    split at e
    · exact Got.noConfusion e
    · next s1 v1 h1 e1 =>
      split at e
      · exact Got.noConfusion e
      · next s2 v2 h2 e2 =>
        injection e with e3 _ _
        subst e3
        exact (readLine_quiet _ _ _ _ _ _ _ _ _ _ e1).trans (ih _ _ _ _ e2)

theorem readPiece_quiet (s : State) (p : Piece) (sb rh : Nat) : Got.Quiet s (s.readPiece p sb rh) := by
  intro t v h e
  unfold State.readPiece at e
  split at e
  · injection e with e1 _ _; subst e1; exact .refl s
  · split at e
    · injection e with e1 _ _; subst e1; exact settle_quiet _ _ _
    · injection e with e1 _ _; subst e1; exact .refl s
    · split at e
      · injection e with e1 _ _; subst e1; exact .refl s
      · split at e
        · injection e with e1 _ _; subst e1; exact .refl s
        · exact readLines_quiet _ _ _ _ _ _ _ _ e

theorem readPieces_quiet (sb rh : Nat) (l : List Piece) (s : State) : Got.Quiet s (s.readPieces sb rh l) := by
  induction l generalizing s with
  | nil => intro t v h e; unfold State.readPieces at e; injection e with e1 e2 e3; subst e1; exact .refl s
  | cons p l ih =>
    intro t v h e
    unfold State.readPieces at e
    split at e
    · exact Got.noConfusion e
    · next s1 v1 h1 e1 =>
      split at e
      · exact Got.noConfusion e
      · next s2 v2 h2 e2 =>
        injection e with e3 _ _
        subst e3
        exact (readPiece_quiet _ _ _ _ _ _ _ e1).trans (ih _ _ _ _ e2)

/-! ### Translation -/

theorem map_ok {α β ε : Type} (f : α → β) (e : Except ε α) (b : β) (h : e.map f = .ok b) : ∃ a, e = .ok a ∧ f a = b := by
  cases e with
  | error c => exact nomatch h
  | ok a => exact ⟨a, rfl, by simpa [Except.map] using h⟩

/-- The table reads of a walk are quiet. -/
theorem walkTouch_quiet (va : Nat) (l : List Nat) (s : State) (table : Nat) : Quiet s (s.walkTouch va l table) := by
  induction l generalizing s table with
  | nil => exact .refl s
  | cons sh l ih =>
    unfold State.walkTouch
    simp only []
    generalize table + 8 * (va / 2 ^ sh % (if sh = 16 then 32 else 512)) = ea
    have h : Quiet s (if isCarved ea = true then s else s.l2Access (dieOfPlate s.plate.id) (ea / 128) 0 false 0) := by
      split
      · exact .refl s
      · exact l2Access_quiet _ _ _ _ _ _
    split
    · exact h
    · exact h.trans (ih _ _)

theorem xlate_quiet (s t : State) (asid : BitVec 12) (root : Word) (va : Nat) (x : Xlat)
    (h : s.xlate asid root va = .ok (t, x)) : Quiet s t := by
  unfold State.xlate at h
  simp only [] at h
  split at h
  · exact nomatch h
  · split at h
    · obtain ⟨a, _, e⟩ := map_ok _ _ _ h
      injection e with e1 _; subst e1; exact .refl s
    · split at h
      · obtain ⟨a, _, e⟩ := map_ok _ _ _ h
        injection e with e1 _; subst e1; exact mplate_quiet _ _
      · split at h
        · exact nomatch h
        · obtain ⟨a, _, e⟩ := map_ok _ _ _ h
          injection e with e1 _; subst e1
          exact ((walkTouch_quiet _ _ _ _).trans (mdie_quiet _ _ _)).trans (mplate_quiet _ _)

theorem resolvePart_quiet (s t : State) (va n : Nat) (p : Piece) (h : s.resolvePart va n = .ok (t, p)) : Quiet s t := by
  unfold State.resolvePart at h
  split at h
  · split at h
    · injection h with h; injection h with h1 _; subst h1; exact .refl s
    · exact nomatch h
  · split at h
    · exact nomatch h
    · next s1 x e => injection h with h; injection h with h1 _; subst h1; exact xlate_quiet _ _ _ _ _ _ e

theorem resolveParts_quiet (l : List (Nat × Nat)) (s t : State) (ps : List Piece) (h : s.resolveParts l = .ok (t, ps)) :
    Quiet s t := by
  induction l generalizing s ps with
  | nil => unfold State.resolveParts at h; injection h with h; injection h with h1 _; subst h1; exact .refl s
  | cons a l ih =>
    obtain ⟨va, n⟩ := a
    unfold State.resolveParts at h
    split at h
    · exact nomatch h
    · next s1 p e1 =>
      split at h
      · exact nomatch h
      · next s2 q e2 =>
        injection h with h; injection h with h1 _; subst h1
        exact (resolvePart_quiet _ _ _ _ _ e1).trans (ih _ _ e2)

theorem resolve_quiet (s t : State) (va n : Nat) (a : Acc) (ok : Target → Bool) (ps : List Piece)
    (h : s.resolve va n a ok = .ok (t, ps)) : Quiet s t := by
  unfold State.resolve at h
  split at h
  · exact nomatch h
  · next s1 q e1 =>
    split at h
    · exact nomatch h
    · simp only [] at h
      split at h
      · exact nomatch h
      · split at h
        · exact nomatch h
        · injection h with h; injection h with h1 _; subst h1
          exact resolveParts_quiet _ _ _ _ e1

/-- A read of memory is quiet. -/
theorem memRead_quiet (s t : State) (va n sb rh : Nat) (ok : Target → Bool) (v : Nat) (hit : Bool)
    (h : s.memRead va n sb rh ok = .ok (.val t v hit)) : Quiet s t := by
  unfold State.memRead at h
  split at h
  · exact nomatch h
  · next s1 ps e => injection h with h; exact (resolve_quiet _ _ _ _ _ _ _ e).trans (readPieces_quiet _ _ _ _ _ _ _ h)

/-! ### Writes -/

theorem l1Update_quiet (s : State) (line : Nat) (f : L1Line → L1Line) : Quiet s (s.l1Update line f) := mplate_quiet _ _

theorem writeLine_quiet (s : State) (x : Xlat) (line off n v rh : Nat) (engine : Bool) :
    Quiet s (s.writeLine x line off n v rh engine) := by
  have hd : ∀ t : State, Quiet t (if (x.typ == 1) = true then
      t.l2Merge (dieOfPlate s.plate.id) line x.region (lineSet 0 off n v) (maskOf off n) [s.writerTag engine]
      else t.homeWrite t.plate.id x.region (line * 128 + off) n v) := by
    intro t
    split
    · exact l2Merge_quiet _ _ _ _ _ _ _
    · exact homeWrite_quiet _ _ _ _ _ _
  unfold State.writeLine
  simp only []
  split
  · exact (touch_quiet s rh line).trans (l1Update_quiet _ _ _)
  · split
    · exact (l2Access_quiet _ _ _ _ _ _).trans (hd _)
    · split
      · exact (l1Fill_quiet _ _ _ _).trans (l1Update_quiet _ _ _)
      · exact (l1Fill_quiet _ _ _ _).trans (hd _)

theorem writeLines_quiet (x : Xlat) (v rh : Nat) (engine : Bool) (l : List (Nat × Nat × Nat × Nat)) (s : State) :
    Quiet s (s.writeLines x v rh engine l) := by
  induction l generalizing s with
  | nil => exact .refl s
  | cons a l ih => exact (writeLine_quiet _ _ _ _ _ _ _ _).trans (ih _)

/-- A write of a part in memory is quiet; a part in the window is the context's own (R117). -/
theorem writePiece_quiet (s : State) (p : Piece) (x : Xlat) (hx : p.tgt = .mem x) (v rh : Nat) (engine : Bool) :
    Quiet s (s.writePiece p v rh engine) := by
  unfold State.writePiece
  rw [hx]
  simp only []
  split
  · exact homeWrite_quiet _ _ _ _ _ _
  · split
    · exact (rawBytes_quiet _ _ _).trans (notePush_quiet _ _ _)
    · split
      · exact .of_eq rfl rfl
      · exact writeLines_quiet _ _ _ _ _ _

/-! ### Release and acquire -/

theorem wbLines_quiet (set : RelSet) (l : List L1Line) (s : State) : Quiet s (s.wbLines set l) := by
  induction l generalizing s with
  | nil => exact .refl s
  | cons a l ih =>
    unfold State.wbLines
    refine Quiet.trans ?_ (ih _)
    split
    · exact (writeBack_quiet _ _ _).trans (mplate_quiet _ _)
    · exact .refl s

theorem swmHome_quiet (d : Nat) (set : RelSet) (l : List L2Line) (s : State) : Quiet s (s.swmHome d set l) := by
  induction l generalizing s with
  | nil => exact .refl s
  | cons a l ih =>
    unfold State.swmHome
    refine Quiet.trans ?_ (ih _)
    split
    · exact (rawMask_quiet _ _ _ _).trans (mdie_quiet _ _ _)
    · exact .refl s

theorem releaseSet_quiet (s : State) (scope : Nat) (set : RelSet) : Quiet s (s.releaseSet scope set) := by
  unfold State.releaseSet
  simp only []
  split
  · exact .refl s
  · split
    · exact (wbLines_quiet _ _ _).trans (settle_quiet _ _ _)
    · exact ((wbLines_quiet _ _ _).trans (settle_quiet _ _ _)).trans (swmHome_quiet _ _ _ _)

/-- A release is quiet. -/
theorem release_quiet (s : State) (scope : Nat) : Quiet s (s.release scope) := releaseSet_quiet _ _ _

/-- An acquire keeps memory; of the context it changes the views alone. -/
theorem acquire_mem (s : State) (scope : Nat) : (s.acquire scope).mem = s.mem := by
  unfold State.acquire
  simp only []
  split <;> rfl

end Sys2Proof.Machine
end

