-- ==== Sys2Proof/Laws/Ends.lean ====
section
/-! SUPPORT. The other ways a word closes, said once: on a state that memory operations have changed, with its pushes owed,
after a wait, and into an exception. -/

-- The package is also checked as one text: one thread of elaboration keeps that within memory.
set_option Elab.async false

namespace Sys2Proof.Machine

/-! ### Effects on a state that memory operations have changed -/

/-- A register write in a state whose issuing strand has counted the word. -/
theorem finish_wroteX (m : State) (k : Ctl) (why : Slot) (d : Reg) (v : Word) (n q : Nat) (hn : 0 < m.now) :
    m.wroteX ((m.setX d v n).finish k false why q none) d v n := by
  have e1 : (m.setX d v n).ctx.cur = m.ctx.cur := by unfold State.setX; split <;> rfl
  have e3 : (m.setX d v n).ctx.strands = m.ctx.strands := by unfold State.setX; split <;> rfl
  have e4 : (m.setX d v n).ctx.p = m.ctx.p := by unfold State.setX; split <;> rfl
  have hv : (m.setX d v n).ctx.vp = m.ctx.vp := by unfold State.setX; split <;> rfl
  have hl : (m.setX d v n).ctx.lines = m.ctx.lines := by unfold State.setX; split <;> rfl
  have ha : m.aside (m.setX d v n) := by unfold State.setX; split <;> rfl
  have hk : m.ctx.kept (m.setX d v n).ctx := by unfold State.setX; split <;> exact ⟨rfl, rfl⟩
  have hcl := finish_closed (m.setX d v n) k false why q none
  refine ⟨ha.trans hcl.aside, hk.trans hcl.kept, Eq.trans hcl.p e4, ⟨hcl.vp.trans hv, hcl.lines.trans hl⟩, fun j => ?_,
    fun hd => ⟨?_, ?_⟩, fun r hr => ?_⟩
  · rw [hcl.b j, e3]
  · rw [hcl.x, setX_cells _ d v n hn, if_pos ⟨rfl, hd⟩]; rfl
  · refine finish_within _ _ _ _ (.x d.toNat) n 0 _ _ e1 ?_
    unfold State.setX
    rw [if_neg hd]
    rfl
  · rw [hcl.x, setX_cells _ d v n hn]
    rcases hr with hr | hr <;> simp [hr]

/-- The issuing strand's count, where an effect leaves the strands' clocks. -/
theorem now_of_strands {u e : State} (h1 : e.ctx.cur = u.ctx.cur) (h2 : e.ctx.strands = u.ctx.strands) : e.now = u.now := by
  simp only [State.now, State.strand, h1, h2]

/-- A word whose effect is a register write after memory was read. -/
theorem issue_wroteX (s m : State) (i : Instr) (k : Ctl) (allowed : Strand → Bool) (ct : Bool) (checks : State → Option Cause)
    (eff : State → Res) (d : Reg) (v : Word) (n : Nat) (h : s.ready i k allowed ct)
    (hc : checks s.bump = none) (he : eff (s.operands i k) = .done (m.setX d v n) n) (hs : Steady (s.operands i k) m)
    (hn : 0 < m.now) : m.wroteX (s.issue i k allowed ct checks eff) d v n := by
  have g := (hs.trans (Steady.setX m d v n))
  obtain ⟨hi, -⟩ := issue_done s i k allowed ct checks eff _ n h hc he g.cur g.lockstep (g.b .c)
  rw [hi]
  exact finish_wroteX m k .issue d v n n hn

/-- A write of a line of the register space after memory was read. -/
theorem issue_wroteV (s u : State) (i : Instr) (k : Ctl) (allowed : Strand → Bool) (ct : Bool) (checks : State → Option Cause)
    (eff : State → Res) (m : Nat) (w : VReg) (n : Nat) (h : s.ready i k allowed ct)
    (hc : checks s.bump = none) (he : eff (s.operands i k) = .done (u.setLine m w n) n) (hs : Steady (s.operands i k) u)
    (hn : 0 < u.now) : u.wroteV (s.issue i k allowed ct checks eff) m w n := by
  have g := (hs.trans (Steady.setLine u m w n))
  obtain ⟨hi, hcl⟩ := issue_done s i k allowed ct checks eff _ n h hc he g.cur g.lockstep (g.b .c)
  rw [hi]
  refine ⟨State.aside.trans (t := u.setLine m w n) rfl hcl.aside, Ctx.kept.trans (d := (u.setLine m w n).ctx) ⟨rfl, rfl⟩ hcl.kept,
    hcl.x.trans rfl, hcl.p, hcl.vp.trans rfl, fun j => hcl.b j, ?_, ?_, fun r hr => ?_⟩
  · rw [hcl.lines, setLine_cells _ m w n hn, if_pos rfl]; rfl
  · exact finish_within _ _ _ _ (.v m) n 0 _ _ rfl rfl
  · rw [hcl.lines, setLine_cells _ m w n hn, if_neg hr]

/-- A result that is noted is steady. -/
theorem Steady.mctx (s : State) (f : Ctx → Ctx) (h1 : (f s.ctx).cur = s.ctx.cur) (h2 : (f s.ctx).lockstep = s.ctx.lockstep)
    (h3 : (f s.ctx).strands = s.ctx.strands) (h4 : (f s.ctx).p = s.ctx.p) : Steady s (s.mctx f) :=
  ⟨h1, h2, fun j => by simp only [State.strand, State.mctx_ctx, h3], h4⟩

/-! ### Words whose pushes come later -/

/-- Nothing done is closing. -/
theorem Closed.refl (s : State) : Closed s s :=
  ⟨rfl, ⟨rfl, rfl⟩, rfl, rfl, rfl, rfl, fun _ => rfl⟩

/-- Making pushes outstanding is closing. -/
theorem oweTokens_closed (s : State) (k : Ctl) (marked : Bool) : Closed s (s.oweTokens k marked) := by
  cases marked
  · exact Closed.mctx s (fun c => c.owe c.cur k.qp k.qn) (s.ctx.kept_owe _ _ _) rfl rfl rfl rfl (fun _ => rfl)
  · exact Closed.refl s

theorem oweTokens_p (s : State) (k : Ctl) (marked : Bool) : (s.oweTokens k marked).ctx.p = s.ctx.p := by
  unfold State.oweTokens
  split <;> rfl

theorem oweTokens_flight (s : State) (k : Ctl) (marked : Bool) : (s.oweTokens k marked).ctx.flight = s.ctx.flight := by
  unfold State.oweTokens
  split <;> rfl

theorem moveOn_flight (s : State) (j : Option (Word × Nat)) (sy : Bool) : (s.moveOn j sy).ctx.flight = s.ctx.flight := by
  unfold State.moveOn
  split
  · simp only [State.advanceBundle, State.mctx_ctx, Ctx.mstrand]
  · simp only [State.advanceApart, State.mstrand, State.mctx_ctx, Ctx.mstrand]

/-- A word whose pushes come later closes its effect, and what is in flight is a cycle older. -/
theorem issue_later (s : State) (i : Instr) (k : Ctl) (allowed : Strand → Bool) (ct : Bool) (checks : State → Option Cause)
    (eff : State → Res) (e : State) (h : s.ready i k allowed ct) (hc : checks s.bump = none)
    (he : eff (s.operands i k) = .later e) (hs : Steady (s.operands i k) e) :
    e.closes (s.issue i k allowed ct checks eff) ∧
    (s.issue i k allowed ct checks eff).ctx.flight = (e.ctx.age e.ctx.cur).flight := by
  have hj : e.joinBad k = false := by
    have h5 := operands_joinBad s i k
    rw [h.2.2.2.2.2] at h5
    rw [← h5]
    simp only [State.joinBad, hs.cur, hs.lockstep, hs.b .c]
  rw [issue_ready s i k allowed ct checks eff h hc, he]
  simp only [State.close, hj, Bool.false_eq_true, if_false]
  have h0 : Closed e (((e.oweTokens k false).ageFor false).note e.ctx.cur .issue (.issued e.ctx.cur)) :=
    ((oweTokens_closed e k false).trans (ageFor_closed _ _)).trans (note_closed _ _ _ _)
  have hf : (((e.oweTokens k false).ageFor false).note e.ctx.cur .issue (.issued e.ctx.cur)).ctx.flight =
      (e.ctx.age e.ctx.cur).flight := by
    show ((e.oweTokens k false).ctx.age (e.oweTokens k false).ctx.cur).flight = _
    simp only [Ctx.age, oweTokens_flight]
    rfl
  split
  · exact ⟨h0.closes, hf⟩
  · exact ⟨(h0.trans (moveOn_closed _ _ _)).closes, (moveOn_flight _ _ _).trans hf⟩

/-- The last of what is in flight, once its word has closed. -/
theorem mem_age (c : Ctx) (k : Strand) (f : InFlight) (l : List InFlight) (hf : f.strand = k) (h : c.flight = l ++ [f]) :
    { f with left := f.left - 1 } ∈ (c.age k).flight := by
  simp only [Ctx.age, h, List.map_append, List.map_cons, List.map_nil, hf, if_true]
  exact List.mem_append_right _ (List.mem_singleton.mpr rfl)

/-! ### Words that have issued already (R194) -/

/-- A word that is attempted again runs its effect where it stands. -/
theorem issue_again (s : State) (i : Instr) (k : Ctl) (allowed : Strand → Bool) (ct : Bool) (checks : State → Option Cause)
    (eff : State → Res) (hm : (s.strand s.ctx.cur).mark = true) (h1 : s.bump.misplaced i k.sy allowed ct = false)
    (hc : checks s.bump = none) :
    s.issue i k allowed ct checks eff =
      s.bump.close (BitVec.ofNat 32 (encodeWord i)) k true (waitCause s.bump i) (eff s.bump) := by
  have h2' : (s.bump.strand s.bump.ctx.cur).mark = true := hm
  simp only [State.issue, h1, hc, h2', Bool.false_eq_true, if_false, if_true]

theorem begun_joinBad (s : State) (i : Instr) (k : Ctl) : (s.begun i k).joinBad k = s.joinBad k := by
  unfold State.begun
  split
  · rfl
  · exact operands_joinBad s i k

/-- A word that ends, at its issue or after a wait, closes its effect. -/
theorem issue_ends (s : State) (i : Instr) (k : Ctl) (allowed : Strand → Bool) (ct : Bool) (checks : State → Option Cause)
    (eff : State → Res) (e : State) (n : Nat) (h : s.takes i k allowed ct) (hc : checks s.bump = none)
    (he : eff (s.begun i k) = .done e n) (hs : Steady (s.begun i k) e) : e.closes (s.issue i k allowed ct checks eff) := by
  have hj : e.joinBad k = false := by
    have h5 := begun_joinBad s i k
    have h6 : s.joinBad k = false := by exact h.elim (fun h => h.2.2.2.2.2) (fun h => h.2.2)
    rw [h6] at h5
    rw [← h5]
    simp only [State.joinBad, hs.cur, hs.lockstep, hs.b .c]
  rcases h with h | ⟨hm, h1, -⟩
  · have hb : s.begun i k = s.operands i k := by simp only [State.begun, h.2.1, Bool.false_eq_true, if_false]
    rw [hb] at he
    rw [issue_ready s i k allowed ct checks eff h hc, he]
    simp only [State.close, hj, Bool.false_eq_true, if_false]
    exact (finish_closed _ _ _ _ _ _).closes
  · have hb : s.begun i k = s.bump := by simp only [State.begun, hm, if_true]
    rw [hb] at he
    rw [issue_again s i k allowed ct checks eff hm h1 hc, he]
    simp only [State.close, hj, Bool.false_eq_true, if_false]
    exact (finish_closed _ _ _ _ _ _).closes

/-- A word that waits leaves its effect behind and stays at its address. -/
theorem issue_waits (s : State) (i : Instr) (k : Ctl) (allowed : Strand → Bool) (ct : Bool) (checks : State → Option Cause)
    (eff : State → Res) (e : State) (c : Slot) (hold : Bool) (h : s.takes i k allowed ct) (hc : checks s.bump = none)
    (he : eff (s.begun i k) = .wait e c hold) (h1 : e.ctx.cur = s.ctx.cur)
    (h2 : (e.strand s.ctx.cur).pc = (s.strand s.ctx.cur).pc)
    (h3 : (e.strand s.ctx.cur).mark = (s.strand s.ctx.cur).mark) :
    e.closes (s.issue i k allowed ct checks eff) ∧
      ((s.issue i k allowed ct checks eff).strand s.ctx.cur).mark = true ∧
      ((s.issue i k allowed ct checks eff).strand s.ctx.cur).pc = (s.strand s.ctx.cur).pc ∧
      (s.issue i k allowed ct checks eff).event = .waiting s.ctx.cur c hold := by
  have key : ∀ (s0 : State) (marked : Bool) (why : Slot), (marked = true → (e.strand s.ctx.cur).mark = true) →
      s.issue i k allowed ct checks eff = s0.close (BitVec.ofNat 32 (encodeWord i)) k marked why (.wait e c hold) →
      e.closes (s.issue i k allowed ct checks eff) ∧
      ((s.issue i k allowed ct checks eff).strand s.ctx.cur).mark = true ∧
      ((s.issue i k allowed ct checks eff).strand s.ctx.cur).pc = (s.strand s.ctx.cur).pc ∧
      (s.issue i k allowed ct checks eff).event = .waiting s.ctx.cur c hold := by
    intro s0 marked why hm hq
    rw [hq]
    simp only [State.close]
    have g : ∀ (t : State) (j : Strand) (now : Nat) (esn : BitVec 32),
        Closed t (t.mstrand j (fun t => if marked then t else { t with mark := true, since := some now, upto := esn })) := by
      intro t j now esn
      refine Closed.mstrand t j _ (fun t => ?_)
      split <;> rfl
    refine ⟨((((oweTokens_closed e k marked).trans (ageFor_closed _ _)).trans (g _ _ _ _)).trans (note_closed _ _ _ _)).closes, ?_, ?_, ?_⟩
    · cases marked
      · simp [State.strand, State.mstrand, Ctx.mstrand, h1, State.oweTokens, State.ageFor, Ctx.owe, Ctx.age, Quad.get_set_same]
      · have := hm rfl
        simp only [State.strand] at this
        simp [State.strand, State.mstrand, Ctx.mstrand, h1, State.oweTokens, State.ageFor, Quad.get_set_same, this]
    · simp only [State.strand] at h2
      cases marked <;>
        simp [State.strand, State.mstrand, Ctx.mstrand, h1, State.oweTokens, State.ageFor, Ctx.owe, Ctx.age, Quad.get_set_same, h2]
    · simp [h1]
  rcases h with h | ⟨hm, h1', -⟩
  · have hb : s.begun i k = s.operands i k := by simp only [State.begun, h.2.1, Bool.false_eq_true, if_false]
    rw [hb] at he
    exact key _ false _ (fun h => nomatch h) (by rw [issue_ready s i k allowed ct checks eff h hc, he])
  · have hb : s.begun i k = s.bump := by simp only [State.begun, hm, if_true]
    rw [hb] at he
    exact key _ true _ (fun _ => h3.trans hm) (by rw [issue_again s i k allowed ct checks eff hm h1' hc, he])

end Sys2Proof.Machine
end

