-- ==== Sys2Proof/Laws/PerInstr.lean ====
section
/-! SUPPORT. Statements made instruction by instruction. `WordFits`: the encoding of an instruction fills at most the 32 bits
of its word (R49). -/

-- The package is also checked as one text: one thread of elaboration keeps that within memory.
set_option Elab.async false

namespace Sys2Proof.Laws

/-- The control part of a word stays below bit 32 with room for the fields under it. -/
theorem op_le (m : Nat) (k : Ctl) (h : m ≤ 46) : op m k ≤ 46 * 2 ^ 26 + 31 * 2 ^ 21 := by
  have h1 := k.tk.isLt
  have h2 := Bool.toNat_lt k.sy
  unfold op
  omega

theorem layDab_lt (mj : Nat) (k' : Ctl) (low : Nat) (d : BitVec 6) (a : BitVec 6) (b : BitVec 6) (hm : mj ≤ 46) (hl : low ≤ 256) :
    layDab mj k' low d a b < 2 ^ 32 := by
  have h0 := op_le mj k' hm
  have h1 := d.isLt
  have h2 := a.isLt
  have h3 := b.isLt
  unfold layDab
  omega

theorem layDa_lt (mj : Nat) (k' : Ctl) (low : Nat) (d : BitVec 6) (a : BitVec 6) (hm : mj ≤ 46) (hl : low ≤ 256) :
    layDa mj k' low d a < 2 ^ 32 := by
  have h0 := op_le mj k' hm
  have h1 := d.isLt
  have h2 := a.isLt
  unfold layDa
  omega

theorem layDai_lt (mj : Nat) (k' : Ctl) (low : Nat) (d : BitVec 6) (a : BitVec 6) (i : BitVec 9) (hm : mj ≤ 46) (hl : low ≤ 256) :
    layDai mj k' low d a i < 2 ^ 32 := by
  have h0 := op_le mj k' hm
  have h1 := d.isLt
  have h2 := a.isLt
  have h3 := i.isLt
  unfold layDai
  omega

theorem layDan_lt (mj : Nat) (k' : Ctl) (low : Nat) (d : BitVec 6) (a : BitVec 6) (n : BitVec 6) (hm : mj ≤ 46) (hl : low ≤ 256) :
    layDan mj k' low d a n < 2 ^ 32 := by
  have h0 := op_le mj k' hm
  have h1 := d.isLt
  have h2 := a.isLt
  have h3 := n.isLt
  unfold layDan
  omega

theorem layDi_lt (mj : Nat) (k' : Ctl) (low : Nat) (d : BitVec 6) (i : BitVec 15) (hm : mj ≤ 46) (hl : low ≤ 256) :
    layDi mj k' low d i < 2 ^ 32 := by
  have h0 := op_le mj k' hm
  have h1 := d.isLt
  have h2 := i.isLt
  unfold layDi
  omega

theorem layDp_lt (mj : Nat) (k' : Ctl) (low : Nat) (d : BitVec 6) (p : BitVec 4) (hm : mj ≤ 46) (hl : low ≤ 256) :
    layDp mj k' low d p < 2 ^ 32 := by
  have h0 := op_le mj k' hm
  have h1 := d.isLt
  have h2 := p.isLt
  unfold layDp
  omega

theorem layPa_lt (mj : Nat) (k' : Ctl) (low : Nat) (p : BitVec 4) (a : BitVec 6) (hm : mj ≤ 46) (hl : low ≤ 256) :
    layPa mj k' low p a < 2 ^ 32 := by
  have h0 := op_le mj k' hm
  have h1 := p.isLt
  have h2 := a.isLt
  unfold layPa
  omega

theorem layDabp_lt (mj : Nat) (k' : Ctl) (low : Nat) (d : BitVec 6) (a : BitVec 6) (b : BitVec 6) (p : BitVec 3) (hm : mj ≤ 46) (hl : low ≤ 256) :
    layDabp mj k' low d a b p < 2 ^ 32 := by
  have h0 := op_le mj k' hm
  have h1 := d.isLt
  have h2 := a.isLt
  have h3 := b.isLt
  have h4 := p.isLt
  unfold layDabp
  omega

theorem layPabcm_lt (mj : Nat) (k' : Ctl) (low : Nat) (p : BitVec 4) (a : BitVec 6) (b : BitVec 6) (c : BitVec 3) (m : BitVec 2) (hm : mj ≤ 46) (hl : low ≤ 256) :
    layPabcm mj k' low p a b c m < 2 ^ 32 := by
  have h0 := op_le mj k' hm
  have h1 := p.isLt
  have h2 := a.isLt
  have h3 := b.isLt
  have h4 := c.isLt
  have h5 := m.isLt
  unfold layPabcm
  omega

theorem layPqr_lt (mj : Nat) (k' : Ctl) (low : Nat) (p : BitVec 4) (q : BitVec 4) (r : BitVec 4) (hm : mj ≤ 46) (hl : low ≤ 256) :
    layPqr mj k' low p q r < 2 ^ 32 := by
  have h0 := op_le mj k' hm
  have h1 := p.isLt
  have h2 := q.isLt
  have h3 := r.isLt
  unfold layPqr
  omega

theorem layNo_lt (mj : Nat) (k' : Ctl) (low : Nat) (n : BitVec 2) (o : BitVec 19) (hm : mj ≤ 46) (hl : low ≤ 256) :
    layNo mj k' low n o < 2 ^ 32 := by
  have h0 := op_le mj k' hm
  have h1 := n.isLt
  have h2 := o.isLt
  unfold layNo
  omega

theorem layNa_lt (mj : Nat) (k' : Ctl) (low : Nat) (n : BitVec 2) (a : BitVec 6) (hm : mj ≤ 46) (hl : low ≤ 256) :
    layNa mj k' low n a < 2 ^ 32 := by
  have h0 := op_le mj k' hm
  have h1 := n.isLt
  have h2 := a.isLt
  unfold layNa
  omega

theorem layAb_lt (mj : Nat) (k' : Ctl) (low : Nat) (a : BitVec 6) (b : BitVec 6) (hm : mj ≤ 46) (hl : low ≤ 256) :
    layAb mj k' low a b < 2 ^ 32 := by
  have h0 := op_le mj k' hm
  have h1 := a.isLt
  have h2 := b.isLt
  unfold layAb
  omega

theorem layDn_lt (mj : Nat) (k' : Ctl) (low : Nat) (d : BitVec 6) (n : BitVec 2) (hm : mj ≤ 46) (hl : low ≤ 256) :
    layDn mj k' low d n < 2 ^ 32 := by
  have h0 := op_le mj k' hm
  have h1 := d.isLt
  have h2 := n.isLt
  unfold layDn
  omega

theorem layNpgel_lt (mj : Nat) (k' : Ctl) (low : Nat) (n : BitVec 2) (p : BitVec 4) (g : Bool) (e : BitVec 2) (l : Bool) (hm : mj ≤ 46) (hl : low ≤ 256) :
    layNpgel mj k' low n p g e l < 2 ^ 32 := by
  have h0 := op_le mj k' hm
  have h1 := n.isLt
  have h2 := p.isLt
  have h3 := Bool.toNat_lt g
  have h4 := e.isLt
  have h5 := Bool.toNat_lt l
  unfold layNpgel
  omega

theorem layAs_lt (mj : Nat) (k' : Ctl) (low : Nat) (a : BitVec 6) (s : BitVec 3) (hm : mj ≤ 46) (hl : low ≤ 256) :
    layAs mj k' low a s < 2 ^ 32 := by
  have h0 := op_le mj k' hm
  have h1 := a.isLt
  have h2 := s.isLt
  unfold layAs
  omega

theorem layN_lt (mj : Nat) (k' : Ctl) (low : Nat) (n : BitVec 2) (hm : mj ≤ 46) (hl : low ≤ 256) :
    layN mj k' low n < 2 ^ 32 := by
  have h0 := op_le mj k' hm
  have h1 := n.isLt
  unfold layN
  omega

theorem layD_lt (mj : Nat) (k' : Ctl) (low : Nat) (d : BitVec 6) (hm : mj ≤ 46) (hl : low ≤ 256) :
    layD mj k' low d < 2 ^ 32 := by
  have h0 := op_le mj k' hm
  have h1 := d.isLt
  unfold layD
  omega

theorem layA_lt (mj : Nat) (k' : Ctl) (low : Nat) (a : BitVec 6) (hm : mj ≤ 46) (hl : low ≤ 256) :
    layA mj k' low a < 2 ^ 32 := by
  have h0 := op_le mj k' hm
  have h1 := a.isLt
  unfold layA
  omega

theorem layPv_lt (mj : Nat) (k' : Ctl) (low : Nat) (p : BitVec 4) (v : BitVec 3) (hm : mj ≤ 46) (hl : low ≤ 256) :
    layPv mj k' low p v < 2 ^ 32 := by
  have h0 := op_le mj k' hm
  have h1 := p.isLt
  have h2 := v.isLt
  unfold layPv
  omega

theorem layDashz_lt (mj : Nat) (k' : Ctl) (low : Nat) (d : BitVec 6) (a : BitVec 6) (s : BitVec 4) (h : BitVec 2) (z : BitVec 3) (hm : mj ≤ 46) (hl : low ≤ 256) :
    layDashz mj k' low d a s h z < 2 ^ 32 := by
  have h0 := op_le mj k' hm
  have h1 := d.isLt
  have h2 := a.isLt
  have h3 := s.isLt
  have h4 := h.isLt
  have h5 := z.isLt
  unfold layDashz
  omega

theorem layCahz_lt (mj : Nat) (k' : Ctl) (low : Nat) (c : BitVec 6) (a : BitVec 6) (h : BitVec 2) (z : BitVec 3) (hm : mj ≤ 46) (hl : low ≤ 256) :
    layCahz mj k' low c a h z < 2 ^ 32 := by
  have h0 := op_le mj k' hm
  have h1 := c.isLt
  have h2 := a.isLt
  have h3 := h.isLt
  have h4 := z.isLt
  unfold layCahz
  omega

theorem layDac_lt (mj : Nat) (k' : Ctl) (low : Nat) (d : BitVec 6) (a : BitVec 6) (c : BitVec 2) (hm : mj ≤ 46) (hl : low ≤ 256) :
    layDac mj k' low d a c < 2 ^ 32 := by
  have h0 := op_le mj k' hm
  have h1 := d.isLt
  have h2 := a.isLt
  have h3 := c.isLt
  unfold layDac
  omega

theorem layCab_lt (mj : Nat) (k' : Ctl) (low : Nat) (c : BitVec 2) (a : BitVec 6) (b : BitVec 6) (hm : mj ≤ 46) (hl : low ≤ 256) :
    layCab mj k' low c a b < 2 ^ 32 := by
  have h0 := op_le mj k' hm
  have h1 := c.isLt
  have h2 := a.isLt
  have h3 := b.isLt
  unfold layCab
  omega

theorem layMc_lt (mj : Nat) (k' : Ctl) (low : Nat) (m : BitVec 4) (c : BitVec 2) (hm : mj ≤ 46) (hl : low ≤ 256) :
    layMc mj k' low m c < 2 ^ 32 := by
  have h0 := op_le mj k' hm
  have h1 := m.isLt
  have h2 := c.isLt
  unfold layMc
  omega

theorem layNab_lt (mj : Nat) (k' : Ctl) (low : Nat) (n : BitVec 3) (a : BitVec 6) (b : BitVec 6) (hm : mj ≤ 46) (hl : low ≤ 256) :
    layNab mj k' low n a b < 2 ^ 32 := by
  have h0 := op_le mj k' hm
  have h1 := n.isLt
  have h2 := a.isLt
  have h3 := b.isLt
  unfold layNab
  omega

theorem layN2_lt (mj : Nat) (k' : Ctl) (low : Nat) (n : BitVec 3) (hm : mj ≤ 46) (hl : low ≤ 256) :
    layN2 mj k' low n < 2 ^ 32 := by
  have h0 := op_le mj k' hm
  have h1 := n.isLt
  unfold layN2
  omega

theorem layDatsu_lt (mj : Nat) (k' : Ctl) (low : Nat) (d : BitVec 6) (a : BitVec 6) (t : BitVec 4) (s : BitVec 4) (u : Bool) (hm : mj ≤ 46) (hl : low ≤ 256) :
    layDatsu mj k' low d a t s u < 2 ^ 32 := by
  have h0 := op_le mj k' hm
  have h1 := d.isLt
  have h2 := a.isLt
  have h3 := t.isLt
  have h4 := s.isLt
  have h5 := Bool.toNat_lt u
  unfold layDatsu
  omega

theorem layPabc_lt (mj : Nat) (k' : Ctl) (low : Nat) (p : BitVec 3) (a : BitVec 6) (b : BitVec 6) (c : BitVec 3) (hm : mj ≤ 46) (hl : low ≤ 256) :
    layPabc mj k' low p a b c < 2 ^ 32 := by
  have h0 := op_le mj k' hm
  have h1 := p.isLt
  have h2 := a.isLt
  have h3 := b.isLt
  have h4 := c.isLt
  unfold layPabc
  omega

theorem layDah_lt (mj : Nat) (k' : Ctl) (low : Nat) (d : BitVec 6) (a : BitVec 6) (h : BitVec 5) (hm : mj ≤ 46) (hl : low ≤ 256) :
    layDah mj k' low d a h < 2 ^ 32 := by
  have h0 := op_le mj k' hm
  have h1 := d.isLt
  have h2 := a.isLt
  have h3 := h.isLt
  unfold layDah
  omega

theorem layAh_lt (mj : Nat) (k' : Ctl) (low : Nat) (a : BitVec 6) (h : BitVec 5) (hm : mj ≤ 46) (hl : low ≤ 256) :
    layAh mj k' low a h < 2 ^ 32 := by
  have h0 := op_le mj k' hm
  have h1 := a.isLt
  have h2 := h.isLt
  unfold layAh
  omega

theorem layH_lt (mj : Nat) (k' : Ctl) (low : Nat) (h : BitVec 5) (hm : mj ≤ 46) (hl : low ≤ 256) :
    layH mj k' low h < 2 ^ 32 := by
  have h0 := op_le mj k' hm
  have h1 := h.isLt
  unfold layH
  omega

theorem laySaf_lt (mj : Nat) (k' : Ctl) (low : Nat) (s : BitVec 6) (a : BitVec 6) (f : BitVec 4) (hm : mj ≤ 46) (hl : low ≤ 256) :
    laySaf mj k' low s a f < 2 ^ 32 := by
  have h0 := op_le mj k' hm
  have h1 := s.isLt
  have h2 := a.isLt
  have h3 := f.isLt
  unfold laySaf
  omega

theorem layG_lt (mj : Nat) (k' : Ctl) (low : Nat) (g : BitVec 4) (hm : mj ≤ 46) (hl : low ≤ 256) :
    layG mj k' low g < 2 ^ 32 := by
  have h0 := op_le mj k' hm
  have h1 := g.isLt
  unfold layG
  omega

theorem layNone_lt (mj : Nat) (k' : Ctl) (low : Nat) (hm : mj ≤ 46) (hl : low ≤ 256) :
    layNone mj k' low < 2 ^ 32 := by
  have h0 := op_le mj k' hm
  unfold layNone
  omega

theorem layDc_lt (mj : Nat) (k' : Ctl) (low : Nat) (d : BitVec 6) (c : BitVec 4) (hm : mj ≤ 46) (hl : low ≤ 256) :
    layDc mj k' low d c < 2 ^ 32 := by
  have h0 := op_le mj k' hm
  have h1 := d.isLt
  have h2 := c.isLt
  unfold layDc
  omega

theorem layDc2_lt (mj : Nat) (k' : Ctl) (low : Nat) (d : BitVec 6) (c : BitVec 9) (hm : mj ≤ 46) (hl : low ≤ 256) :
    layDc2 mj k' low d c < 2 ^ 32 := by
  have h0 := op_le mj k' hm
  have h1 := d.isLt
  have h2 := c.isLt
  unfold layDc2
  omega

theorem layAc_lt (mj : Nat) (k' : Ctl) (low : Nat) (a : BitVec 6) (c : BitVec 9) (hm : mj ≤ 46) (hl : low ≤ 256) :
    layAc mj k' low a c < 2 ^ 32 := by
  have h0 := op_le mj k' hm
  have h1 := a.isLt
  have h2 := c.isLt
  unfold layAc
  omega

theorem layCa_lt (mj : Nat) (k' : Ctl) (low : Nat) (c : BitVec 9) (a : BitVec 6) (hm : mj ≤ 46) (hl : low ≤ 256) :
    layCa mj k' low c a < 2 ^ 32 := by
  have h0 := op_le mj k' hm
  have h1 := c.isLt
  have h2 := a.isLt
  unfold layCa
  omega

theorem layI_lt (mj : Nat) (k' : Ctl) (low : Nat) (i : BitVec 15) (hm : mj ≤ 46) (hl : low ≤ 256) :
    layI mj k' low i < 2 ^ 32 := by
  have h0 := op_le mj k' hm
  have h1 := i.isLt
  unfold layI
  omega

namespace WordFits

/-- The encoding fits in 32 bits. -/
def Statement (i : Instr) : Prop := encodeWord i < 2 ^ 32

theorem add (k : Ctl) (d a b : Reg) : Statement (.add k d a b) := layDab_lt 0x00 k 0 d a b (Nat.le_of_ble_eq_true rfl) (Nat.le_of_ble_eq_true rfl)
theorem sub (k : Ctl) (d a b : Reg) : Statement (.sub k d a b) := layDab_lt 0x00 k 1 d a b (Nat.le_of_ble_eq_true rfl) (Nat.le_of_ble_eq_true rfl)
theorem and (k : Ctl) (d a b : Reg) : Statement (.and k d a b) := layDab_lt 0x00 k 2 d a b (Nat.le_of_ble_eq_true rfl) (Nat.le_of_ble_eq_true rfl)
theorem or (k : Ctl) (d a b : Reg) : Statement (.or k d a b) := layDab_lt 0x00 k 3 d a b (Nat.le_of_ble_eq_true rfl) (Nat.le_of_ble_eq_true rfl)
theorem xor (k : Ctl) (d a b : Reg) : Statement (.xor k d a b) := layDab_lt 0x00 k 4 d a b (Nat.le_of_ble_eq_true rfl) (Nat.le_of_ble_eq_true rfl)
theorem shl (k : Ctl) (d a b : Reg) : Statement (.shl k d a b) := layDab_lt 0x00 k 5 d a b (Nat.le_of_ble_eq_true rfl) (Nat.le_of_ble_eq_true rfl)
theorem shr (k : Ctl) (d a b : Reg) : Statement (.shr k d a b) := layDab_lt 0x00 k 6 d a b (Nat.le_of_ble_eq_true rfl) (Nat.le_of_ble_eq_true rfl)
theorem sar (k : Ctl) (d a b : Reg) : Statement (.sar k d a b) := layDab_lt 0x00 k 7 d a b (Nat.le_of_ble_eq_true rfl) (Nat.le_of_ble_eq_true rfl)
theorem mul (k : Ctl) (d a b : Reg) : Statement (.mul k d a b) := layDab_lt 0x01 k 0 d a b (Nat.le_of_ble_eq_true rfl) (Nat.le_of_ble_eq_true rfl)
theorem mulh (k : Ctl) (d a b : Reg) : Statement (.mulh k d a b) := layDab_lt 0x01 k 1 d a b (Nat.le_of_ble_eq_true rfl) (Nat.le_of_ble_eq_true rfl)
theorem mulhu (k : Ctl) (d a b : Reg) : Statement (.mulhu k d a b) := layDab_lt 0x01 k 2 d a b (Nat.le_of_ble_eq_true rfl) (Nat.le_of_ble_eq_true rfl)
theorem min (k : Ctl) (d a b : Reg) : Statement (.min k d a b) := layDab_lt 0x01 k 3 d a b (Nat.le_of_ble_eq_true rfl) (Nat.le_of_ble_eq_true rfl)
theorem max (k : Ctl) (d a b : Reg) : Statement (.max k d a b) := layDab_lt 0x01 k 4 d a b (Nat.le_of_ble_eq_true rfl) (Nat.le_of_ble_eq_true rfl)
theorem minu (k : Ctl) (d a b : Reg) : Statement (.minu k d a b) := layDab_lt 0x01 k 5 d a b (Nat.le_of_ble_eq_true rfl) (Nat.le_of_ble_eq_true rfl)
theorem maxu (k : Ctl) (d a b : Reg) : Statement (.maxu k d a b) := layDab_lt 0x01 k 6 d a b (Nat.le_of_ble_eq_true rfl) (Nat.le_of_ble_eq_true rfl)
theorem andn (k : Ctl) (d a b : Reg) : Statement (.andn k d a b) := layDab_lt 0x01 k 7 d a b (Nat.le_of_ble_eq_true rfl) (Nat.le_of_ble_eq_true rfl)
theorem div (k : Ctl) (d a b : Reg) : Statement (.div k d a b) := layDab_lt 0x02 k 0 d a b (Nat.le_of_ble_eq_true rfl) (Nat.le_of_ble_eq_true rfl)
theorem divu (k : Ctl) (d a b : Reg) : Statement (.divu k d a b) := layDab_lt 0x02 k 1 d a b (Nat.le_of_ble_eq_true rfl) (Nat.le_of_ble_eq_true rfl)
theorem rem (k : Ctl) (d a b : Reg) : Statement (.rem k d a b) := layDab_lt 0x02 k 2 d a b (Nat.le_of_ble_eq_true rfl) (Nat.le_of_ble_eq_true rfl)
theorem remu (k : Ctl) (d a b : Reg) : Statement (.remu k d a b) := layDab_lt 0x02 k 3 d a b (Nat.le_of_ble_eq_true rfl) (Nat.le_of_ble_eq_true rfl)
theorem slt (k : Ctl) (d a b : Reg) : Statement (.slt k d a b) := layDab_lt 0x02 k 4 d a b (Nat.le_of_ble_eq_true rfl) (Nat.le_of_ble_eq_true rfl)
theorem sltu (k : Ctl) (d a b : Reg) : Statement (.sltu k d a b) := layDab_lt 0x02 k 5 d a b (Nat.le_of_ble_eq_true rfl) (Nat.le_of_ble_eq_true rfl)
theorem orn (k : Ctl) (d a b : Reg) : Statement (.orn k d a b) := layDab_lt 0x02 k 6 d a b (Nat.le_of_ble_eq_true rfl) (Nat.le_of_ble_eq_true rfl)
theorem clz (k : Ctl) (d a : Reg) : Statement (.clz k d a) := layDa_lt 0x03 k 0 d a (Nat.le_of_ble_eq_true rfl) (Nat.le_of_ble_eq_true rfl)
theorem ctz (k : Ctl) (d a : Reg) : Statement (.ctz k d a) := layDa_lt 0x03 k 1 d a (Nat.le_of_ble_eq_true rfl) (Nat.le_of_ble_eq_true rfl)
theorem popc (k : Ctl) (d a : Reg) : Statement (.popc k d a) := layDa_lt 0x03 k 2 d a (Nat.le_of_ble_eq_true rfl) (Nat.le_of_ble_eq_true rfl)
theorem brev (k : Ctl) (d a : Reg) : Statement (.brev k d a) := layDa_lt 0x03 k 3 d a (Nat.le_of_ble_eq_true rfl) (Nat.le_of_ble_eq_true rfl)
theorem abs (k : Ctl) (d a : Reg) : Statement (.abs k d a) := layDa_lt 0x03 k 4 d a (Nat.le_of_ble_eq_true rfl) (Nat.le_of_ble_eq_true rfl)
theorem sxb (k : Ctl) (d a : Reg) : Statement (.sxb k d a) := layDa_lt 0x03 k 5 d a (Nat.le_of_ble_eq_true rfl) (Nat.le_of_ble_eq_true rfl)
theorem sxh (k : Ctl) (d a : Reg) : Statement (.sxh k d a) := layDa_lt 0x03 k 6 d a (Nat.le_of_ble_eq_true rfl) (Nat.le_of_ble_eq_true rfl)
theorem sxw (k : Ctl) (d a : Reg) : Statement (.sxw k d a) := layDa_lt 0x03 k 7 d a (Nat.le_of_ble_eq_true rfl) (Nat.le_of_ble_eq_true rfl)
theorem addi (k : Ctl) (d a : Reg) (i : BitVec 9) : Statement (.addi k d a i) := layDai_lt 0x04 k 0 d a i (Nat.le_of_ble_eq_true rfl) (Nat.le_of_ble_eq_true rfl)
theorem andi (k : Ctl) (d a : Reg) (i : BitVec 9) : Statement (.andi k d a i) := layDai_lt 0x05 k 0 d a i (Nat.le_of_ble_eq_true rfl) (Nat.le_of_ble_eq_true rfl)
theorem ori (k : Ctl) (d a : Reg) (i : BitVec 9) : Statement (.ori k d a i) := layDai_lt 0x06 k 0 d a i (Nat.le_of_ble_eq_true rfl) (Nat.le_of_ble_eq_true rfl)
theorem xori (k : Ctl) (d a : Reg) (i : BitVec 9) : Statement (.xori k d a i) := layDai_lt 0x07 k 0 d a i (Nat.le_of_ble_eq_true rfl) (Nat.le_of_ble_eq_true rfl)
theorem shli (k : Ctl) (d a : Reg) (n : BitVec 6) : Statement (.shli k d a n) := layDan_lt 0x08 k 0 d a n (Nat.le_of_ble_eq_true rfl) (Nat.le_of_ble_eq_true rfl)
theorem shri (k : Ctl) (d a : Reg) (n : BitVec 6) : Statement (.shri k d a n) := layDan_lt 0x08 k 128 d a n (Nat.le_of_ble_eq_true rfl) (Nat.le_of_ble_eq_true rfl)
theorem sari (k : Ctl) (d a : Reg) (n : BitVec 6) : Statement (.sari k d a n) := layDan_lt 0x08 k 256 d a n (Nat.le_of_ble_eq_true rfl) (Nat.le_of_ble_eq_true rfl)
theorem slti (k : Ctl) (d a : Reg) (i : BitVec 9) : Statement (.slti k d a i) := layDai_lt 0x09 k 0 d a i (Nat.le_of_ble_eq_true rfl) (Nat.le_of_ble_eq_true rfl)
theorem sltiu (k : Ctl) (d a : Reg) (i : BitVec 9) : Statement (.sltiu k d a i) := layDai_lt 0x0A k 0 d a i (Nat.le_of_ble_eq_true rfl) (Nat.le_of_ble_eq_true rfl)
theorem li (k : Ctl) (d : Reg) (i : BitVec 15) : Statement (.li k d i) := layDi_lt 0x0B k 0 d i (Nat.le_of_ble_eq_true rfl) (Nat.le_of_ble_eq_true rfl)
theorem lsi (k : Ctl) (d : Reg) (i : BitVec 15) : Statement (.lsi k d i) := layDi_lt 0x0C k 0 d i (Nat.le_of_ble_eq_true rfl) (Nat.le_of_ble_eq_true rfl)
theorem adds1 (k : Ctl) (d a b : Reg) : Statement (.adds1 k d a b) := layDab_lt 0x0D k 0 d a b (Nat.le_of_ble_eq_true rfl) (Nat.le_of_ble_eq_true rfl)
theorem adds2 (k : Ctl) (d a b : Reg) : Statement (.adds2 k d a b) := layDab_lt 0x0D k 1 d a b (Nat.le_of_ble_eq_true rfl) (Nat.le_of_ble_eq_true rfl)
theorem adds3 (k : Ctl) (d a b : Reg) : Statement (.adds3 k d a b) := layDab_lt 0x0D k 2 d a b (Nat.le_of_ble_eq_true rfl) (Nat.le_of_ble_eq_true rfl)
theorem adds4 (k : Ctl) (d a b : Reg) : Statement (.adds4 k d a b) := layDab_lt 0x0D k 3 d a b (Nat.le_of_ble_eq_true rfl) (Nat.le_of_ble_eq_true rfl)
theorem bfx (k : Ctl) (d a b : Reg) : Statement (.bfx k d a b) := layDab_lt 0x0D k 4 d a b (Nat.le_of_ble_eq_true rfl) (Nat.le_of_ble_eq_true rfl)
theorem bfi (k : Ctl) (d a b : Reg) : Statement (.bfi k d a b) := layDab_lt 0x0D k 5 d a b (Nat.le_of_ble_eq_true rfl) (Nat.le_of_ble_eq_true rfl)
theorem ptox (k : Ctl) (d : Reg) (p : BitVec 4) : Statement (.ptox k d p) := layDp_lt 0x0D k 6 d p (Nat.le_of_ble_eq_true rfl) (Nat.le_of_ble_eq_true rfl)
theorem xtop (k : Ctl) (p : BitVec 4) (a : Reg) : Statement (.xtop k p a) := layPa_lt 0x0D k 7 p a (Nat.le_of_ble_eq_true rfl) (Nat.le_of_ble_eq_true rfl)
theorem sel (k : Ctl) (d a b : Reg) (p : BitVec 3) : Statement (.sel k d a b p) := layDabp_lt 0x0E k 0 d a b p (Nat.le_of_ble_eq_true rfl) (Nat.le_of_ble_eq_true rfl)
theorem cmp (k : Ctl) (p : BitVec 4) (a b : Reg) (c : BitVec 3) (m : BitVec 2) : Statement (.cmp k p a b c m) := layPabcm_lt 0x0F k 0 p a b c m (Nat.le_of_ble_eq_true rfl) (Nat.le_of_ble_eq_true rfl)
theorem cmpi (k : Ctl) (p : BitVec 4) (a : Reg) (i : BitVec 6) (c : BitVec 3) (m : BitVec 2) : Statement (.cmpi k p a i c m) := layPabcm_lt 0x10 k 0 p a i c m (Nat.le_of_ble_eq_true rfl) (Nat.le_of_ble_eq_true rfl)
theorem pand (k : Ctl) (p q r : BitVec 4) : Statement (.pand k p q r) := layPqr_lt 0x11 k 0 p q r (Nat.le_of_ble_eq_true rfl) (Nat.le_of_ble_eq_true rfl)
theorem por (k : Ctl) (p q r : BitVec 4) : Statement (.por k p q r) := layPqr_lt 0x11 k 1 p q r (Nat.le_of_ble_eq_true rfl) (Nat.le_of_ble_eq_true rfl)
theorem pxor (k : Ctl) (p q r : BitVec 4) : Statement (.pxor k p q r) := layPqr_lt 0x11 k 2 p q r (Nat.le_of_ble_eq_true rfl) (Nat.le_of_ble_eq_true rfl)
theorem pandn (k : Ctl) (p q r : BitVec 4) : Statement (.pandn k p q r) := layPqr_lt 0x11 k 3 p q r (Nat.le_of_ble_eq_true rfl) (Nat.le_of_ble_eq_true rfl)
theorem pnot (k : Ctl) (p q r : BitVec 4) : Statement (.pnot k p q r) := layPqr_lt 0x11 k 4 p q r (Nat.le_of_ble_eq_true rfl) (Nat.le_of_ble_eq_true rfl)
theorem pmov (k : Ctl) (p q r : BitVec 4) : Statement (.pmov k p q r) := layPqr_lt 0x11 k 5 p q r (Nat.le_of_ble_eq_true rfl) (Nat.le_of_ble_eq_true rfl)
theorem pset (k : Ctl) (p q r : BitVec 4) : Statement (.pset k p q r) := layPqr_lt 0x11 k 6 p q r (Nat.le_of_ble_eq_true rfl) (Nat.le_of_ble_eq_true rfl)
theorem pclr (k : Ctl) (p q r : BitVec 4) : Statement (.pclr k p q r) := layPqr_lt 0x11 k 7 p q r (Nat.le_of_ble_eq_true rfl) (Nat.le_of_ble_eq_true rfl)
theorem bpt (k : Ctl) (n : BitVec 2) (o : BitVec 19) : Statement (.bpt k n o) := layNo_lt 0x12 k 0 n o (Nat.le_of_ble_eq_true rfl) (Nat.le_of_ble_eq_true rfl)
theorem bpr (k : Ctl) (n : BitVec 2) (a : Reg) : Statement (.bpr k n a) := layNa_lt 0x13 k 0 n a (Nat.le_of_ble_eq_true rfl) (Nat.le_of_ble_eq_true rfl)
theorem jtab (k : Ctl) (a b : Reg) : Statement (.jtab k a b) := layAb_lt 0x13 k 1 a b (Nat.le_of_ble_eq_true rfl) (Nat.le_of_ble_eq_true rfl)
theorem btox (k : Ctl) (d : Reg) (n : BitVec 2) : Statement (.btox k d n) := layDn_lt 0x13 k 2 d n (Nat.le_of_ble_eq_true rfl) (Nat.le_of_ble_eq_true rfl)
theorem jd (k : Ctl) (n : BitVec 2) (p : BitVec 4) (g : Bool) (e : BitVec 2) (l : Bool) : Statement (.jd k n p g e l) := layNpgel_lt 0x14 k 0 n p g e l (Nat.le_of_ble_eq_true rfl) (Nat.le_of_ble_eq_true rfl)
theorem lps (k : Ctl) (a : Reg) (s : BitVec 3) : Statement (.lps k a s) := layAs_lt 0x15 k 0 a s (Nat.le_of_ble_eq_true rfl) (Nat.le_of_ble_eq_true rfl)
theorem lbr (k : Ctl) (n : BitVec 2) : Statement (.lbr k n) := layN_lt 0x15 k 1 n (Nat.le_of_ble_eq_true rfl) (Nat.le_of_ble_eq_true rfl)
theorem lcr (k : Ctl) (d : Reg) : Statement (.lcr k d) := layD_lt 0x15 k 2 d (Nat.le_of_ble_eq_true rfl) (Nat.le_of_ble_eq_true rfl)
theorem lcw (k : Ctl) (a : Reg) : Statement (.lcw k a) := layA_lt 0x15 k 3 a (Nat.le_of_ble_eq_true rfl) (Nat.le_of_ble_eq_true rfl)
theorem vany (k : Ctl) (p : BitVec 4) (v : BitVec 3) : Statement (.vany k p v) := layPv_lt 0x16 k 0 p v (Nat.le_of_ble_eq_true rfl) (Nat.le_of_ble_eq_true rfl)
theorem vall (k : Ctl) (p : BitVec 4) (v : BitVec 3) : Statement (.vall k p v) := layPv_lt 0x16 k 1 p v (Nat.le_of_ble_eq_true rfl) (Nat.le_of_ble_eq_true rfl)
theorem vnone (k : Ctl) (p : BitVec 4) (v : BitVec 3) : Statement (.vnone k p v) := layPv_lt 0x16 k 2 p v (Nat.le_of_ble_eq_true rfl) (Nat.le_of_ble_eq_true rfl)
theorem ld (k : Ctl) (d a : Reg) (s : BitVec 4) (h : BitVec 2) (z : BitVec 3) : Statement (.ld k d a s h z) := layDashz_lt 0x17 k 0 d a s h z (Nat.le_of_ble_eq_true rfl) (Nat.le_of_ble_eq_true rfl)
theorem ldp (k : Ctl) (d a : Reg) (s : BitVec 4) (h : BitVec 2) (z : BitVec 3) : Statement (.ldp k d a s h z) := layDashz_lt 0x18 k 0 d a s h z (Nat.le_of_ble_eq_true rfl) (Nat.le_of_ble_eq_true rfl)
theorem st (k : Ctl) (c a : Reg) (h : BitVec 2) (z : BitVec 3) : Statement (.st k c a h z) := layCahz_lt 0x19 k 0 c a h z (Nat.le_of_ble_eq_true rfl) (Nat.le_of_ble_eq_true rfl)
theorem stp (k : Ctl) (c a : Reg) (h : BitVec 2) (z : BitVec 3) : Statement (.stp k c a h z) := layCahz_lt 0x1A k 0 c a h z (Nat.le_of_ble_eq_true rfl) (Nat.le_of_ble_eq_true rfl)
theorem ldacq (k : Ctl) (d a : Reg) (c : BitVec 2) : Statement (.ldacq k d a c) := layDac_lt 0x1B k 0 d a c (Nat.le_of_ble_eq_true rfl) (Nat.le_of_ble_eq_true rfl)
theorem strel (k : Ctl) (c : BitVec 2) (a b : Reg) : Statement (.strel k c a b) := layCab_lt 0x1B k 1 c a b (Nat.le_of_ble_eq_true rfl) (Nat.le_of_ble_eq_true rfl)
theorem ldfe (k : Ctl) (d a : Reg) : Statement (.ldfe k d a) := layDa_lt 0x1B k 2 d a (Nat.le_of_ble_eq_true rfl) (Nat.le_of_ble_eq_true rfl)
theorem stfe (k : Ctl) (a b : Reg) : Statement (.stfe k a b) := layAb_lt 0x1B k 3 a b (Nat.le_of_ble_eq_true rfl) (Nat.le_of_ble_eq_true rfl)
theorem ldf (k : Ctl) (d a : Reg) : Statement (.ldf k d a) := layDa_lt 0x1B k 4 d a (Nat.le_of_ble_eq_true rfl) (Nat.le_of_ble_eq_true rfl)
theorem stf (k : Ctl) (a b : Reg) : Statement (.stf k a b) := layAb_lt 0x1B k 5 a b (Nat.le_of_ble_eq_true rfl) (Nat.le_of_ble_eq_true rfl)
theorem fepr (k : Ctl) (p : BitVec 4) (a : Reg) : Statement (.fepr k p a) := layPa_lt 0x1B k 6 p a (Nat.le_of_ble_eq_true rfl) (Nat.le_of_ble_eq_true rfl)
theorem feset (k : Ctl) (a b : Reg) : Statement (.feset k a b) := layAb_lt 0x1B k 7 a b (Nat.le_of_ble_eq_true rfl) (Nat.le_of_ble_eq_true rfl)
theorem fence (k : Ctl) (m : BitVec 4) (c : BitVec 2) : Statement (.fence k m c) := layMc_lt 0x1C k 0 m c (Nat.le_of_ble_eq_true rfl) (Nat.le_of_ble_eq_true rfl)
theorem rpub (k : Ctl) (a : Reg) : Statement (.rpub k a) := layA_lt 0x1C k 1 a (Nat.le_of_ble_eq_true rfl) (Nat.le_of_ble_eq_true rfl)
theorem rview (k : Ctl) (d a : Reg) : Statement (.rview k d a) := layDa_lt 0x1C k 2 d a (Nat.le_of_ble_eq_true rfl) (Nat.le_of_ble_eq_true rfl)
theorem cwbr (k : Ctl) (a b : Reg) : Statement (.cwbr k a b) := layAb_lt 0x1C k 3 a b (Nat.le_of_ble_eq_true rfl) (Nat.le_of_ble_eq_true rfl)
theorem cinvr (k : Ctl) (a b : Reg) : Statement (.cinvr k a b) := layAb_lt 0x1C k 4 a b (Nat.le_of_ble_eq_true rfl) (Nat.le_of_ble_eq_true rfl)
theorem cpin (k : Ctl) (n : BitVec 3) (a b : Reg) : Statement (.cpin k n a b) := layNab_lt 0x1C k 5 n a b (Nat.le_of_ble_eq_true rfl) (Nat.le_of_ble_eq_true rfl)
theorem cunpin (k : Ctl) (n : BitVec 3) : Statement (.cunpin k n) := layN2_lt 0x1C k 6 n (Nat.le_of_ble_eq_true rfl) (Nat.le_of_ble_eq_true rfl)
theorem pref (k : Ctl) (a : Reg) : Statement (.pref k a) := layA_lt 0x1C k 7 a (Nat.le_of_ble_eq_true rfl) (Nat.le_of_ble_eq_true rfl)
theorem aadd (k : Ctl) (d a b : Reg) : Statement (.aadd k d a b) := layDab_lt 0x1D k 0 d a b (Nat.le_of_ble_eq_true rfl) (Nat.le_of_ble_eq_true rfl)
theorem amax (k : Ctl) (d a b : Reg) : Statement (.amax k d a b) := layDab_lt 0x1D k 1 d a b (Nat.le_of_ble_eq_true rfl) (Nat.le_of_ble_eq_true rfl)
theorem amin (k : Ctl) (d a b : Reg) : Statement (.amin k d a b) := layDab_lt 0x1D k 2 d a b (Nat.le_of_ble_eq_true rfl) (Nat.le_of_ble_eq_true rfl)
theorem aand (k : Ctl) (d a b : Reg) : Statement (.aand k d a b) := layDab_lt 0x1D k 3 d a b (Nat.le_of_ble_eq_true rfl) (Nat.le_of_ble_eq_true rfl)
theorem aor (k : Ctl) (d a b : Reg) : Statement (.aor k d a b) := layDab_lt 0x1D k 4 d a b (Nat.le_of_ble_eq_true rfl) (Nat.le_of_ble_eq_true rfl)
theorem axor (k : Ctl) (d a b : Reg) : Statement (.axor k d a b) := layDab_lt 0x1D k 5 d a b (Nat.le_of_ble_eq_true rfl) (Nat.le_of_ble_eq_true rfl)
theorem aswp (k : Ctl) (d a b : Reg) : Statement (.aswp k d a b) := layDab_lt 0x1D k 6 d a b (Nat.le_of_ble_eq_true rfl) (Nat.le_of_ble_eq_true rfl)
theorem afadd (k : Ctl) (d a b : Reg) : Statement (.afadd k d a b) := layDab_lt 0x1D k 7 d a b (Nat.le_of_ble_eq_true rfl) (Nat.le_of_ble_eq_true rfl)
theorem acas (k : Ctl) (d a b : Reg) : Statement (.acas k d a b) := layDab_lt 0x1E k 0 d a b (Nat.le_of_ble_eq_true rfl) (Nat.le_of_ble_eq_true rfl)
theorem acasW (k : Ctl) (d a b : Reg) : Statement (.acasW k d a b) := layDab_lt 0x1E k 1 d a b (Nat.le_of_ble_eq_true rfl) (Nat.le_of_ble_eq_true rfl)
theorem vadd (k : Ctl) (d a b : Reg) : Statement (.vadd k d a b) := layDab_lt 0x1F k 0 d a b (Nat.le_of_ble_eq_true rfl) (Nat.le_of_ble_eq_true rfl)
theorem vsub (k : Ctl) (d a b : Reg) : Statement (.vsub k d a b) := layDab_lt 0x1F k 1 d a b (Nat.le_of_ble_eq_true rfl) (Nat.le_of_ble_eq_true rfl)
theorem vmul (k : Ctl) (d a b : Reg) : Statement (.vmul k d a b) := layDab_lt 0x1F k 2 d a b (Nat.le_of_ble_eq_true rfl) (Nat.le_of_ble_eq_true rfl)
theorem vfma (k : Ctl) (d a b : Reg) : Statement (.vfma k d a b) := layDab_lt 0x1F k 3 d a b (Nat.le_of_ble_eq_true rfl) (Nat.le_of_ble_eq_true rfl)
theorem vmax (k : Ctl) (d a b : Reg) : Statement (.vmax k d a b) := layDab_lt 0x1F k 4 d a b (Nat.le_of_ble_eq_true rfl) (Nat.le_of_ble_eq_true rfl)
theorem vmin (k : Ctl) (d a b : Reg) : Statement (.vmin k d a b) := layDab_lt 0x1F k 5 d a b (Nat.le_of_ble_eq_true rfl) (Nat.le_of_ble_eq_true rfl)
theorem vfms (k : Ctl) (d a b : Reg) : Statement (.vfms k d a b) := layDab_lt 0x1F k 6 d a b (Nat.le_of_ble_eq_true rfl) (Nat.le_of_ble_eq_true rfl)
theorem vabd (k : Ctl) (d a b : Reg) : Statement (.vabd k d a b) := layDab_lt 0x1F k 7 d a b (Nat.le_of_ble_eq_true rfl) (Nat.le_of_ble_eq_true rfl)
theorem viadd (k : Ctl) (d a b : Reg) : Statement (.viadd k d a b) := layDab_lt 0x20 k 0 d a b (Nat.le_of_ble_eq_true rfl) (Nat.le_of_ble_eq_true rfl)
theorem visub (k : Ctl) (d a b : Reg) : Statement (.visub k d a b) := layDab_lt 0x20 k 1 d a b (Nat.le_of_ble_eq_true rfl) (Nat.le_of_ble_eq_true rfl)
theorem vimul (k : Ctl) (d a b : Reg) : Statement (.vimul k d a b) := layDab_lt 0x20 k 2 d a b (Nat.le_of_ble_eq_true rfl) (Nat.le_of_ble_eq_true rfl)
theorem vand (k : Ctl) (d a b : Reg) : Statement (.vand k d a b) := layDab_lt 0x20 k 3 d a b (Nat.le_of_ble_eq_true rfl) (Nat.le_of_ble_eq_true rfl)
theorem vor (k : Ctl) (d a b : Reg) : Statement (.vor k d a b) := layDab_lt 0x20 k 4 d a b (Nat.le_of_ble_eq_true rfl) (Nat.le_of_ble_eq_true rfl)
theorem vxor (k : Ctl) (d a b : Reg) : Statement (.vxor k d a b) := layDab_lt 0x20 k 5 d a b (Nat.le_of_ble_eq_true rfl) (Nat.le_of_ble_eq_true rfl)
theorem vshl (k : Ctl) (d a b : Reg) : Statement (.vshl k d a b) := layDab_lt 0x20 k 6 d a b (Nat.le_of_ble_eq_true rfl) (Nat.le_of_ble_eq_true rfl)
theorem vshr (k : Ctl) (d a b : Reg) : Statement (.vshr k d a b) := layDab_lt 0x20 k 7 d a b (Nat.le_of_ble_eq_true rfl) (Nat.le_of_ble_eq_true rfl)
theorem vneg (k : Ctl) (d a : Reg) : Statement (.vneg k d a) := layDa_lt 0x21 k 0 d a (Nat.le_of_ble_eq_true rfl) (Nat.le_of_ble_eq_true rfl)
theorem vabs (k : Ctl) (d a : Reg) : Statement (.vabs k d a) := layDa_lt 0x21 k 1 d a (Nat.le_of_ble_eq_true rfl) (Nat.le_of_ble_eq_true rfl)
theorem vrcp (k : Ctl) (d a : Reg) : Statement (.vrcp k d a) := layDa_lt 0x21 k 2 d a (Nat.le_of_ble_eq_true rfl) (Nat.le_of_ble_eq_true rfl)
theorem vrsq (k : Ctl) (d a : Reg) : Statement (.vrsq k d a) := layDa_lt 0x21 k 3 d a (Nat.le_of_ble_eq_true rfl) (Nat.le_of_ble_eq_true rfl)
theorem vex2 (k : Ctl) (d a : Reg) : Statement (.vex2 k d a) := layDa_lt 0x21 k 4 d a (Nat.le_of_ble_eq_true rfl) (Nat.le_of_ble_eq_true rfl)
theorem vlg2 (k : Ctl) (d a : Reg) : Statement (.vlg2 k d a) := layDa_lt 0x21 k 5 d a (Nat.le_of_ble_eq_true rfl) (Nat.le_of_ble_eq_true rfl)
theorem vflr (k : Ctl) (d a : Reg) : Statement (.vflr k d a) := layDa_lt 0x21 k 6 d a (Nat.le_of_ble_eq_true rfl) (Nat.le_of_ble_eq_true rfl)
theorem vmov (k : Ctl) (d a : Reg) : Statement (.vmov k d a) := layDa_lt 0x21 k 7 d a (Nat.le_of_ble_eq_true rfl) (Nat.le_of_ble_eq_true rfl)
theorem vcvt (k : Ctl) (d a : Reg) (t s : BitVec 4) (u : Bool) : Statement (.vcvt k d a t s u) := layDatsu_lt 0x22 k 0 d a t s u (Nat.le_of_ble_eq_true rfl) (Nat.le_of_ble_eq_true rfl)
theorem vcmp (k : Ctl) (p : BitVec 3) (a b : Reg) (c : BitVec 3) : Statement (.vcmp k p a b c) := layPabc_lt 0x23 k 0 p a b c (Nat.le_of_ble_eq_true rfl) (Nat.le_of_ble_eq_true rfl)
theorem vsel (k : Ctl) (d a b : Reg) : Statement (.vsel k d a b) := layDab_lt 0x24 k 0 d a b (Nat.le_of_ble_eq_true rfl) (Nat.le_of_ble_eq_true rfl)
theorem vprm (k : Ctl) (d a b : Reg) : Statement (.vprm k d a b) := layDab_lt 0x24 k 1 d a b (Nat.le_of_ble_eq_true rfl) (Nat.le_of_ble_eq_true rfl)
theorem vbc (k : Ctl) (d a : Reg) : Statement (.vbc k d a) := layDa_lt 0x24 k 2 d a (Nat.le_of_ble_eq_true rfl) (Nat.le_of_ble_eq_true rfl)
theorem vext (k : Ctl) (d a b : Reg) : Statement (.vext k d a b) := layDab_lt 0x24 k 3 d a b (Nat.le_of_ble_eq_true rfl) (Nat.le_of_ble_eq_true rfl)
theorem vins (k : Ctl) (d a b : Reg) : Statement (.vins k d a b) := layDab_lt 0x24 k 4 d a b (Nat.le_of_ble_eq_true rfl) (Nat.le_of_ble_eq_true rfl)
theorem vrot (k : Ctl) (d a b : Reg) : Statement (.vrot k d a b) := layDab_lt 0x24 k 5 d a b (Nat.le_of_ble_eq_true rfl) (Nat.le_of_ble_eq_true rfl)
theorem vzip (k : Ctl) (d a b : Reg) : Statement (.vzip k d a b) := layDab_lt 0x24 k 6 d a b (Nat.le_of_ble_eq_true rfl) (Nat.le_of_ble_eq_true rfl)
theorem vuzp (k : Ctl) (d a b : Reg) : Statement (.vuzp k d a b) := layDab_lt 0x24 k 7 d a b (Nat.le_of_ble_eq_true rfl) (Nat.le_of_ble_eq_true rfl)
theorem vradd (k : Ctl) (d a : Reg) : Statement (.vradd k d a) := layDa_lt 0x25 k 0 d a (Nat.le_of_ble_eq_true rfl) (Nat.le_of_ble_eq_true rfl)
theorem vrmax (k : Ctl) (d a : Reg) : Statement (.vrmax k d a) := layDa_lt 0x25 k 1 d a (Nat.le_of_ble_eq_true rfl) (Nat.le_of_ble_eq_true rfl)
theorem vrmin (k : Ctl) (d a : Reg) : Statement (.vrmin k d a) := layDa_lt 0x25 k 2 d a (Nat.le_of_ble_eq_true rfl) (Nat.le_of_ble_eq_true rfl)
theorem vdot (k : Ctl) (d a b : Reg) : Statement (.vdot k d a b) := layDab_lt 0x25 k 3 d a b (Nat.le_of_ble_eq_true rfl) (Nat.le_of_ble_eq_true rfl)
theorem vramx (k : Ctl) (d a : Reg) : Statement (.vramx k d a) := layDa_lt 0x25 k 4 d a (Nat.le_of_ble_eq_true rfl) (Nat.le_of_ble_eq_true rfl)
theorem vqnt (k : Ctl) (d a : Reg) (h : BitVec 5) : Statement (.vqnt k d a h) := layDah_lt 0x26 k 0 d a h (Nat.le_of_ble_eq_true rfl) (Nat.le_of_ble_eq_true rfl)
theorem vdq (k : Ctl) (d a : Reg) (h : BitVec 5) : Statement (.vdq k d a h) := layDah_lt 0x26 k 1 d a h (Nat.le_of_ble_eq_true rfl) (Nat.le_of_ble_eq_true rfl)
theorem vhist (k : Ctl) (a : Reg) (h : BitVec 5) : Statement (.vhist k a h) := layAh_lt 0x26 k 2 a h (Nat.le_of_ble_eq_true rfl) (Nat.le_of_ble_eq_true rfl)
theorem vscx (k : Ctl) (d a : Reg) (h : BitVec 5) : Statement (.vscx k d a h) := layDah_lt 0x26 k 3 d a h (Nat.le_of_ble_eq_true rfl) (Nat.le_of_ble_eq_true rfl)
theorem mdbind (k : Ctl) (a : Reg) (h : BitVec 5) : Statement (.mdbind k a h) := layAh_lt 0x27 k 0 a h (Nat.le_of_ble_eq_true rfl) (Nat.le_of_ble_eq_true rfl)
theorem mdclose (k : Ctl) (h : BitVec 5) : Statement (.mdclose k h) := layH_lt 0x27 k 1 h (Nat.le_of_ble_eq_true rfl) (Nat.le_of_ble_eq_true rfl)
theorem mdread (k : Ctl) (d a : Reg) (h : BitVec 5) : Statement (.mdread k d a h) := layDah_lt 0x27 k 2 d a h (Nat.le_of_ble_eq_true rfl) (Nat.le_of_ble_eq_true rfl)
theorem mdset (k : Ctl) (a : Reg) (h : BitVec 5) : Statement (.mdset k a h) := layAh_lt 0x27 k 3 a h (Nat.le_of_ble_eq_true rfl) (Nat.le_of_ble_eq_true rfl)
theorem mdpm (k : Ctl) (d a : Reg) (h : BitVec 5) : Statement (.mdpm k d a h) := layDah_lt 0x27 k 4 d a h (Nat.le_of_ble_eq_true rfl) (Nat.le_of_ble_eq_true rfl)
theorem mdwait (k : Ctl) (a : Reg) (h : BitVec 5) : Statement (.mdwait k a h) := layAh_lt 0x27 k 5 a h (Nat.le_of_ble_eq_true rfl) (Nat.le_of_ble_eq_true rfl)
theorem stld (k : Ctl) (s : BitVec 6) (a : Reg) : Statement (.stld k s a) := layDa_lt 0x28 k 0 s a (Nat.le_of_ble_eq_true rfl) (Nat.le_of_ble_eq_true rfl)
theorem stwr (k : Ctl) (s : BitVec 6) (a : Reg) (f : BitVec 4) : Statement (.stwr k s a f) := laySaf_lt 0x28 k 1 s a f (Nat.le_of_ble_eq_true rfl) (Nat.le_of_ble_eq_true rfl)
theorem strd (k : Ctl) (d : Reg) (s : BitVec 6) (f : BitVec 4) : Statement (.strd k d s f) := laySaf_lt 0x28 k 2 d s f (Nat.le_of_ble_eq_true rfl) (Nat.le_of_ble_eq_true rfl)
theorem gset (k : Ctl) (g : BitVec 4) (a : Reg) : Statement (.gset k g a) := layPa_lt 0x28 k 3 g a (Nat.le_of_ble_eq_true rfl) (Nat.le_of_ble_eq_true rfl)
theorem gclr (k : Ctl) (g : BitVec 4) : Statement (.gclr k g) := layG_lt 0x28 k 4 g (Nat.le_of_ble_eq_true rfl) (Nat.le_of_ble_eq_true rfl)
theorem phase (k : Ctl) : Statement (.phase k) := layNone_lt 0x29 k 0 (Nat.le_of_ble_eq_true rfl) (Nat.le_of_ble_eq_true rfl)
theorem phwt (k : Ctl) (d a : Reg) : Statement (.phwt k d a) := layDa_lt 0x29 k 1 d a (Nat.le_of_ble_eq_true rfl) (Nat.le_of_ble_eq_true rfl)
theorem dmjoin (k : Ctl) (a : Reg) : Statement (.dmjoin k a) := layA_lt 0x29 k 2 a (Nat.le_of_ble_eq_true rfl) (Nat.le_of_ble_eq_true rfl)
theorem dmleave (k : Ctl) : Statement (.dmleave k) := layNone_lt 0x29 k 3 (Nat.le_of_ble_eq_true rfl) (Nat.le_of_ble_eq_true rfl)
theorem bbpost (k : Ctl) (a b : Reg) : Statement (.bbpost k a b) := layAb_lt 0x29 k 4 a b (Nat.le_of_ble_eq_true rfl) (Nat.le_of_ble_eq_true rfl)
theorem bbwt (k : Ctl) (d a b : Reg) : Statement (.bbwt k d a b) := layDab_lt 0x29 k 5 d a b (Nat.le_of_ble_eq_true rfl) (Nat.le_of_ble_eq_true rfl)
theorem waitc (k : Ctl) (a b : Reg) : Statement (.waitc k a b) := layAb_lt 0x29 k 6 a b (Nat.le_of_ble_eq_true rfl) (Nat.le_of_ble_eq_true rfl)
theorem req (k : Ctl) (a b : Reg) : Statement (.req k a b) := layAb_lt 0x29 k 7 a b (Nat.le_of_ble_eq_true rfl) (Nat.le_of_ble_eq_true rfl)
theorem tspawn (k : Ctl) (d a : Reg) : Statement (.tspawn k d a) := layDa_lt 0x2A k 0 d a (Nat.le_of_ble_eq_true rfl) (Nat.le_of_ble_eq_true rfl)
theorem tend (k : Ctl) (a : Reg) : Statement (.tend k a) := layA_lt 0x2A k 1 a (Nat.le_of_ble_eq_true rfl) (Nat.le_of_ble_eq_true rfl)
theorem pwreq (k : Ctl) (d a : Reg) : Statement (.pwreq k d a) := layDa_lt 0x2A k 2 d a (Nat.le_of_ble_eq_true rfl) (Nat.le_of_ble_eq_true rfl)
theorem pwrel (k : Ctl) : Statement (.pwrel k) := layNone_lt 0x2A k 3 (Nat.le_of_ble_eq_true rfl) (Nat.le_of_ble_eq_true rfl)
theorem accr (k : Ctl) (d : Reg) (c : BitVec 4) : Statement (.accr k d c) := layDc_lt 0x2A k 4 d c (Nat.le_of_ble_eq_true rfl) (Nat.le_of_ble_eq_true rfl)
theorem esnr (k : Ctl) (d : Reg) : Statement (.esnr k d) := layD_lt 0x2A k 5 d (Nat.le_of_ble_eq_true rfl) (Nat.le_of_ble_eq_true rfl)
theorem csrr (k : Ctl) (d : Reg) (c : BitVec 9) : Statement (.csrr k d c) := layDc2_lt 0x2B k 0 d c (Nat.le_of_ble_eq_true rfl) (Nat.le_of_ble_eq_true rfl)
theorem csrw (k : Ctl) (a : Reg) (c : BitVec 9) : Statement (.csrw k a c) := layAc_lt 0x2C k 0 a c (Nat.le_of_ble_eq_true rfl) (Nat.le_of_ble_eq_true rfl)
theorem csrs (k : Ctl) (c : BitVec 9) (a : Reg) : Statement (.csrs k c a) := layCa_lt 0x2D k 4 c a (Nat.le_of_ble_eq_true rfl) (Nat.le_of_ble_eq_true rfl)
theorem csrc (k : Ctl) (c : BitVec 9) (a : Reg) : Statement (.csrc k c a) := layCa_lt 0x2D k 5 c a (Nat.le_of_ble_eq_true rfl) (Nat.le_of_ble_eq_true rfl)
theorem eret (k : Ctl) : Statement (.eret k) := layNone_lt 0x2D k 0 (Nat.le_of_ble_eq_true rfl) (Nat.le_of_ble_eq_true rfl)
theorem tlbi (k : Ctl) (a b : Reg) : Statement (.tlbi k a b) := layAb_lt 0x2D k 1 a b (Nat.le_of_ble_eq_true rfl) (Nat.le_of_ble_eq_true rfl)
theorem fencei (k : Ctl) : Statement (.fencei k) := layNone_lt 0x2D k 2 (Nat.le_of_ble_eq_true rfl) (Nat.le_of_ble_eq_true rfl)
theorem wfe (k : Ctl) : Statement (.wfe k) := layNone_lt 0x2D k 3 (Nat.le_of_ble_eq_true rfl) (Nat.le_of_ble_eq_true rfl)
theorem halt (k : Ctl) : Statement (.halt k) := layNone_lt 0x2D k 6 (Nat.le_of_ble_eq_true rfl) (Nat.le_of_ble_eq_true rfl)
theorem trap (k : Ctl) (i : BitVec 15) : Statement (.trap k i) := layI_lt 0x2E k 0 i (Nat.le_of_ble_eq_true rfl) (Nat.le_of_ble_eq_true rfl)
theorem stamp (tk : BitVec 4) (slot : Reg) (fsel : BitVec 4) (val : BitVec 16) : Statement (.stamp tk slot fsel val) := by
  have h1 := tk.isLt
  have h2 := slot.isLt
  have h3 := fsel.isLt
  have h4 := val.isLt
  simp only [Statement, encodeWord]
  omega

theorem guardDiscard (e : Engine) : Statement (.guardDiscard e) := Nat.two_pow_pos 32
theorem powerGrant (die : BitVec 2) : Statement (.powerGrant die) := Nat.two_pow_pos 32
theorem unitReturn (die : BitVec 2) : Statement (.unitReturn die) := Nat.two_pow_pos 32
theorem commandCompletion (e : Engine) : Statement (.commandCompletion e) := Nat.two_pow_pos 32
theorem rd (src dst : BitVec 2) : Statement (.rd src dst) := Nat.two_pow_pos 32
theorem wr (src dst : BitVec 2) : Statement (.wr src dst) := Nat.two_pow_pos 32
theorem atMsg (src dst : BitVec 2) : Statement (.atMsg src dst) := Nat.two_pow_pos 32
theorem inv (src dst : BitVec 2) : Statement (.inv src dst) := Nat.two_pow_pos 32
theorem dataMsg (src dst : BitVec 2) : Statement (.dataMsg src dst) := Nat.two_pow_pos 32
theorem ack (src dst : BitVec 2) : Statement (.ack src dst) := Nat.two_pow_pos 32
theorem conflict (src dst : BitVec 2) : Statement (.conflict src dst) := Nat.two_pow_pos 32
theorem retry (src dst : BitVec 2) : Statement (.retry src dst) := Nat.two_pow_pos 32
theorem linkDown (port : BitVec 4) : Statement (.linkDown port) := Nat.two_pow_pos 32
theorem boundaryComplete (dom : BitVec 10) : Statement (.boundaryComplete dom) := Nat.two_pow_pos 32
theorem regionPush (r : BitVec 8) : Statement (.regionPush r) := Nat.two_pow_pos 32
theorem ringPoll (die : BitVec 2) : Statement (.ringPoll die) := Nat.two_pow_pos 32
theorem heldFireRetry (die : BitVec 2) : Statement (.heldFireRetry die) := Nat.two_pow_pos 32
theorem taskReady (die : BitVec 2) : Statement (.taskReady die) := Nat.two_pow_pos 32
theorem taskDispatch (die : BitVec 2) : Statement (.taskDispatch die) := Nat.two_pow_pos 32
theorem preempt (die : BitVec 2) : Statement (.preempt die) := Nat.two_pow_pos 32
theorem downwardStep (die : BitVec 2) : Statement (.downwardStep die) := Nat.two_pow_pos 32
theorem upwardStep (die : BitVec 2) : Statement (.upwardStep die) := Nat.two_pow_pos 32
theorem thermalBudgetLower (die : BitVec 2) : Statement (.thermalBudgetLower die) := Nat.two_pow_pos 32
theorem thermalStep (die : BitVec 2) : Statement (.thermalStep die) := Nat.two_pow_pos 32
theorem thermalTrip (die : BitVec 2) : Statement (.thermalTrip die) := Nat.two_pow_pos 32
theorem scrub (die : BitVec 2) : Statement (.scrub die) := Nat.two_pow_pos 32
theorem dumpRecord (die : BitVec 2) : Statement (.dumpRecord die) := Nat.two_pow_pos 32
theorem dumpMarker (die : BitVec 2) (chan : Chan) : Statement (.dumpMarker die chan) := Nat.two_pow_pos 32
theorem hbmTraining (passed : BitVec 4) : Statement (.hbmTraining passed) := Nat.two_pow_pos 32
theorem rowTesting (fails : List RowFail) : Statement (.rowTesting fails) := Nat.two_pow_pos 32
theorem plateBinding (bind : List (BitVec 9 × BitVec 8)) : Statement (.plateBinding bind) := Nat.two_pow_pos 32
theorem correctedErrorEvent (die : BitVec 2) (array : BitVec 8) : Statement (.correctedErrorEvent die array) := Nat.two_pow_pos 32
theorem msixVectorFire (v : BitVec 2) : Statement (.msixVectorFire v) := Nat.two_pow_pos 32
theorem remap (die : BitVec 2) : Statement (.remap die) := Nat.two_pow_pos 32
theorem atomicReply : Statement (.atomicReply) := Nat.two_pow_pos 32
theorem loadResultLand : Statement (.loadResultLand) := Nat.two_pow_pos 32
theorem bundleIssue : Statement (.bundleIssue) := Nat.two_pow_pos 32
theorem join : Statement (.join) := Nat.two_pow_pos 32
theorem mwl : Statement (.mwl) := Nat.two_pow_pos 32
theorem mma : Statement (.mma) := Nat.two_pow_pos 32
theorem mdr : Statement (.mdr) := Nat.two_pow_pos 32
theorem maz : Statement (.maz) := Nat.two_pow_pos 32
theorem mas : Statement (.mas) := Nat.two_pow_pos 32
theorem mar : Statement (.mar) := Nat.two_pow_pos 32
theorem xtr : Statement (.xtr) := Nat.two_pow_pos 32
theorem xfw : Statement (.xfw) := Nat.two_pow_pos 32
theorem uaw : Statement (.uaw) := Nat.two_pow_pos 32
theorem usm : Statement (.usm) := Nat.two_pow_pos 32
theorem uax : Statement (.uax) := Nat.two_pow_pos 32
theorem uns : Statement (.uns) := Nat.two_pow_pos 32
theorem cpy : Statement (.cpy) := Nat.two_pow_pos 32
theorem cpyPm : Statement (.cpyPm) := Nat.two_pow_pos 32
theorem cpyCv : Statement (.cpyCv) := Nat.two_pow_pos 32
theorem cpg : Statement (.cpg) := Nat.two_pow_pos 32
theorem cps : Statement (.cps) := Nat.two_pow_pos 32
theorem cpm : Statement (.cpm) := Nat.two_pow_pos 32
theorem cpl : Statement (.cpl) := Nat.two_pow_pos 32
theorem cpz : Statement (.cpz) := Nat.two_pow_pos 32
theorem histogramUpdate : Statement (.histogramUpdate) := Nat.two_pow_pos 32
theorem iterationClose : Statement (.iterationClose) := Nat.two_pow_pos 32
theorem recordStore : Statement (.recordStore) := Nat.two_pow_pos 32
theorem boundaryRelease : Statement (.boundaryRelease) := Nat.two_pow_pos 32
theorem phwtTimeout : Statement (.phwtTimeout) := Nat.two_pow_pos 32
theorem bbwtDone : Statement (.bbwtDone) := Nat.two_pow_pos 32
theorem bbwtTimeout : Statement (.bbwtTimeout) := Nat.two_pow_pos 32
theorem qfullTimeout : Statement (.qfullTimeout) := Nat.two_pow_pos 32
theorem tspawnTimeout : Statement (.tspawnTimeout) := Nat.two_pow_pos 32
theorem pwreqTimeout : Statement (.pwreqTimeout) := Nat.two_pow_pos 32
theorem staleTimeout : Statement (.staleTimeout) := Nat.two_pow_pos 32
theorem allreduce : Statement (.allreduce) := Nat.two_pow_pos 32
theorem reducescatter : Statement (.reducescatter) := Nat.two_pow_pos 32
theorem allgather : Statement (.allgather) := Nat.two_pow_pos 32
theorem broadcast : Statement (.broadcast) := Nat.two_pow_pos 32
theorem agree : Statement (.agree) := Nat.two_pow_pos 32
theorem barrier : Statement (.barrier) := Nat.two_pow_pos 32
theorem collectiveComplete : Statement (.collectiveComplete) := Nat.two_pow_pos 32
theorem fireCopy : Statement (.fireCopy) := Nat.two_pow_pos 32
theorem fireSum : Statement (.fireSum) := Nat.two_pow_pos 32
theorem fireMax : Statement (.fireMax) := Nat.two_pow_pos 32
theorem continuationEnqueue : Statement (.continuationEnqueue) := Nat.two_pow_pos 32
theorem traceSample : Statement (.traceSample) := Nat.two_pow_pos 32
theorem enqueue : Statement (.enqueue) := Nat.two_pow_pos 32
theorem functionLevelReset : Statement (.functionLevelReset) := Nat.two_pow_pos 32
theorem powerOnReset : Statement (.powerOnReset) := Nat.two_pow_pos 32
theorem cycleCharge : Statement (.cycleCharge) := Nat.two_pow_pos 32
theorem write (port : BitVec 4) (f : Flit) : Statement (.write port f) := Nat.two_pow_pos 32
theorem reduce (port : BitVec 4) (f : Flit) : Statement (.reduce port f) := Nat.two_pow_pos 32
theorem readRequest (port : BitVec 4) (f : Flit) : Statement (.readRequest port f) := Nat.two_pow_pos 32
theorem readReply (port : BitVec 4) (f : Flit) : Statement (.readReply port f) := Nat.two_pow_pos 32
theorem control (port : BitVec 4) (f : Flit) : Statement (.control port f) := Nat.two_pow_pos 32
theorem flipMarker (port : BitVec 4) (f : Flit) : Statement (.flipMarker port f) := Nat.two_pow_pos 32
theorem link (port : BitVec 4) (f : Flit) : Statement (.link port f) := Nat.two_pow_pos 32
theorem stop (port : BitVec 4) (vc : BitVec 2) : Statement (.stop port vc) := Nat.two_pow_pos 32
theorem go (port : BitVec 4) (vc : BitVec 2) : Statement (.go port vc) := Nat.two_pow_pos 32
theorem replay (port : BitVec 4) (seq : BitVec 8) : Statement (.replay port seq) := Nat.two_pow_pos 32
theorem info (m : Mail) : Statement (.info m) := Nat.two_pow_pos 32
theorem attest (m : Mail) (nonce : BitVec 256) : Statement (.attest m nonce) := Nat.two_pow_pos 32
theorem fwLoad (m : Mail) (image : FwImage) : Statement (.fwLoad m image) := Nat.two_pow_pos 32
theorem fwCommit (m : Mail) : Statement (.fwCommit m) := Nat.two_pow_pos 32
theorem queueSet (m : Mail) (die : BitVec 2) (queue : BitVec 4) (asid : BitVec 12) (root : Word) (priv : Priv) (accbase accctl : Word) : Statement (.queueSet m die queue asid root priv accbase accctl) := Nat.two_pow_pos 32
theorem domainCreate (m : Mail) (dom : BitVec 10) (asid : BitVec 12) (rootDie : BitVec 2) (rootDev : BitVec 12) (parent : Option (BitVec 10)) (k : BitVec 8) : Statement (.domainCreate m dom asid rootDie rootDev parent k) := Nat.two_pow_pos 32
theorem regionSet (m : Mail) (r : BitVec 8) (entry : Word) : Statement (.regionSet m r entry) := Nat.two_pow_pos 32
theorem policySet (m : Mail) (index : BitVec 4) (entry : BitVec 256) : Statement (.policySet m index entry) := Nat.two_pow_pos 32
theorem carve (m : Mail) (die : BitVec 2) (count : BitVec 8) : Statement (.carve m die count) := Nat.two_pow_pos 32
theorem retnGrant (m : Mail) (die : BitVec 2) (index : BitVec 3) (en : Bool) (asid : BitVec 12) : Statement (.retnGrant m die index en asid) := Nat.two_pow_pos 32
theorem fatSet (m : Mail) (entry : BitVec 12) (flipdom : BitVec 10) (map len : Word) : Statement (.fatSet m entry flipdom map len) := Nat.two_pow_pos 32
theorem fatArm (m : Mail) (entry : BitVec 12) (map len : Word) : Statement (.fatArm m entry map len) := Nat.two_pow_pos 32
theorem devidSet (m : Mail) (id : BitVec 12) : Statement (.devidSet m id) := Nat.two_pow_pos 32
theorem opSet (m : Mail) (die : BitVec 2) (point : BitVec 3) : Statement (.opSet m die point) := Nat.two_pow_pos 32
theorem budget (m : Mail) (die : BitVec 2) (units : BitVec 16) : Statement (.budget m die units) := Nat.two_pow_pos 32
theorem rowmapRead (m : Mail) (die : BitVec 2) (off len : BitVec 32) : Statement (.rowmapRead m die off len) := Nat.two_pow_pos 32
theorem eventRead (m : Mail) (die : BitVec 2) (off len : BitVec 32) : Statement (.eventRead m die off len) := Nat.two_pow_pos 32
theorem kill (m : Mail) (target : Master) : Statement (.kill m target) := Nat.two_pow_pos 32
theorem thaw (m : Mail) (target : Master) : Statement (.thaw m target) := Nat.two_pow_pos 32
theorem thawMode1 (m : Mail) (target : Master) : Statement (.thawMode1 m target) := Nat.two_pow_pos 32
theorem acctRead (m : Mail) (die : BitVec 2) (off len : BitVec 32) : Statement (.acctRead m die off len) := Nat.two_pow_pos 32
theorem imageMove (m : Mail) (ctx : BitVec 32) (dev : BitVec 12) (die : BitVec 2) : Statement (.imageMove m ctx dev die) := Nat.two_pow_pos 32
theorem dbgSet (m : Mail) (plate : BitVec 9) (comp : Comparator) : Statement (.dbgSet m plate comp) := Nat.two_pow_pos 32
theorem dbgResume (m : Mail) (ctx : BitVec 32) (steps : BitVec 32) (engstep : Option Bool) : Statement (.dbgResume m ctx steps engstep) := Nat.two_pow_pos 32
theorem dbgTrace (m : Mail) (plate : BitVec 9) (base : Word) (logsz : BitVec 5) (kinds : BitVec 7) (interval : BitVec 5) : Statement (.dbgTrace m plate base logsz kinds interval) := Nat.two_pow_pos 32
theorem dbgInject (m : Mail) (ctx : BitVec 32) (upset : Upset) : Statement (.dbgInject m ctx upset) := Nat.two_pow_pos 32
theorem dump (m : Mail) (group : List (BitVec 12)) (ranges : List (Word × Word)) (keep : Bool) : Statement (.dump m group ranges keep) := Nat.two_pow_pos 32
theorem dumpRead (m : Mail) (die : BitVec 2) (off len : BitVec 32) : Statement (.dumpRead m die off len) := Nat.two_pow_pos 32
theorem hqTailWrite (v : BitVec 32) (entries : List (BitVec 10 × List Word)) : Statement (.hqTailWrite v entries) := Nat.two_pow_pos 32
theorem controlPageWrite (off : BitVec 12) (v : Word) : Statement (.controlPageWrite off v) := Nat.two_pow_pos 32
theorem softError (u : Upset) : Statement (.softError u) := Nat.two_pow_pos 32

end WordFits

end Sys2Proof.Laws
end

