-- ==== Sys2Proof/Tests/Slice0.lean ====
section
/-! SUPPORT. The model's own tests: decoding of words written out from the spec's tables, the refusal of ill-formed words, a
state that meets the hypotheses of each statement, and a few single steps with results taken from the spec's examples. -/

-- The package is also checked as one text: one thread of elaboration keeps that within memory.
set_option Elab.async false

namespace Sys2Proof.Tests

open Sys2Proof.Machine

/-! ### Small states -/

/-- Plate 0 in service with one apart context of S privilege whose strand k stands at address 0; f sets up the context. -/
def on (k : Strand) (f : Ctx → Ctx) : State :=
  let s := State.reset.placeWord 32 0
  { s with ctx := f (placedCtx 0 k), phase := .plate 0 (turnOf k) }

/-- The same in lock-step, strand C in focus. -/
def locked (f : Ctx → Ctx) : State :=
  on .c (fun c => f { c with lockstep := true, strands := Quad.all (StrandSt.init 0) })

/-- x[n] holds v, landed. -/
def xIs (n : Nat) (v : Word) (c : Ctx) : Ctx := { c with x := SMap.set (Cell.init 0) c.x n (Cell.init v) }

/-- p[n] is set. -/
def pIs (n : Nat) (c : Ctx) : Ctx := { c with p := SMap.set (Cell.init false) c.p n (Cell.init true) }

/-- No token bits, no join. -/
def plain : Ctl := ⟨0, false⟩

/-- No token bits; SY as slot 0 has it in a bundle that stays in lock-step (R54). -/
def stay : Ctl := ⟨0, true⟩

/-- The bytes of a little-endian number lie in memory. -/
def memIs (pa n v : Nat) (s : State) : State := { s with mem := writeBytes s.mem pa (toBytes n v) }

/-- A reservation of two granules, and x1 at the window's first byte. -/
def windowed (c : Ctx) : Ctx := xIs 1 (BitVec.ofNat 64 winBase) { c with task := { c.task with spg := 2 } }

/-- A handler at 0x4000. -/
def handled (c : Ctx) : Ctx := { c with csr := { c.csr with tvec := 0x4000 } }

/-- A read that ends with a value, and whether it hit. -/
def gives (g : Except Flt Got) (v : Nat) (hit : Bool) (more : State → Bool) : Bool :=
  match g with
  | .ok (.val t w h) => w == v && h == hit && more t
  | _ => false

/-- One part of one page. -/
def resolves (g : Except Flt (State × List Piece)) (more : State → Piece → Bool) : Bool :=
  match g with
  | .ok (t, [p]) => more t p
  | _ => false

/-- The translation of a part in memory. -/
def inMemory (p : Piece) (more : Xlat → Bool) : Bool := match p.tgt with | .mem x => more x | .win _ => false

/-- The page at address 0 is COH in place of UNC (R255). -/
def coherent (s : State) : State := { s with plate := { s.plate with tlb := [{ placedPage with pte := 0x3F }] } }

/-- A record at 0x1000 whose current entry is version 0 of E4M3 with e = 0, bound to h1 (R222). -/
def recorded (s : State) : State :=
  memIs 0x1008 8 0x30000 { s with ctx := { s.ctx with h := SMap.set none s.ctx.h 1 (some 0x1000) } }

/-- The page at address 0 holds metadata (R255). -/
def metadata (s : State) : State := { s with plate := { s.plate with tlb := [{ placedPage with pte := 0xFF }] } }

/-- The word of the strand in focus has issued in cycle 0 and waits in cycle n. -/
def waiting (n : Nat) (s : State) : State :=
  { s with cycle := n, ctx := s.ctx.mstrand s.ctx.cur (fun t => { t with mark := true, since := some 0 }) }

/-- A queue entry with a stencil. -/
def entry (st : BitVec 256) : QEntry :=
  { stencil := st, rega := 0, regb := 0, esn := 0, rmode := 0, spc := 0, sstr := 1, qp := false, qn := false, armed := false, clk := Clock.zero,
    views := [], stamped := 0 }

/-- A domain of one member, the context in focus, whose boundary n has reached every die. -/
def domain (n : Word) : Domain :=
  { asid := 0, rootDie := 0, rootDev := 0, parent := none, k := 1, level := 0, count := 0, members := [1], arrived := [], force := [(0, 0, 1)], far := [],
    farIn := [], farJoin := [], kids := [], farKids := [], goal := 0, told := 0, joins := [], due := false, reached := Quad.all n,
    joint := false }

/-- Domain 5 holds the context in focus, which has arrived or not. -/
def member (arr : Bool) (n : Word) (s : State) : State :=
  { s with domains := [(5, some (domain n))],
           ctx := { s.ctx with csr := { s.ctx.csr with dmr := if arr then 0xC005 else 0x8005 } } }

/-- Queue 0 of die 0 is bound. -/
def boundQueue (s : State) : State := { s with dies := s.dies.set 0 { (s.die 0) with bind := [(0, some Space.blank)] } }

/-! ### States that meet the hypotheses of the scalar and control statements -/

def scalarWords : List Instr :=
  [.add plain 3 1 2, .sub plain 3 1 2, .and plain 3 1 2, .or plain 3 1 2, .xor plain 3 1 2, .shl plain 3 1 2, .shr plain 3 1 2,
   .sar plain 3 1 2, .min plain 3 1 2, .max plain 3 1 2, .minu plain 3 1 2, .maxu plain 3 1 2, .andn plain 3 1 2,
   .slt plain 3 1 2, .sltu plain 3 1 2, .orn plain 3 1 2, .mul plain 3 1 2, .mulh plain 3 1 2, .mulhu plain 3 1 2,
   .div plain 3 1 2, .divu plain 3 1 2, .rem plain 3 1 2, .remu plain 0 1 2]

def unaryWords : List Instr :=
  [.clz plain 3 1, .ctz plain 3 1, .popc plain 3 1, .brev plain 3 1, .abs plain 3 1, .sxb plain 3 1, .sxh plain 3 1,
   .sxw plain 3 1, .addi plain 3 1 5, .andi plain 3 1 5, .ori plain 3 1 5, .xori plain 3 1 5, .slti plain 3 1 5,
   .sltiu plain 3 1 5, .shli plain 3 1 5, .shri plain 3 1 5, .sari plain 3 1 5, .li plain 3 7, .lsi plain 3 7]

def addressWords : List Instr :=
  [.adds1 plain 3 1 2, .adds2 plain 3 1 2, .adds3 plain 3 1 2, .adds4 plain 3 1 2, .bfx plain 3 1 2, .bfi plain 3 17 33,
   .ptox plain 3 1, .sel plain 3 1 2 1]

def predicateWords : List Instr :=
  [.xtop plain 3 1, .cmp plain 3 1 2 0 0, .cmpi plain 3 1 2 5 2, .pand plain 3 1 2, .por plain 3 1 2, .pxor plain 3 1 2,
   .pandn plain 3 1 2, .pnot plain 3 1 2, .pmov plain 3 1 2, .pset plain 3 1 2, .pclr plain 0 1 2]

def voteWords : List Instr := [.vany plain 3 1, .vall plain 3 1, .vnone plain 3 1]

theorem wit_ScalarResults : ∀ i ∈ scalarWords, (on .c id).ready i plain anyStrand false := by
  unfold State.ready; decide +kernel
theorem wit_UnaryAndImmediate : ∀ i ∈ unaryWords ++ addressWords,
    (on .l id).ready i plain anyStrand false := by
  unfold State.ready; decide +kernel
theorem wit_PredicateResults :
    (∀ i ∈ predicateWords, (on .s id).ready i plain anyStrand false) ∧
    ∀ i ∈ voteWords, (on .x id).ready i plain onlyX false := by
  unfold State.ready; decide +kernel
theorem wit_locked : ∀ i ∈ scalarWords, (locked id).ready i plain anyStrand false := by
  unfold State.ready; decide +kernel

theorem wit_BranchTargets_words : ∀ i ∈ [Instr.bpt plain 1 0x7ffff, .bpr plain 0 1, .btox plain 3 1],
    (on .l id).ready i plain anyStrand false := by
  unfold State.ready; decide +kernel
theorem wit_BranchTargets_join : (on .c id).ready (.bpt ⟨0, true⟩ 0 4) ⟨0, true⟩ anyStrand false ∧
    ((on .c id).addrOf .c + (4 : BitVec 19).signExtend 64 * 4).toNat % 16 = 0 := by
  unfold State.ready; decide +kernel
theorem wit_BranchTargets_lcr : (on .c id).ready (.lcr plain 3) plain onlyC false := by
  unfold State.ready; decide +kernel

def tableAt : State := memIs 0x1010 8 0x40 (memIs 0x1000 8 1 (on .x (xIs 1 0x1000)))

/-- Both cases of JTAB's choice, x2 = 0 within the table of one target and x3 = 1 past it. -/
theorem wit_BranchTargets_jtab : ∀ e ∈ [((2 : Reg), (0x1010 : Nat), (0x40 : Nat)), (3, 0x1008, 0)],
    let s := { tableAt with ctx := xIs 3 1 tableAt.ctx }
    let u := s.operands (.jtab plain 1 e.1) plain
    s.ready (.jtab plain 1 e.1) plain anyStrand true ∧ (u.x 1).toNat % 8 = 0 ∧
    (match u.memRead (u.x 1).toNat 8 0 0 anyTarget with
      | .ok (.val s1 1 _) => match s1.memRead e.2.1 8 0 0 anyTarget with
        | .ok (.val t v _) => v == e.2.2 && (BitVec.ofNat 64 v).toNat % u.ctx.stepOf == 0 &&
            t.watched .load (u.x 1).toNat 8 == none && t.watched .load e.2.1 8 == none
        | _ => false
      | _ => false) = true := by
  unfold State.ready; decide +kernel

/-- JD in apart mode and in lock-step, taken and not, with every number of delay slots. -/
theorem wit_DelayedJump : ∀ e ∈ [(0 : BitVec 2), 3], ∀ g ∈ [true, false],
    (on .s id).ready (.jd plain 1 0 g e true) plain anyStrand true ∧
    (locked id).ready (.jd stay 1 9 g e false) stay anyStrand true ∧
    (((on .s id).operands (.jd plain 1 0 g e true) plain).b 1).toNat % 4 = 0 := by
  unfold State.ready; decide +kernel

/-- The loop with x1 passes due at its start, and at a pass that repeats, one that drains and the last. -/
theorem wit_HardwareLoop : ∀ e ∈ [((2 : Word), 0), (1, 2), (0, 1), (1, 0), (0, 0)],
    let s := locked (fun c => { c with loop := { lc := e.1, ls := 3, ldc := e.2, active := true } })
    s.ready (.lbr stay 1) stay onlyC true ∧ ((s.operands (.lbr stay 1) stay).b 1).toNat % s.ctx.stepOf = 0 ∧
    (locked id).ready (.lps stay 1 7) stay onlyC false ∧ (locked id).ctx.loop.active = false ∧
    s.ready (.lcw stay 1) stay onlyC false := by
  unfold State.ready; decide +kernel

theorem wit_SequentialFetch : ∀ s ∈ [on .c id, on .x id, locked id], ∀ sy ∈ [true, false],
    s.ready (.li ⟨0, sy⟩ 1 5) ⟨0, sy⟩ anyStrand false ∧ s.bundle = false := by
  unfold State.ready; decide +kernel

/-! ### Memory statements -/

/-- Every size at the window (a hit) and at memory of a UNC page (a miss), before and after an update of the base. -/
theorem wit_LoadResults : ∀ z ∈ [(0 : BitVec 3), 1, 2, 3, 4, 5, 6, 7], ∀ e ∈ [(windowed, true), (id, false)],
    let s := on .l e.1
    ∀ i ∈ [Instr.ld plain 2 1 0 0 z, .ldp plain 2 1 0 0 z],
    let u := s.operands i plain
    s.ready i plain onlyL false ∧ s.vok 2 = true ∧ (u.x 1).toNat % szAlign z = 0 ∧
      gives (u.memRead (u.x 1).toNat (szBytes z) 0 0 anyTarget) 0 e.2 (fun t => t.watched .load (u.x 1).toNat (szBytes z) == none) := by
  unfold State.ready; decide +kernel

theorem wit_StoreResults : ∀ z ∈ [(0 : BitVec 3), 1, 2, 3, 7], ∀ f ∈ [windowed, id],
    let s := on .s f
    ∀ i ∈ [Instr.st plain 2 1 0 z, .stp plain 2 1 0 z],
    let u := s.operands i plain
    s.ready i plain onlyS false ∧ s.vok 2 = true ∧ (u.x 1).toNat % szAlign z = 0 ∧
      (match u.memWrite (u.x 1).toNat (szBytes z) 0 0 false anyTarget with
        | .ok t => t.watched .store (u.x 1).toNat (szBytes z) == none
        | .error _ => false) = true := by
  unfold State.ready; decide +kernel

theorem wit_AccessFrame :
    State.memWf (on .l id) ∧ gives ((on .l id).memRead 0x40 8 0 0 anyTarget) 0 false (fun _ => true) ∧
    resolves ((on .s id).resolve 0x40 8 .store anyTarget) (fun _ _ => true) ∧
    (match (on .s id).memWrite 0x40 8 5 0 false anyTarget with | .ok _ => true | .error _ => false) = true := by
  unfold State.memWf; decide +kernel

theorem wit_WindowBytes :
    let s := on .s windowed
    SMap.wf 0 s.ctx.spad = true ∧ SMap.wf none s.ctx.tags = true ∧ s.bad = [] ∧ 0x1FFFF + 1 ≤ s.ctx.spres * 65536 ∧
    s.ctx.spres ≤ 24 := by decide +kernel

/-- A doubleword of a UNC page, at every scope. -/
theorem wit_AcquireRelease : ∀ c ∈ [(0 : BitVec 2), 1, 2, 3],
    (let s := on .l (xIs 1 0x40)
     let u := s.operands (.ldacq plain 2 1 c) plain
     s.ready (.ldacq plain 2 1 c) plain onlyL false ∧ (u.x 1).toNat % 8 = 0 ∧
     resolves (u.resolve (u.x 1).toNat 8 .load anyTarget) (fun t p =>
       match (if c = 0 then t.readPieces 0 0 [p] else t.readAt p c.toNat) with
       | .val r _ _ => r.watched .load (u.x 1).toNat 8 == none
       | _ => false)) ∧
    (let s := on .s (xIs 1 0x40)
     let u := s.operands (.strel plain c 1 2) plain
     s.ready (.strel plain c 1 2) plain onlyS false ∧ (u.x 1).toNat % 8 = 0 ∧
     resolves (u.resolve (u.x 1).toNat 8 .store anyTarget) (fun t p =>
       let m := t.release c.toNat
       (if c = 0 then m.writePieces 0 0 false [p] else m.writeAt p 0 c.toNat).watched .store (u.x 1).toNat 8 == none)) := by
  unfold State.ready; decide +kernel

/-- The word at the window's first byte, full for the loads, empty for STFE. -/
theorem wit_FullEmpty :
    (∀ i ∈ [Instr.ldfe plain 2 1, .ldf plain 2 1],
      let s := on .l (fun c => { windowed c with fe := [(0, true)] })
      let u := s.operands i plain
      s.ready i plain onlyL false ∧ (u.feOffset (u.x 1)).toOption = some 0 ∧ u.full 0 = true ∧
        u.eccFault { va := (u.x 1).toNat, len := 4, tgt := .win 0 } false = false ∧ u.watched .load (u.x 1).toNat 4 = none) ∧
    (∀ i ∈ [Instr.stfe plain 1 2, .stf plain 1 2, .feset plain 1 2],
      let s := on .s windowed
      let u := s.operands i plain
      s.ready i plain onlyS false ∧ (u.feOffset (u.x 1)).toOption = some 0 ∧ u.full 0 = false ∧
        u.watched .store (u.x 1).toNat 4 = none) ∧
    (let s := on .l windowed
     s.ready (.fepr plain 2 1) plain onlyL false ∧ ((s.operands (.fepr plain 2 1) plain).feOffset (BitVec.ofNat 64 winBase)).toOption = some 0) := by
  unfold State.ready; decide +kernel

theorem wit_FencesAndRanges :
    (∀ m ∈ [(0 : BitVec 4), 4, 8], (on .x id).ready (.fence plain m 2) plain anyStrand false) ∧
    (∀ i ∈ [Instr.rpub plain 1, .rview plain 2 1, .cunpin plain 3],
      (on .c (xIs 1 255)).ready i plain onlyC false) ∧
    ((on .c (xIs 1 255)).operands (.rpub plain 1) plain).x 1 = 255 ∧
    (∀ i ∈ [Instr.cwbr plain 1 2, .cinvr plain 1 2], (on .s id).ready i plain onlyS false) ∧
    (on .l id).ready (.pref plain 1) plain onlyL false ∧
    (∀ e ∈ [((1 : Word), (1 : Nat)), (0x200000, 8)],
      let s := on .c (xIs 2 (e.1 + BitVec.ofNat 64 (e.2 * 2 ^ 48)))
      let s := { s with dies := s.dies.set 0 { (s.die 0) with grants := SMap.set none [] 3 (some 0) } }
      let u := s.operands (.cpin plain 3 1 2) plain
      s.ready (.cpin plain 3 1 2) plain onlyC false ∧ u.pinDenied 3 = false ∧ (u.x 2).toNat % 2 ^ 48 = e.1.toNat ∧
      (match u.xlate u.ctx.space.asid u.ctx.space.root (u.x 1).toNat with
        | .ok (t, x) => decide ((u.x 1).toNat + e.1.toNat ≤ x.vpage + x.size) && !x.forbids (u.ctx.space.priv == .u) .load &&
            !t.pinDenied 3 && decide (e.2 + (t.die 0).carve + (t.die 0).worstLost (t.die 0).point ≤ 12)
        | .error _ => false) = true) := by
  unfold State.ready; decide +kernel

theorem wit_Atomics : ∀ e ∈ [(Instr.aadd plain 2 1 3, (8 : Nat), (0 : Nat)), (.amax plain 2 1 3, 8, 1), (.amin plain 2 1 3, 8, 2),
      (.aand plain 2 1 3, 8, 3), (.aor plain 2 1 3, 8, 4), (.axor plain 2 1 3, 8, 5), (.aswp plain 2 1 3, 8, 6),
      (.afadd plain 2 1 3, 4, 7), (.acas plain 2 1 33, 8, 8), (.acasW plain 0 1 33, 4, 9)],
    let s := coherent (on .l (xIs 1 0x40))
    let u := s.operands e.1 plain
    s.ready e.1 plain onlyLS false ∧ (u.x 1).toNat % e.2.1 = 0 ∧ State.memWf s ∧ s.poisoned 0x40 = false ∧
    resolves (u.resolve (u.x 1).toNat e.2.1 .atomic atomicTarget) (fun t p =>
      inMemory p (fun x =>
        let m := (t.release 2).dropCopy (x.pa / 128)
        homeDie x.pa == dieOfPlate m.plate.id &&
          (m.atomStep x.pa e.2.2 x.region (u.x 3) (u.x 2)).1.watched .atomic (u.x 1).toNat e.2.1 == none)) := by
  unfold State.ready State.memWf; decide +kernel

/-- An atomic whose home is another die: it travels as AT. -/
theorem wit_Atomics_away :
    let s := coherent (on .l (xIs 1 0x40))
    let s := { s with plate := { s.plate with tlb := [{ placedPage with pte := 0x3F + 0x9000000000 }] } }
    let i : Instr := .aadd plain 2 1 3
    let u := s.operands i plain
    s.ready i plain onlyLS false ∧ resolves (u.resolve (u.x 1).toNat 8 .atomic atomicTarget) (fun t p => inMemory p (fun x =>
      let m := ((t.release 2).dropCopy (x.pa / 128)).settle 0 (fun l => l == x.pa / 128)
      !(homeDie x.pa == 0) && (m.send 0 (homeDie x.pa)
        (.atom x.pa 0 (u.x 3) (u.x 2) x.region (m.ctx.id, m.fresh) none)).watched .atomic (u.x 1).toNat 8 == none)) := by
  unfold State.ready; decide +kernel


/-! ### Vector statements -/

def vfWords : List Instr :=
  [.vadd plain 1 17 33, .vsub plain 1 17 33, .vmul plain 1 17 33, .vfma plain 2 17 33, .vfms plain 2 17 33, .vabd plain 1 17 33,
   .vmax plain 1 17 33, .vmin plain 1 17 33]

def laneWords : List Instr :=
  [.viadd plain 1 17 33, .visub plain 1 17 33, .vimul plain 1 17 33, .vand plain 1 17 33, .vor plain 1 17 33, .vxor plain 1 17 33,
   .vshl plain 1 17 33, .vshr plain 1 17 33, .vsel plain 1 17 33, .vprm plain 1 17 33, .vbc plain 1 17, .vext plain 1 17 33,
   .vins plain 1 17 33, .vrot plain 1 17 33, .vzip plain 1 17 33, .vuzp plain 1 17 33]

def unaryVectors : List Instr :=
  [.vneg plain 1 17, .vabs plain 1 17, .vmov plain 1 17, .vflr plain 1 17, .vrcp plain 1 17, .vrsq plain 1 17, .vex2 plain 1 17,
   .vlg2 plain 1 17]

def reductions : List Instr :=
  [.vradd plain 1 17, .vdot plain 1 17 33, .vrmax plain 1 17, .vrmin plain 1 17, .vramx plain 1 17]

/-- FP32, BF16, FP16 and INT32 in VTYPE. -/
def typed (t : Nat) : State := on .x (fun c => { handled c with csr := { (handled c).csr with vtype := BitVec.ofNat 64 t } })

theorem wit_VectorElements :
    let s := on .x (fun c => c.mstrand .x (fun t => { t with clk := { t.clk with x := 1 } }))
    0 < s.now ∧ s.ctx.lateFlags = [] ∧ 48 * 32 ≤ 2048 ∧ 32 * 64 ≤ 2048 := by decide +kernel
theorem wit_VectorFloat : ∀ i ∈ vfWords, ∀ t ∈ [0, 1, 2],
    (typed t).ready i plain onlyX false ∧ ((typed t).operands i plain).vt ≠ 10 ∧
    ∀ r ∈ [(1 : Reg), 2, 17, 33], ((typed t).operands i plain).vok r = true := by
  unfold State.ready; decide +kernel
theorem wit_VectorLanes : ∀ i ∈ laneWords, (on .x id).ready i plain onlyX false ∧
    ∀ r ∈ [(1 : Reg), 17, 33], ((on .x id).operands i plain).vok r = true := by
  unfold State.ready; decide +kernel
theorem wit_VectorUnary : ∀ i ∈ unaryVectors, ∀ t ∈ [0, 2, 10],
    (typed t).ready i plain onlyX false ∧ ((typed t).operands i plain).vt = t ∧ (typed t).canTrap ∧ (typed t).bundle = false ∧
    (typed t).ctx.flight = [] ∧ ∀ r ∈ [(1 : Reg), 17], ((typed t).operands i plain).vok r = true := by
  unfold State.ready State.canTrap; decide +kernel
theorem wit_VectorReduce : ∀ i ∈ reductions, ∀ t ∈ [0, 2, 10],
    (typed t).ready i plain onlyX false ∧ ∀ r ∈ [(1 : Reg), 17, 33], ((typed t).operands i plain).vok r = true := by
  unfold State.ready; decide +kernel

/-- FP32 to E4M3, ACC48 to FP32, UE4M3 to FP32, and a compare. -/
theorem wit_ConvertAndCompare : (∀ e ∈ [((3 : BitVec 4), (0 : BitVec 4)), (0, 11), (0, 12)],
    let i : Instr := .vcvt plain 1 17 e.1 e.2 false
    let s := on .x id
    s.ready i plain onlyX false ∧ (∀ r ∈ [(1 : Reg), 17], (s.operands i plain).vok r = true) ∧
    (decodeFmt e.2.toNat (((s.operands i plain).v 17).toNat % 2 ^ fmtWidth e.2.toNat)).2 &&& fSINV = 0 ∧
    ((s.operands i plain).v 17) = 0) ∧
    (on .x id).ready (.vcmp plain 1 1 17 2) plain onlyX false ∧
    ∀ r ∈ [(1 : Reg), 17], ((on .x id).operands (.vcmp plain 1 1 17 2) plain).vok r = true := by
  unfold State.ready; decide +kernel

theorem wit_ScaledVectors : ∀ i ∈ [Instr.vqnt plain 1 17 1, .vhist plain 17 1, .vscx plain 1 17 1, .vdq plain 1 17 1],
    let s := recorded (on .x id)
    s.ready i plain onlyX false ∧ (∀ r ∈ [(1 : Reg), 17], (s.operands i plain).vok r = true) ∧
    ((s.operands i plain).resolveHandle 1).map (fun e => e.1) = some 0x1000 ∧
    (match (s.operands i plain).resolveHandle 1 with
      | some (pa, r) =>
        let u := (s.operands i plain).touchRecord pa
        (u.tolerance r).isNone && (match recVersion r u.versel with
          | some ent => ent.admitted && (scaledElems ent.fmt.toNat (u.v 17)).all (fun x => x.2 &&& fSINV == 0)
          | none => false)
      | none => false) = true := by
  unfold State.ready; decide +kernel

theorem wit_RoundingExact : ∀ f ∈ [fp32, bf16, fp16, acc48],
    ∀ w ∈ [0, 1, 2 ^ f.mbits, (2 ^ f.ebits - 1) * 2 ^ f.mbits, 2 ^ (f.ebits + f.mbits)],
    w < 2 ^ (f.ebits + f.mbits + 1) ∧ f.decodeIeee w ≠ .nan := by decide +kernel

/-! ### Metadata, stencil and phase statements -/

theorem wit_MetadataWords :
    (let s := metadata (on .c (xIs 1 0x1000))
     let u := s.operands (.mdbind plain 1 2) plain
     s.ready (.mdbind plain 1 2) plain anyStrand false ∧ (u.x 1).toNat % 128 = 0 ∧
       resolves (u.resolve (u.x 1).toNat 128 .load mdTarget) (fun _ p => inMemory p (fun x => x.pa == 0x1000))) ∧
    (∀ i ∈ [Instr.mdread plain 2 1 1, .mdclose plain 1, .mdset plain 1 1, .mdpm plain 2 1 1, .mdwait plain 1 1],
      let s := recorded (on .x id)
      s.ready i plain anyStrand false ∧
        ((s.operands i plain).resolveHandle 1).map (fun e => e.1) = some 0x1000) := by
  unfold State.ready; decide +kernel

/-- MDCLOSE with nothing outstanding, and with a contribution of its context on its way. -/
theorem wit_MetadataWords_close : ∀ e ∈ [([] : List Contrib), [{ ctx := 1, record := 0x1000, bins := [], zero := 0, nan := 0, ovf := 0, unf := 0, sent := 0 }]],
    let s := { recorded (on .c id) with contribs := e }
    let u := (s.begun (.mdclose plain 1) plain).touchRecord 0x1000
    s.takes (.mdclose plain 1) plain anyStrand false ∧
      (u.handleBusy 1 u.before || u.contribs.any (fun c => c.ctx == s.ctx.id && c.record == 0x1000)) = !e.isEmpty := by
  unfold State.takes State.ready; decide +kernel

/-- MDSET of a block that names E4M3, MDPM of block 0, and MDWAIT for the current version, an older and a newer one. -/
theorem wit_MetadataWords_versions :
    (let s := memIs 0x2000 1 3 (recorded (on .c (xIs 1 0x2000)))
     let m := (s.operands (.mdset plain 1 1) plain).touchRecord 0x1000
     mdsetPriv s = none ∧ (m.x 1).toNat % 16 = 0 ∧
       gives (m.memRead 0x2000 16 0 0 anyTarget) 3 false (fun t => scaledFormat 3 && !t.recHeld 0x1000)) ∧
    (let s := memIs 0x1020 8 (2 ^ 32) (recorded (on .c (xIs 1 0x2000)))
     let m := (s.operands (.mdpm plain 2 1 1) plain).touchRecord 0x1000
     match (s.operands (.mdpm plain 2 1 1) plain).resolveHandle 1 with
     | some (_, r) => (match m.postmark r (0x2000 / 4096) 0 with
       | .ok (.val _ pm _) => (recPostmark r pm).any (fun ent => ent.admitted)
       | _ => false)
     | none => false) = true ∧
    (∀ e ∈ [((0 : Word), (0 : Nat)), (0x8000, 32768), (1, 1), (0x7FFF, 32767)],
      let s := recorded (on .c (xIs 1 e.1))
      let u := (s.begun (.mdwait plain 1 1) plain).touchRecord 0x1000
      s.takes (.mdwait plain 1 1) plain anyStrand false ∧
      (u.resolveHandle 1).map (fun r => (BitVec.ofNat 16 (u.x 1).toNat - (recCur r.2).ver).toNat) = some e.2) ∧
    State.memWf (recorded (on .c id)) := by
  unfold State.takes State.ready State.memWf; decide +kernel

theorem wit_StencilWords :
    (∀ e ∈ [(windowed, true), (xIs 1 0x40, false)],
      let s := on .c e.1
      let i : Instr := .stld plain 5 1
      let u := s.operands i plain
      s.ready i plain anyStrand false ∧ (u.x 1).toNat % 32 = 0 ∧
        gives (u.memRead (u.x 1).toNat 32 0 0 anyTarget) 0 e.2 (fun t =>
          ((t.setSlot 5 0 10).cureSlot 5).watched .load (u.x 1).toNat 32 == none)) ∧
    (∀ i ∈ [Instr.stwr plain 5 1 15, .strd plain 2 5 15, .gset plain 15 1, .gclr plain 1],
      (on .s id).ready i plain anyStrand false) ∧
    ((on .s id).operands (.strd plain 2 5 15) plain).slotBad 5 = false ∧
    ((on .s id).operands (.strd plain 2 5 15) plain).early (.stencil 5) = false := by
  unfold State.ready; decide +kernel

/-- MAZ of tile 0 (ENG 0, OP 3). -/
theorem wit_StencilWords_stamp :
    let i : Instr := .stamp 0 5 0 0x0300
    let s := on .x (fun c => { c with task := { c.task with accmask := 1 }, stencil := [(5, 0x0300)] })
    let u := s.operands i plain
    let st := stampOf (u.slot 5) 0 0x0300
    s.ready i plain notC false ∧ u.landingOwn (.stencil 5) = false ∧ u.slotBad 5 = false ∧ stencilOk st = true ∧
      u.regsPending st = false ∧ engineOf st = .mxe ∧ (u.ctx.queues.get 0).length < queueDepth .mxe ∧ u.inEngine .txe < 8 := by
  unfold State.ready; decide +kernel

/-- A member before its boundary and after it, arrived or not, and with a command still queued. -/
theorem wit_PhaseWords : ∀ i ∈ [Instr.phase plain, .phwt plain 2 1], ∀ e ∈ [(true, 0), (true, 1), (false, 0), (false, 1)],
    let s := member e.1 (BitVec.ofNat 64 e.2) (on .c id)
    let u := s.begun i plain
    s.takes i plain onlyC false ∧ u.ctx.csr.dmrV = true ∧ u.ctx.csr.dmrArr = e.1 ∧ u.phaseBusy u.before = false ∧
    u.boundarySeen = decide (e.2 = 1) := by
  unfold State.takes State.ready; decide +kernel
theorem wit_PhaseWords_busy :
    let s := member false 0 (on .c (fun c => { c with queues := c.queues.set 3 [entry 0x3000] }))
    let u := s.begun (.phase plain) plain
    s.takes (.phase plain) plain onlyC false ∧ u.ctx.csr.dmrV = true ∧ u.ctx.csr.dmrArr = false ∧ u.phaseBusy u.before = true := by
  unfold State.takes State.ready; decide +kernel
/-- PHWT at its limit and one cycle before it. -/
theorem wit_PhaseWords_limit : ∀ e ∈ [(7, false), (8, true)],
    let s := waiting e.1 (member true 0 (on .c (xIs 1 8)))
    let u := s.begun (.phwt plain 2 1) plain
    s.takes (.phwt plain 2 1) plain onlyC false ∧ u.boundarySeen = false ∧ decide ((u.x 1).toNat ≤ u.waited) = e.2 := by
  unfold State.takes State.ready; decide +kernel
theorem wit_PhaseWords_join :
    (∀ e ∈ [(domain 0, true), ({ domain 0 with members := [2] }, false)],
      let s := { on .c (fun c => { xIs 1 5 c with joining := some 5 }) with domains := [(5, some e.1)] }
      let u := s.begun (.dmjoin plain 1) plain
      s.takes (.dmjoin plain 1) plain onlyC false ∧ u.joinSeen 5 = e.2) ∧
    (let s := { on .c (xIs 1 1023) with domains := [(1023, some { domain 0 with members := [] })] }
     let u := s.begun (.dmjoin plain 1) plain
     s.takes (.dmjoin plain 1) plain onlyC false ∧ u.ctx.joining = none ∧ u.ctx.csr.dmrV = false ∧ (u.x 1).toNat < 1024 ∧
       u.joinable 1023 = true) ∧
    (let s := member false 0 (on .c id)
     s.ready (.dmleave plain) plain onlyC false ∧ (s.operands (.dmleave plain) plain).ctx.csr.dmrV = true) := by
  unfold State.takes State.ready; decide +kernel

/-- A byte barrier in a COH page, its count open, met, and overrun; the limit passed and not. -/
theorem wit_ByteBarrierWords :
    (let s := coherent (on .c (fun c => xIs 2 0xFFFFFFFFFFFF (xIs 1 0x40 c)))
     let u := s.operands (.bbpost plain 1 2) plain
     s.ready (.bbpost plain 1 2) plain onlyC false ∧ (u.x 2).toNat < 2 ^ 48 ∧ (u.x 1).toNat % 16 = 0 ∧
       resolves (u.resolve (u.x 1).toNat 16 .atomic atomicTarget) (fun _ p => inMemory p (fun _ => true))) ∧
    (∀ e ∈ [(0, 0, false, false), (0, 8, false, false), (2 ^ 49, 0, true, false), (2 ^ 49 + 2 ^ 50, 0, true, true)],
      let s := memIs 0x48 8 e.1 (coherent (on .c (fun c => xIs 2 (BitVec.ofNat 64 e.2.1) (xIs 1 0x40 (handled c)))))
      let u := s.begun (.bbwt plain 3 1 2) plain
      s.takes (.bbwt plain 3 1 2) plain onlyC false ∧ s.canTrap ∧ s.bundle = false ∧ (u.x 1).toNat % 16 = 0 ∧
      decide ((u.x 2).toNat ≤ u.waited) = decide (e.2.1 = 0) ∧
      resolves (u.resolve (u.x 1).toNat 16 .atomic atomicTarget) (fun t p => inMemory p (fun x =>
        (t.memDw (x.pa + 8)).toNat.testBit 49 == e.2.2.1 && (t.memDw (x.pa + 8)).toNat.testBit 50 == e.2.2.2))) := by
  unfold State.takes State.ready State.canTrap; decide +kernel

/-- A block that holds MAZ in the window, for context 2 of the same address space. -/
theorem wit_RemoteRequest : ∀ f ∈ [(fun s => s), waiting 3],
    let s := f (on .c (fun c => { windowed c with x := (xIs 3 (BitVec.ofNat 64 winBase) (xIs 2 2 c)).x, spad := [(1, 3)] }))
    let s := { s with ctxs := SMap.set none s.ctxs 2 (some { placedCtx 0 .c with id := 2 }) }
    let i : Instr := .req plain 2 3
    let u := s.begun i plain
    s.takes i plain onlyC false ∧ (u.x 3).toNat = winBase ∧ inWindow winBase = true ∧ 0 < u.ctx.spres ∧
    (u.ctxOf (BitVec.ofNat 32 (u.x 2).toNat)).map (fun c => (c.id, c.space.asid)) = some (2, u.ctx.space.asid) ∧
    u.eccFault { va := winBase, len := 64, tgt := .win 0 } false = false ∧
    stencilOk (BitVec.ofNat 256 (spadNat u.ctx.spad 0 32)) = true ∧ spadNat u.ctx.spad 48 16 = 0 ∧
    (u.ctxOf 2).map (fun c => (u.destFull c .mxe, c.canPush .c false false)) = some (false, true) := by
  unfold State.takes State.ready; decide +kernel

/-- What TSPAWN has read: the record of zeros at 0x1000, and that with mode 3, in a queue that is bound, and one that is full. -/
theorem wit_SpawnAndPower : ∀ e ∈ [((0 : Nat), (0 : Nat), true, false), (0x300, 0, false, false), (0, 256, true, true)],
    let s := boundQueue (memIs 0x1010 8 e.1 (on .c (xIs 1 0x1000)))
    let full : List Task := List.replicate e.2.1
      { task := TaskRec.blank, addr := 0, seq := 0, st := .ready, wait := [], since := 0, near := none }
    let s := { s with dies := s.dies.set 0 { (s.die 0) with queues := if e.2.1 = 0 then [] else [(0, full)] } }
    let i : Instr := .tspawn plain 2 1
    let u := s.begun i plain
    s.takes i plain onlyC false ∧ (u.x 1).toNat % 256 = 0 ∧ inWindow (u.x 1).toNat = false ∧
    (match u.memRead 0x1000 256 0 0 memTarget with
      | .ok (.val t v _) =>
        let dws := (List.range 32).map (fun n => BitVec.ofNat 64 (v / 2 ^ (64 * n)))
        (match t.readBlock dws with
          | .ok (.val r _ _) => (r.spawnable (parseTask dws) false == e.2.2.1) && (r.queueFull r.ctx.die 0 == e.2.2.2)
          | _ => false)
      | _ => false) = true := by
  unfold State.takes State.ready; decide +kernel

/-- The limits of a full queue and of a booking: REQTO 0, one cycle early, and passed. -/
theorem wit_SpawnAndPower_limits : ∀ e ∈ [((0 : Nat), (9 : Nat), false), (8, 7, false), (8, 8, true)],
    let s := waiting e.2.1 (on .c (fun c => { xIs 1 64 c with csr := { c.csr with reqto := BitVec.ofNat 64 e.1 } }))
    let i : Instr := .pwreq plain 2 1
    let u := s.begun i plain
    s.takes i plain onlyC false ∧ u.ctx.granted = false ∧ u.ctx.booking = none ∧ 0 < (u.x 1).toNat ∧ (u.x 1).toNat ≤ 64 ∧
    u.ctx.csr.reqto.toNat % 2 ^ 32 = e.1 ∧ u.waited = e.2.1 ∧ decide (e.1 ≠ 0 ∧ e.1 ≤ e.2.1) = e.2.2 := by
  unfold State.takes State.ready; decide +kernel
theorem wit_SpawnAndPower_cases :
    (∀ e ∈ [(0 : Nat), 65], ((on .c (xIs 1 (BitVec.ofNat 64 e))).begun (.pwreq plain 2 1) plain).x 1 = BitVec.ofNat 64 e) ∧
    ((on .c (fun c => { c with granted := true })).begun (.pwreq plain 2 1) plain).ctx.granted = true ∧
    (on .c (fun c => { c with granted := true })).takes (.pwreq plain 2 1) plain onlyC false ∧
    (on .c id).ready (.pwrel plain) plain onlyC false := by
  unfold State.takes State.ready; decide +kernel

/-- Every listed CSR reads; VTYPE and FSTAT are written, by any strand, and CSR 0x040 in S mode. -/
theorem wit_CsrWords :
    (∀ n ∈ csrNumbers, (on .l id).ready (.csrr plain 2 (BitVec.ofNat 9 n)) plain anyStrand false ∧
      Machine.csrListed n = true) ∧
    (let s := on .l handled
     s.canTrap ∧ s.bundle = false ∧ (∀ n ∈ [0x1FF, 0x005, 0x100, 0x00F], ¬ (Machine.csrListed n = true)) ∧
       s.ready (.csrw plain 1 0x008) plain anyStrand false ∧ s.ctx.csr.write 0x008 3 = none) ∧
    (∀ e ∈ [(Instr.csrw plain 1 0x008, 0x008), (.csrs plain 0x00E 1, 0x00E), (.csrc plain 0x00E 1, 0x00E), (.csrw plain 1 0x040, 0x040)],
      (on .x id).ready e.1 plain anyStrand false ∧
      (((on .x id).operands e.1 plain).ctx.csr.write e.2 0).isSome = true ∧ (on .x id).ctx.space.priv ≠ .u) ∧
    (∀ i ∈ [Instr.accr plain 2 15, .esnr plain 2], (on .s id).ready i plain anyStrand false) := by
  unfold State.ready State.canTrap; decide +kernel

/-- The frame a handler returns to: lock-step or apart. -/
def framed (lock : Bool) (tpc tcause : Word) : State :=
  let st : FrameStrand := { pc := 0x100, xfer := none, joined := false, mark := false, since := none, upto := 0, past := false }
  locked (fun c => { c with frame := some { strands := Quad.all st, lockstep := lock, after := none },
                            csr := { c.csr with tcause := tcause, tpc := tpc } })

theorem wit_TrapAndReturn :
    (∀ k ∈ [Strand.c, .l, .x, .s], (on k handled).ready (.trap plain 0x123) plain anyStrand false ∧ (on k handled).canTrap ∧
      (on k handled).bundle = false) ∧
    (∀ s ∈ [framed true 0x108 0x201, framed true 0x204 0x201, framed false 0x204 0x201, framed true 0x100 0x304],
      s.ready (.eret stay) stay onlyC true ∧ s.ctx.csr.act = true ∧ s.ctx.lockstep = true ∧ s.ctx.frame.isSome = true) := by
  unfold State.ready State.canTrap; decide +kernel

theorem wit_SystemWords_tlbi : ∀ n ∈ [(0 : Nat), 0x1000],
    let s := on .c (xIs 2 (BitVec.ofNat 64 n))
    s.takes (.tlbi plain 1 2) plain onlyC false ∧ s.ctx.space.priv ≠ .u ∧
      (s.begun (.tlbi plain 1 2) plain).x 2 = BitVec.ofNat 64 n ∧
      ((s.begun (.tlbi plain 1 2) plain).shootdown 0 0 n).spanHeld 0 0 n = false := by
  unfold State.takes State.ready; decide +kernel
theorem wit_SystemWords_wfe : ∀ e ∈ [(on .c id, false), (on .c (fun c => { c with latch := true }), true)],
    e.1.takes (.wfe plain) plain onlyC false ∧ (e.1.begun (.wfe plain) plain).ctx.latch = e.2 := by
  unfold State.takes State.ready; decide +kernel
theorem wit_SystemWords_ends :
    (on .c id).ready (.fencei plain) plain onlyC false ∧
    ((on .c id).takes (.halt plain) plain onlyC false ∧ (on .c id).ctx.space.priv ≠ .u ∧ (on .c id).bundle = false) ∧
    ((on .c id).takes (.tend plain 1) plain onlyC false ∧
      (((on .c id).begun (.tend plain 1) plain).mctx (fun c => { c with ending := true })).drained = true) := by
  unfold State.takes State.ready; decide +kernel
theorem wit_SystemWords_waitc : ∀ ev ∈ [(0x40 : Nat), 0x41],
    let s := coherent (locked (fun c => { xIs 1 (BitVec.ofNat 64 ev) (xIs 2 0x1FFFE c) with task := { c.task with mode := 1 } }))
    let u := s.begun (.waitc stay 1 2) stay
    s.takes (.waitc stay 1 2) stay onlyC false ∧ s.ctx.lockstep = true ∧ s.ctx.task.mode ≠ 0 ∧ s.bundle = false ∧
    (u.x 1).toNat % 16 ≤ 1 ∧ (popcOp (setBits (u.x 2) 0 0 0)).toNat = 16 ∧
    resolves (u.resolve 0x40 8 .atomic atomicTarget) (fun t p => inMemory p (fun _ => t.drained)) := by
  unfold State.takes State.ready; decide +kernel

/-- A TLBI that must wait for a command on plate 0 that holds a translation of its range. -/
theorem wit_SystemWords_held :
    let s := on .c (xIs 2 0x1000)
    let r : Running := { Running.start s.ctx (entry 0x3000) 0 0 false with begun := true, left := 5, spans := [(0, 64)] }
    let s := { s with plate := { s.plate with running := s.plate.running.set 3 [r] } }
    s.takes (.tlbi plain 1 2) plain onlyC false ∧
    ((s.begun (.tlbi plain 1 2) plain).shootdown 0 0 0x1000).spanHeld 0 0 0x1000 = true := by
  unfold State.takes State.ready; decide +kernel

theorem wit_SystemWords_priv : ∀ i ∈ [Instr.tlbi plain 1 2, .halt plain, .csrw plain 1 0x040, .csrs plain 0x041 1, .csrc plain 0x040 1],
    let s := on .c (fun c => { handled c with space := { c.space with priv := .u } })
    s.ctx.space.priv = .u ∧ s.canTrap ∧ s.bundle = false ∧ s.bump.misplaced i false onlyC false = false := by
  unfold State.canTrap; decide +kernel

theorem wit_Exceptions_load : ∀ z ∈ [(1 : BitVec 3), 2, 3, 5, 6, 7],
    let s := on .l (fun c => xIs 1 0x41 (handled c))
    ∀ i ∈ [Instr.ld plain 2 1 0 0 z, .ldp plain 2 1 0 0 z],
      s.ready i plain onlyL false ∧ s.canTrap ∧ s.bundle = false ∧ s.vok 2 = true ∧
        ((s.operands i plain).x 1).toNat % szAlign z ≠ 0 := by
  unfold State.ready State.canTrap; decide +kernel
theorem wit_Exceptions_store : ∀ z ∈ [(1 : BitVec 3), 2, 3, 7],
    let s := on .s (fun c => xIs 1 0x41 (handled c))
    ∀ i ∈ [Instr.st plain 2 1 0 z, .stp plain 2 1 0 z],
      s.ready i plain onlyS false ∧ s.canTrap ∧ s.bundle = false ∧ s.vok 2 = true ∧
        ((s.operands i plain).x 1).toNat % szAlign z ≠ 0 := by
  unfold State.ready State.canTrap; decide +kernel
/-- A handler running, and none installed. -/
theorem wit_Exceptions_enter : (framed true 0 0x201).ctx.csr.act = true ∧ (on .c id).ctx.csr.act = false ∧
    (on .c id).ctx.csr.vector = 0 := by decide +kernel

/-! ### Engine statements -/

/-- A stencil by its fields (R69). -/
def sten (fields : List (Nat × Nat)) : BitVec 256 := BitVec.ofNat 256 (fields.foldl (fun n f => n + f.2 * 2 ^ (16 * f.1)) 0)

/-- A command at the head of its queue, in a context with 24 granules, every tile and a booking; REGA is a. -/
def heading (st : BitVec 256) (a : Word) (f : Ctx → Ctx) : State :=
  coherent (on .c (fun c => f { c with
    queues := c.queues.set (engineOf st).num [{ entry st with rega := a }], booking := some { size := 64, used := 0 },
    task := { c.task with spg := 24, accmask := 15 } }))

/-- The engine of an operation. -/
def opEng : EngOp → Engine
  | .mwl | .mma | .mdr | .maz | .mas | .mar => .mxe
  | .xtr | .xfw => .txe
  | .uaw | .usm | .uax | .uns => .ude
  | .cpy | .cpyPm | .cpyCv | .cpg | .cps | .cpm | .cpl | .cpz => .cpe

/-- The engine takes the head for operation op, and more holds in the state its body runs in. -/
def runs (s : State) (op : EngOp) (more : State → QEntry → Bool) : Bool :=
  let e := opEng op
  match s.nextHead e with
  | some (c, q, n, b) =>
    ((s.plate.running.get e.num).find? (fun x => !x.begun && opOf x.ent.stencil == some op)).isNone &&
    opOf q.stencil == some op && !(s.focus c.id).entryBad e && more (((s.takeHead e c q n b).commandAcquire q).latchFor (Running.start c q s.cycle n b)) q
  | none => false

def ok (_ : State) (_ : QEntry) : Bool := true

def mwlSt : BitVec 256 := sten [(0, 0x0000), (3, 2), (4, 2), (5, 1), (6, 3)]
def mwlStaged : BitVec 256 := sten [(0, 0x0000), (1, 2), (3, 2), (4, 2), (5, 1), (6, 3)]
def mmaSt : BitVec 256 := sten [(0, 0x0100), (2, 128), (3, 2), (4, 1), (6, 3)]
def mdrSt : BitVec 256 := sten [(0, 0x0200), (3, 0), (4, 2), (5, 1), (8, 2), (6, 3)]
def cpySt : BitVec 256 := sten [(0, 0x3000), (4, 1)]
def cpyPmSt : BitVec 256 := sten [(0, 0x3000), (3, 0), (4, 128), (5, 0x84)]
def cpyCvSt : BitVec 256 := sten [(0, 0x3000), (3, 0), (4, 128), (5, 6), (8, 0)]

theorem wit_EngineStart : ∀ e ∈ [(sten [(0, 0x0300)], EngOp.maz), (sten [(0, 0x0400)], .mas), (sten [(0, 0x0500)], .mar), (mwlSt, .mwl),
      (mmaSt, .mma), (mdrSt, .mdr), (sten [(0, 0x1000), (5, 1), (6, 1)], .xtr), (sten [(0, 0x1100), (6, 1)], .xfw),
      (sten [(0, 0x2000), (6, 1)], .uaw), (sten [(0, 0x2100), (6, 1)], .usm), (sten [(0, 0x2200), (6, 1)], .uax),
      (sten [(0, 0x2300), (6, 1)], .uns), (cpySt, .cpy), (cpyPmSt, .cpyPm), (cpyCvSt, .cpyCv), (sten [(0, 0x3100), (4, 1)], .cpg),
      (sten [(0, 0x3200), (4, 1)], .cps), (sten [(0, 0x3300), (4, 1)], .cpm), (sten [(0, 0x3400), (4, 1)], .cpl),
      (sten [(0, 0x3500), (4, 1)], .cpz)],
    runs (heading e.1 0 id) e.2 ok = true ∧ stencilOk e.1 = true := by decide +kernel

theorem wit_MatrixCommands_tile :
    runs (heading (sten [(0, 0x0300), (2, 3)]) 0 id) .maz (fun u _ => u.ctx.hasTile 3 && SMap.wf 0 u.ctx.spad) = true ∧
    runs (heading (sten [(0, 0x0400), (2, 0), (3, 21503)]) 0 id) .mas (fun u _ =>
      u.ctx.hasTile 0 && (u.spadFault (32 * 21503) 98336 == none) && (u.accBad 0 128 128 == none)) = true ∧
    runs (heading (sten [(0, 0x0500), (2, 1)]) 0 (fun c => { c with spad := [(98312, 1)] })) .mar (fun u _ =>
      u.ctx.hasTile 1 && (u.spadFault 0 98336 == none) && (u.spadBad [(0, 98336)] == none) &&
        decide ((u.ctx.spadAt 98312).toNat < 2) && (spadNat u.ctx.spad 98313 23 == 0)) = true := by decide +kernel

/-- MWL of two dense rows from the scratchpad, and from a landed block of the staging buffer. -/
theorem wit_MatrixCommands_mwl :
    runs (heading mwlSt 0 id) .mwl (fun u q => !(stHv q.stencil) && (stFmt q.stencil == 3) && (kLimit 0 (mxClass 3) ≥ 2) &&
      pitchOk 2 1 (rowBytes 3 2) && (u.spadFault 0 (extent 1 2 (rowBytes 3 2)) == none) &&
      (u.spadBad (pitchRanges 0 1 2 (rowBytes 3 2)) == none)) = true ∧
    runs (heading mwlStaged 0 (fun c => { c with staging := { c.staging with landed := 1 } })) .mwl (fun u q =>
      (fbits q.stencil 1 1 1 == 1) && u.ctx.staging.landed.getLsbD 0 && !(u.ctx.staging.esz.getLsbD 0) &&
        (fmtWidth (stFmt q.stencil) == 8)) = true := by decide +kernel

/-- A weight of two rows by two columns of E4M3, in granule 0. -/
def weight : Weight :=
  { k := 2, n := 2, fmt := 3, sparse := 0, kept := [0, 1], ent := none, elems := [(0, 0x38), (129, 0x38)], scales := [], grans := [0] }

/-- MMA of two rows in granule 1, putting and adding. -/
theorem wit_MatrixCommands_mma : ∀ add ∈ [0, 4],
    runs (heading (sten [(0, 0x0100), (2, 2048), (3, 2), (4, 1), (5, add), (6, 3)]) 0 (fun c => { c with weight := some weight })) .mma
      (fun u q =>
        (u.ctx.weight == some weight) && u.ctx.hasTile 0 &&
        (match u.aEntry q.stencil 2048 1 2 2 with | .ok (3, none, none) => true | _ => false) &&
        (mxClass 3 == mxClass weight.fmt) && pitchOk 2 1 (rowBytes 3 2) &&
        (u.spadFault (32 * 2048) (extent 1 2 (rowBytes 3 2)) == none) &&
        (granulesOf (pitchRanges 2048 1 2 (rowBytes 3 2))).all (fun g => weight.grans.all (fun h => !(g % 4 == h % 4))) &&
        (u.spadBad (pitchRanges 2048 1 2 (rowBytes 3 2)) == none) && (u.accBad 0 2 2 == none)) = true := by decide +kernel

/-- MDR of two rows of E4M3 to the scratchpad, and through the tile dispatch table to a flit. -/
theorem wit_MatrixCommands_mdr :
    runs (heading mdrSt 0 id) .mdr (fun u _ => u.ctx.hasTile 0 && (u.accBad 0 2 2 == none) && pitchOk 2 1 (rowBytes 3 2) &&
      (u.spadFault 0 (extent 1 2 (rowBytes 3 2)) == none)) = true ∧
    runs (memIs 0x2030 8 0 (heading (sten [(0, 0x0200), (2, 4), (4, 2), (7, 0x1000), (8, 2), (6, 3)]) 0 (fun c =>
        { c with task := { c.task with tdt := 0x2000 } }))) .mdr (fun u _ => u.ctx.hasTile 0 && (u.accBad 0 2 2 == none) &&
      (match u.tdtEntry 0 with | .ok _ => true | .error _ => false)) = true := by decide +kernel

theorem wit_TransposeCommands :
    runs (heading (sten [(0, 0x1000), (2, 0), (3, 128), (4, 2), (5, 4), (6, 4)]) 0 id) .xtr (fun u _ =>
      (u.spadFault 0 (extent 4 32 128) == none) && (u.spadFault 4096 (extent 4 32 128) == none) &&
      (u.spadBad (pitchRanges 0 4 32 128) == none)) = true ∧
    runs (heading (sten [(0, 0x1100), (4, 1), (5, 15), (6, 2)]) 0 id) .xfw (fun u _ =>
      (u.spadFault 0 (extent 2 32 64) == none) && (u.spadBad (pitchRanges 0 2 32 64) == none)) = true := by decide +kernel

/-- One group of 64 elements, the arrays apart. -/
theorem wit_UpdateCommands : ∀ e ∈ [(0x2000, EngOp.uaw), (0x2100, .usm), (0x2200, .uax), (0x2300, .uns)],
    runs (heading (sten [(0, e.1), (2, 0), (3, 8), (4, 16), (5, 24), (6, 1), (7, 32)]) 0 id) e.2 (fun u q =>
      SMap.wf 0 u.ctx.spad && [(0, 256), (256, 256), (512, 256), (768, 256), (1024, 64)].all (fun p => u.spadFault p.1 p.2 == none) &&
      (u.spadBad [(0, 256), (256, 256), (512, 256), (768, 256), (1024, 64)] == none) && decide (RMode.ofCode q.rmode.toNat ≠ .sr)) = true ∧
    [(0, 256), (512, 256)].all (fun a => [(256, 256), (1024, 64)].all (fun b => clash a b == false)) = true := by decide +kernel

def goes {α : Type} (g : Go α) : Bool := match g with | .ok _ _ => true | _ => false

def barred (u : State) (q : QEntry) (more : State → Bool) : Bool :=
  match u.barrierOf q with | .ok (b, _) => more b | .error _ => false

/-- CPM into context 2, at the first and the last byte of its reservation. -/
theorem wit_CopyCommands_cpm : ∀ off ∈ [0, 65536 - 32],
    let s := heading (sten [(0, 0x3300), (4, 1)]) (BitVec.ofNat 64 (2 * 2 ^ 32 + off)) id
    let d : Ctx := { placedCtx 0 .c with id := 2, task := { TaskRec.blank with spg := 1 } }
    let s := { s with ctxs := SMap.set none s.ctxs 2 (some d) }
    runs s .cpm (fun u q => (u.ctxOf 2 == some d) && !(u.ctx.id == 2) && (d.space.asid == u.ctx.space.asid) && (off % 32 == 0) &&
      (u.spadFault 0 32 == none) && decide (off + 32 ≤ d.spres * 65536) && (u.spadBad [(0, 32)] == none) &&
      SMap.wf none u.ctxs && SMap.wf false u.ctx.fe && !(u.cpmHeld q) && SMap.wf 0 d.spad && SMap.wf false d.fe) = true := by decide +kernel

/-- CPL, CPZ, and CPY in and out, with and without a barrier at 0x40. -/
theorem wit_CopyCommands_cpy :
    runs (heading (sten [(0, 0x3500), (3, 2048), (4, 1)]) 0 id) .cpz (fun u _ => u.spadFault 65536 32 == none) = true ∧
    ∀ e ∈ [(0, 0), (1, 0), (0, 5), (1, 5)],
      runs (heading (sten [(0, 0x3000), (4, 3), (5, e.1), (7, e.2)]) 0x10020 id) .cpy (fun u q =>
        let q := { q with regb := 0x40 }
        barred u q (fun b => (b.spadFault 0 96 == none) && (b.spadBad [(0, 96)] == none) &&
          (if cpyOut q.stencil then goes (b.engWrite 0x10020 (cpyRh q.stencil) (b.getSpad 0 96))
           else goes (b.copyIn q.stencil 0x10020 0 96)))) = true := by decide +kernel

/-- 32 bytes of a block with postmarks, in and out. -/
theorem wit_CopyCommands_pm : ∀ o ∈ [0, 1],
    runs (recorded (heading (sten [(0, 0x3000), (3, 0), (4, 1), (5, 0x84 + o)]) 0x10000 id)) .cpyPm (fun u q =>
      barred u q (fun b => (b.spadFault 0 32 == none) && (b.spadBad [(0, 32)] == none) &&
        match b.resolveHandle 1 with
        | some (_, l) => goes (goList (fun s p _ => if o = 1 then s.pmOut q.stencil l 0 p else s.pmIn q.stencil l 0 p) b
            (blockParts 0x10000 32) ())
        | none => false)) = true := by decide +kernel

/-- Conversion in of 32 bytes. -/
theorem wit_CopyCommands_cvIn :
    runs (recorded (heading (sten [(0, 0x3000), (4, 1), (5, 6)]) 0x10000 id)) .cpyCv (fun u q =>
      barred u q (fun b => match b.resolveHandle 1 with
        | some (_, l) => (match b.cvEntries q.stencil l 0x10000 32 with
          | .ok t es => (t.spadFault 0 128 == none) && (es.length == 1) &&
            goes (goList (fun s e a => s.cvInBlock q.stencil .rne l e a) t es { at_ := 0, flags := 0, arr := [] })
          | _ => false)
        | none => false)) = true := by decide +kernel

/-- Elements gathered and scattered at the address an index names. -/
theorem wit_CopyCommands_gather : ∀ e ∈ [(0x3100, EngOp.cpg), (0x3200, .cps)],
    runs (heading (sten [(0, e.1), (3, 2), (4, 1), (8, 4)]) 0x10000 (fun c => { c with spad := [(128, 3)] })) e.2 (fun u q =>
      barred u q (fun b => (b.elemAddr q 0 == 0x1000C) && (b.spadFault 64 4 == none) && (b.spadFault 128 4 == none) &&
        (b.spadBad [(128, 4), (64, 4)] == none) && (elemSize q.stencil == 4) && goes (goList (fun s i done =>
          let a := s.elemAddr q i
          if a % 4 ≠ 0 then .stop s .misalign (BitVec.ofNat 64 a)
          else ((if e.1 = 0x3100 then (s.engRead a 4 (cpySb q.stencil) (cpyRh q.stencil)).bind (fun s bs => .ok (s.putSpad 64 bs) ())
            else s.engWrite a (cpyRh q.stencil) (s.getSpad 64 4))).bind (fun s _ => .ok s (done ++ [a]))) b [0] []))) = true := by decide +kernel

/-- Conversion out: the handle, the range and the run over the blocks, here of a copy with none (a block has 4,096 elements, too
many for a test). -/
theorem wit_CopyCommands_cvOut :
    runs (recorded (heading (sten [(0, 0x3000), (5, 7)]) 0x10000 id)) .cpyCv (fun u q =>
      barred u q (fun b => cpyOut q.stencil && (cpyLen q.stencil % 4096 == 0) && match b.resolveHandle 1 with
        | some (_, l) => (b.spadFault 0 0 == none) && (b.spadBad [(0, 0)] == none) &&
          goes (goList (fun s i a => s.cvOutBlock q.stencil .rne l 0 i (0x10000 + 4096 * i) a) b
            (List.range (cpyLen q.stencil / 4096)) Quant.empty)
        | none => false)) = true := by decide +kernel

/-- A command in its last cycle, with no fault and with one. -/
def lastCycle (e : Engine) (st : BitVec 256) (f : Running → Running) (s : State) (more : State → Running → Bool) : Bool :=
  let r : Running := f { Running.start s.ctx (entry st) 0 0 false with begun := true, left := 1 }
  let s := { s with plate := { s.plate with running := s.plate.running.set e.num [r] } }
  (s.plate.running.get e.num).find? (fun x => x.begun && x.input == 0 && x.left == 1 &&
    (match x.strm with | some (_, bs) => decide (bs.length ≤ x.gone) | none => true)) == some r &&
  (s.ctxOf r.ctx).isSome && engineOf r.ent.stencil == e && more (s.focus r.ctx).bump r

theorem wit_EngineTurns_completion :
    (∀ f ∈ [none, some (Cause.tensorOvf, (3 : Word))], lastCycle .cpe 0x3500 (fun r => { r with fault := f }) (on .c id) (fun s r =>
      !(s.barrierBad r) && (s.flagFault r).isNone && r.mis.isNone && r.watch.isNone) = true) ∧
    lastCycle .cpe 0x3500 (fun r => { r with bbar := some (0x40, 0, 1) }) { on .c id with poison := [(1, true)] } (fun s r =>
      s.barrierBad r) = true ∧
    lastCycle .mxe 0x0200 (fun r => { r with tdi := some 0 }) (on .c (fun c => { c with task := { c.task with tdt := 2 ^ 46 } })) (fun s r =>
      !(s.barrierBad r) && (s.flagFault r).isSome) = true := by
  decide +kernel

/-- A head whose guard 1 has resolved to 0 while it asks for 1, one ask that fits, and none. -/
theorem wit_EngineTurns_discard :
    ((heading (sten [(0, 0x3500), (1, 0x0180), (4, 1)]) 0 (fun c => { c with g := [(1, some false)] })).doomed .cpe).isSome = true := by
  decide +kernel
theorem wit_EngineTurns_grant :
    let s := heading mwlSt 0 (fun c => { c with booking := none })
    let s := { s with plate := { s.plate with asks := [(0, 1, 6)] } }
    ((s.die 0).askOrder.flatMap s.asksOf).map (fun a => (a.units, (s.die 0).fits s.cycle a.units)) = [(6, true)] ∧
    ((on .c id).die 0).askOrder.flatMap (on .c id).asksOf = [] := by
  decide +kernel
theorem wit_EngineTurns_cycle : (on .c id).ctx.id ≠ 0 ∧ (on .c id).plate.bound.isSome = true := by decide +kernel

/-! ### Messages, flits and the units of a die -/

/-- A message has reached die b from die a, its neighbour, behind those already there. -/
def reach (a b : Nat) (s : State) (m : Msg) : State :=
  s.mlink a b (fun l => { l with skid := l.skid ++ [{ src := a, dst := b, msg := m }] })

/-- Die 0's row map is being copied: the slice of line 5 among the rows that move. -/
def copying (s : State) : State :=
  s.mdie 0 (fun t => { t with step := some { target := 1, source := 0, mail := none, moving := true, settling := false, wait := 9 } })

def requests : List Msg :=
  [.rd 5 0 0, .wr 5 0 1 0 0 0 false, .wr 5 0 1 0 0 0 true, .atom 640 0 1 0 0 (1, 1) none, .atom 640 0 1 0 0 (1, 1) (some 7)]

/-- Each message as the oldest of its channel from die 1 to die 0, its line idle; a request that waits for a line with an invalidation
outstanding, one that waits no more in its slice's queue, and one that finds the queue full. -/
theorem wit_CoherenceMessages :
    (∀ m ∈ requests ++ [.inv 5, .data 5 0 0, .data 5 3 0, .ack 5 none, .ack 5 (some ((1, 1), 7)), .conflict 5, .retry 5 0 0],
      let s := reach 1 0 (on .c id) m
      s.oldest 1 0 m.chan = some m ∧ State.memWf s) ∧
    (∀ m ∈ requests, let s := reach 1 0 (on .c id) m
      s.request 1 0 = some (false, m) ∧ homeDie (m.line * 128) = 0 ∧ s.sliceCopied 0 5 = false ∧ s.mustWait 0 5 = false ∧
      (s.die 0).sliceFull 5 = false ∧ (reach 0 2 s (.inv 5)).mustWait 0 5 = true) ∧
    (let s := (on .c id).mdie 0 (fun t => { t with waitq := [(1, .rd 5 0 0)] })
     s.request 1 0 = some (true, .rd 5 0 0)) ∧
    (let s := reach 1 0 ((on .c id).mdie 0 (fun t => { t with waitq := List.replicate 64 (2, .rd 5 0 0) })) (.rd 5 0 0)
     s.request 1 0 = some (false, .rd 5 0 0) ∧ s.mustWait 0 5 = true ∧ (s.die 0).sliceFull 5 = true) ∧
    ((List.range 16).any (fun l => (copying (on .c id)).sliceCopied 0 l) || !((on .c id).die 0).sliceMoves 0 1 (sliceOf 5)) = true := by
  unfold State.memWf; decide +kernel

/-- A line that another die shares; an ACK for a line with an answer owed; what CONFLICT finds; and a push of region 3. -/
theorem wit_CoherenceMessages_more :
    (let s := ((on .c id).setSharers 5 0b0110)
     (s.sharers 5).getLsbD 2 = true ∧ (s.die 0).dir.any (fun e => e.line == 5) = true) ∧
    (let s := reach 1 0 ((on .c id).mdie 0 (fun t => { t with dir := [{ line := 5, sharers := 0, owed := [(2, .ack 5 none)] }] })) (.ack 5 none)
     homeDie (5 * 128) = 0 ∧ (s.takeMsg 1 0 (.ack 5 none)).lineBusy 5 = false) ∧
    (let s := reach 1 0 (reach 1 0 (on .c id) (.rd 5 0 0)) (.conflict 5)
     s.oldest 1 0 2 = some (.conflict 5) ∧ s.rdWaits 1 0 5 = some (.rd 5 0 0)) ∧
    (let s := reach 0 1 (reach 1 0 (on .c id) (.conflict 5)) (.data 5 0 0)
     s.oldest 1 0 2 = some (.conflict 5) ∧ s.rdWaits 1 0 5 = none ∧ Msg.data 5 0 0 ∈ s.msgs 0 1) ∧
    (let s := reach 1 0 (on .c id) (.conflict 5)
     s.oldest 1 0 2 = some (.conflict 5) ∧ s.rdWaits 1 0 5 = none ∧ s.msgs 0 1 = []) ∧
    (let s : State := { on .c id with pushes := [(3, 1, [5])] };
      s.pushes.find? (fun p => p.1 == 3) = some (3, 1, [5])) := by
  decide +kernel
theorem wit_rising : rising (((on .c id).send 1 0 (.rd 5 0 0)).send 0 2 (.inv 5)).net ∧ rising (on .c id).writers ∧
    rising (on .c id).ports ∧ rising (on .c id).fat ∧ rising (on .c id).regions ∧ rising (on .c id).resp ∧
    SMap.wf none (on .c id).ctxs = true := by
  unfold rising; decide +kernel

/-- A flit to port p as the next in sequence. -/
def flit (kind : BitVec 3) : Flit :=
  let f : Flit := { crc := 0, off := 0x100, fae := 3, fmt := 0, seq := 0, dstdev := 0, srcdev := 9, len := 64, rop := false, last := true,
                    gen := false, kind := kind, vc := 1, payload := List.replicate 64 5 }
  { f with crc := crcOf f }

theorem crc_own (f : Flit) (c : BitVec 32) : crcOf { f with crc := c } = crcOf f := rfl

theorem wit_FabricFlits_crc : (∀ k, (flit k).crc = crcOf (flit k)) ∧
    ∀ f : Flit, ({ f with crc := crcOf f + 1 } : Flit).crc ≠ crcOf { f with crc := crcOf f + 1 } := by
  refine ⟨fun k => (crc_own _ _).symm, fun f h => ?_⟩
  have e := h.trans (crc_own f _)
  simp at e

theorem wit_FabricFlits_taken : ((on .c id).portOf 2).down = false ∧ (flit 1).dstdev = (on .c id).devId ∧
    (flit 1).seq = ((on .c id).portOf 2).rxSeq ∧ (∀ m v, ((on .c id).portOf m).skid.get v = []) ∧
    (flit 1).srcdev ∉ ((on .c id).portOf 2).frozen ∧ State.memWf (on .c id) := by
  refine ⟨by decide +kernel, by decide +kernel, by decide +kernel, ?_, by decide +kernel, by unfold State.memWf; decide +kernel⟩
  intro m v
  show (Quad.all ([] : List Flit)).get v = []
  unfold Quad.get
  split <;> rfl

/-- Ports that are down, that saw a bad CRC, a wrong number, and a frozen peer. -/
theorem wit_FabricFlits_ports :
    (let s := (on .c id).mport 2 (fun p => { p with down := true }); (s.portOf 2).down = true) ∧
    ({ flit 1 with seq := 1 } : Flit).seq ≠ ((on .c id).portOf 2).rxSeq ∧
    (let s := (on .c id).mport 2 (fun p => p.freeze 9); (flit 1).srcdev ∈ (s.portOf 2).frozen) ∧
    (let s := (on .c id).mport 2 (fun p => { p with fails := 8 }); (s.portOf 2).down = false ∧ 8 ≤ (s.portOf 2).fails) ∧
    (let s := (on .c id).mport 2 (fun p => { p with skid := p.skid.set 1 (List.replicate 8 (flit 1)) });
      8 ≤ ((s.portOf 2).skid.get (flit 1).vc.toNat).length) ∧
    ({ flit 1 with dstdev := 7 } : Flit).dstdev ≠ (on .c id).devId ∧
    (let s := (on .c id).mport 2 (fun p => { p with wait := p.wait.set 1 [flit 1] });
      (s.portOf 2).wait.get 1 ≠ [] ∧ ∀ x ∈ (s.portOf 2).wait.get 1, x.vc = 1) := by
  decide +kernel

/-- The targets of entry 3: this device with a valid window, one that is not valid, and device 9. -/
theorem wit_FabricFlits_aimed :
    (let s := (on .c id).putFat 3 { (on .c id).fatOf 3 with map0 := 0x1, len0 := 1 };
      ((s.fatOf 3).dev false = s.devId ∧ s.fabricPa 3 false 0x1000 64 = none ∧ s.fabricPa 3 false 0xFC0 64 = some 0xFC0 ∧
        plainPlace 0xFC0 = true ∧ statusPlace 0xFC0 = false ∧ (s.beyond 0xFC0 64).isNone = true ∧ s.anyPoison 0xFC0 64 = false)) ∧
    (let s := (on .c id).putFat 3 { (on .c id).fatOf 3 with map0 := 0x13, cur := true };
      (s.fatOf 3).dev false ≠ s.devId ∧ (s.fatOf 3).dev (s.fatOf 3).cur = s.devId) ∧
    (let s := (on .c id).putFat 3 { (on .c id).fatOf 3 with map0 := 0x13 };
      (s.fatOf 3).dev false ≠ s.devId ∧ (s.fatOf 3).dev (s.fatOf 3).cur ≠ s.devId) := by
  decide +kernel

/-- A flit that the new target of a flip holds back, at the port through which its source is reached. -/
theorem wit_FabricFlits_held :
    (({ on .c id with domains := [(0, some { domain 0 with far := [(9, 0, 1)] })] }).putFat 3
      { (on .c id).fatOf 3 with fwd := true }).heldFlit (Config.portOf 9).toNat (flit 1) = true := by
  simp [State.heldFlit, flit]
  decide +kernel

theorem wit_FabricFlits_boundary :
    (let s : State := { on .c id with domains := [(5, some { domain 3 with arrived := [1] })] };
      (s.domain 5).isSome = true ∧ s.boundaryDue 5 = true) ∧
    (on .c id).boundaryDue 5 = false := by decide +kernel

/-! ### Bundles, waits and landings -/

/-- Four words at address 0, in a COH page. -/
def bundled (ws : List Instr) (f : Ctx → Ctx) : State :=
  memIs 0 16 ((List.range 4).foldl (fun n j => n + encodeWord (ws.getD j (.add plain 0 0 0)) * 2 ^ (32 * j)) 0)
    (coherent (locked f))

/-- Lines 0 and 1 of the register space are in the plate's register cache. -/
def cached (s : State) : State :=
  { s with plate := { s.plate with rcache := [{ ctx := 1, line := 0, dirty := false }, { ctx := 1, line := 1, dirty := false }] } }

/-- A line that a push of region 3, in STALL mode, has marked. -/
def stale (s : State) : State :=
  { s with regions := SMap.set { entry := 0, round := 0, pushes := [] } s.regions 3 { entry := 3, round := 0, pushes := [] },
           plate := { s.plate with l1 := [{ line := 0, data := 0, dirty := 0, stamp := 0, marked := true, markAt := 0, region := 3, asid := 0, vpage := 0,
                                            vsize := 0x200000, typ := 0, way := 0, poison := 0, tags := [] }] } }

theorem wit_BundleIssue_fetch :
    (let s := locked (fun c => Ctx.mstrand (handled c) .c (fun t => { t with pc := 4 }));
      s.inLockstep = true ∧ (s.strand .c).pc.toNat % 16 ≠ 0 ∧ s.canTrap) ∧
    (let s := stale (coherent (locked id));
      (match s.bump.fetchBundle [.c, .l, .x, .s] [] with | .error none => true | _ => false) = true) ∧
    (let s := locked (fun c => { handled c with strands := Quad.all (StrandSt.init 0x400000) });
      (s.strand .c).pc.toNat % 16 = 0 ∧ s.canTrap ∧
      (match s.bump.fetchBundle [.c, .l, .x, .s] [] with | .error (some (.page, _)) => true | _ => false) = true) := by
  unfold State.canTrap; decide +kernel

/-- The slots of a bundle once fetched and performed. -/
def performed (s : State) (more : State → List SlotWord → State → List SlotEnd → Bool) : Bool :=
  match s.bump.fetchBundle [.c, .l, .x, .s] [] with
  | .ok (u, ws) =>
    let o := { u with window := u.ctx.p }
    let r := ({ o with bundle := true }).runSlots ws (slotOrder (slotOf ws .s).instr) []
    more o ws r.1 r.2
  | .error _ => false

/-- No strand of the bundle has issued, so its group waits where groupWait says. -/
def anew (u : State) : Bool := [Strand.c, .l, .x, .s].all (fun k => !(u.strand k).mark && !(u.strand k).past)

/-- A bundle with a misaligned load, one with a pop that finds no token, one that stays and one that splits. -/
theorem wit_BundleIssue :
    performed (bundled [.add stay 9 0 0, .ld plain 2 1 0 0 3] (fun c => xIs 1 1 (handled c))) (fun u _ _ es =>
      (match faultOf es false with | some (.l, .misalign, _, _) => true | _ => false) && !u.ctx.csr.act &&
      !(u.ctx.csr.vector == 0)) = true ∧
    performed (bundled [.add stay 9 0 0, .add ⟨8, false⟩ 4 0 0] id) (fun _ _ _ es =>
      (faultOf es false).isNone && !(stallsOf es).isEmpty) = true ∧
    performed (bundled [.add stay 1 2 3] id) (fun u ws _ es =>
      (faultOf es false).isNone && (stallsOf es).isEmpty && anew u &&
      (match u.groupWait (groupOf ws) with | some (.dmem, _) => true | _ => false)) = true ∧
    performed (cached (bundled [.wfe stay] id)) (fun u ws _ es =>
      (faultOf es false).isNone && (stallsOf es).isEmpty && anew u && (u.groupWait (groupOf ws)).isNone &&
      !(waitsOf es).isEmpty && !(holdsOthers es)) = true ∧
    performed (cached (bundled [.trap stay 3] handled)) (fun u ws r es =>
      (faultOf es false).isNone && (stallsOf es).isEmpty && anew u && (u.groupWait (groupOf ws)).isNone && (waitsOf es).isEmpty &&
      (leaveOf es).isNone && (match faultOf es true with | some (.c, .swtrap, _, _) => !r.ctx.csr.act && !(r.ctx.csr.vector == 0) | _ => false)) = true ∧
    [stay, plain].all (fun k => performed (cached (bundled [.add k 1 2 3, .add plain 4 0 0, .add plain 7 0 0, .add plain 10 0 0] id))
      (fun u ws r es =>
        (faultOf es false).isNone && (faultOf es true).isNone && (stallsOf es).isEmpty && (waitsOf es).isEmpty &&
        (leaveOf es).isNone && anew u && (u.groupWait (groupOf ws)).isNone && SMap.wf (Cell.init false) r.ctx.p &&
        ((slotOf ws .c).bits.getLsbD 21 == k.sy))) = true := by decide +kernel

/-- Strand C waits at address 0 in a word that issued n cycles ago. -/
def held (i : Instr) (n : Nat) (f : Ctx → Ctx) : State :=
  memIs 0 4 (encodeWord i) (waiting n (coherent (on .c f)))

theorem wit_WaitEnds :
    ({ on .c (fun c => { c with joining := some 5 }) with domains := [(5, some (domain 0))] }).creationJoin = some 5 ∧
    (let s := member true 1 (held (.phase plain) 3 id); s.creationJoin = none ∧ s.boundaryReady = true ∧ s.bundle = false) ∧
    (let s := held (.phwt plain 2 1) 8 (xIs 1 8); s.waitingC = some (.phwt plain 2 1) ∧ (s.xOfC 1).toNat ≤ s.waitedC) ∧
    (let s := memIs 0x48 8 (2 ^ 49) (held (.bbwt plain 2 1 3) 8 (xIs 1 0x40));
      s.waitingC = some (.bbwt plain 2 1 3) ∧ s.barrierDone 1 = true) ∧
    (let s := held (.bbwt plain 2 1 3) 8 (fun c => xIs 3 8 (xIs 1 0x40 c));
      s.waitingC = some (.bbwt plain 2 1 3) ∧ s.barrierDone 1 = false ∧ (s.xOfC 3).toNat ≤ s.waitedC) := by decide +kernel
theorem wit_WaitEnds_limits : ∀ i ∈ [Instr.req plain 2 3, .tspawn plain 2 1, .pwreq plain 2 1],
    let s := held i 8 (fun c => { c with csr := { c.csr with reqto := 8 } })
    s.waitingC = some i ∧ s.reqtoPassed = true := by decide +kernel
theorem wit_WaitEnds_stale :
    let s := on .l (fun c => Ctx.mstrand { c with csr := { c.csr with staleto := 8 } } .l (fun t => { t with since := some 0 }))
    ({ s with cycle := 8 }).staleStrand = some .l := by decide +kernel

theorem wit_JoinAndLandings :
    (on .c (fun c => { c with strands := Quad.all { StrandSt.init 0 with joined := true } })).joinDue = true ∧
    (on .c id).joinDue = false ∧
    ∀ e ∈ [(false, Arrival.x 3 7, none), (true, .x 3 7, none), (false, .v 5 7, none), (true, .none, none), (false, .none, some 0)],
      let f : InFlight := { strand := .l, atomic := e.1, arr := e.2.1, qp := true, qn := false, clk := Clock.zero, left := 3, due := e.2.2 }
      let s := on .l (fun c => { c with flight := [{ f with left := 0, atomic := true, wait := true }, f] })
      let due (f : InFlight) : Bool := match f.due with | some c => decide (c ≤ s.cycle) | none => false
      s.ctx.flight.find? (if e.1 then (fun f => f.atomic && !f.wait) else
        (fun f => !f.atomic && (if s.ctx.flight.any due then due f else f.due.isNone))) =
        some f ∧ s.ctx.x = [] ∧ s.ctx.lines = [] := by decide +kernel

/-! ### The governor, collectives and fires -/

/-- A contribution to the record at 0x1000. -/
def contrib : Contrib := { ctx := 1, record := 0x1000, bins := [(3, 5)], zero := 1, nan := 0, ovf := 0, unf := 0, sent := 0 }

/-- Policy entry 0: ladder of E4M3 and E3M4 whose first rung spans the bounds, the second the whole range (R231). -/
def ladder (v : Nat) (lo hi : Nat) : BitVec 256 :=
  BitVec.ofNat 256 (v + 2 * 256 ^ 7 + 3 * 256 ^ 8 + 4 * 256 ^ 9 + lo * 256 ^ 12 + hi * 256 ^ 13 + 0x80 * 256 ^ 14 + 0x7F * 256 ^ 15)

/-- The record at 0x1000 closes at a rung of a policy. -/
def closes (rung : Nat) (p : BitVec 256) : State :=
  memIs 0x1000 8 (rung * 2 ^ 12) { recorded (on .c id) with closing := [0x1000], policy := [(0, p)] }

theorem wit_GovernorSteps :
    (on .c id).memWf ∧ rising contrib.bins ∧ (∀ e ∈ contrib.bins, e.1 < 32) ∧
    (let s := { recorded (on .c id) with contribs := [contrib] }; s.memWf ∧ s.contribs = [contrib]) ∧
    (let s : State := { on .c id with closing := [0x1000], fires := [{ ctx := 1, index := 0, dws := [], held := some 0x1000 }] };
      ∀ pa ∈ s.closing, s.recHeld pa = true) := by
  unfold State.memWf rising; decide +kernel
theorem wit_GovernorSteps_closes :
    (closes 0 0).memWf ∧ polV 0 = false ∧
    ∀ e ∈ [(0, ladder 1 0xF0 0xFF, true, false), (1, ladder 1 0xF0 0x10, false, false), (0, ladder 1 0xF0 0x10, false, false)],
      let s := closes e.1 e.2.1
      let r := s.recordAt 0x1000
      let p := s.policyOf (recPolicy r)
      let d := governStep p (recTop r) (recCur r).e (recQuiet r)
      let r0 := min (recRung r) (polLadlen p - 1)
      s.memWf ∧ s.closing.find? (fun q => !(s.recHeld q)) = some 0x1000 ∧ polV p = true ∧ polOk p = true ∧ decide (polHi p r0 < d.1 ∧ r0 + 1 < polLadlen p) = e.2.2.1 := by
  unfold State.memWf; decide +kernel
theorem wit_GovernorSteps_down :
    let s := memIs 0x1000 8 (1 * 2 ^ 12) { recorded (on .c id) with closing := [0x1000], policy := [(0, ladder 1 0xF0 0x10 - 0x70 * 2 ^ 112)] }
    let r := s.recordAt 0x1000
    let p := s.policyOf (recPolicy r)
    let d := governStep p (recTop r) (recCur r).e (recQuiet r)
    polV p = true ∧ polOk p = true ∧ d.1 < polLo p (min (recRung r) (polLadlen p - 1)) ∧ 0 < min (recRung r) (polLadlen p - 1) := by
  decide +kernel
theorem wit_GovernorSteps_store :
    let due (r : List Word) : Bool := recContrib r != 0 && decide (recContrib r ≤ recCloses r)
    let s := { recorded (on .c id) with recStores := [(0x1000, 8, 0x1000100000000, 0)] }
    s.memWf ∧ s.recStores = [(0x1000, 8, 0x1000100000000, 0)] ∧ 0x1000 % 128 + 8 ≤ 128 ∧ due (s.recordAt 0x1000) = false ∧
    (match exec .recordStore s with | .next t => due (t.recordAt 0x1000) | _ => false) = true := by
  unfold State.memWf; decide +kernel

/-- A request entry in domain 5. -/
def request (op : Nat) (sag : Bool) : CollReq :=
  { op := op, rop := false, fmt := 0, sag := sag, group := 5, root := 0, count := 1, seq := 0, src := 0x200, dst := 0x300,
    record := 0x1000, stat := 0x400, tag := 7 }

/-- A collective of the context in focus alone, which has contributed. -/
def coll (op : Nat) (sag : Bool) (code fault : Option Nat) : Collective :=
  { group := 5, seq := 0, ranks := [(0, 0, 1)], parts := [1], far := [], withdrawn := false, asked := false, agreed := none, told := false,
    held := [], code := code, past := false,
    shares := [{ ctx := 1, rank := 0, req := request op sag, ring := 0x100, src := some [0x3F800000], fault := fault,
                 pa := if sag then some 0x1000 else none }] }

/-- Collectives are open in domain 5. -/
def collected (c : Collective) (s : State) : State := { member false 0 s with colls := [c] }

theorem wit_CollectiveRows_ring :
    let s := memIs 0x100 8 17 (memIs 0x108 8 0x400 (memIs 0x110 8 1 (memIs 0x400 8 (6 + 5 * 2 ^ 16) (member false 0 (coherent (on .c id))))))
    let s := { s with dies := s.dies.set 0 { (s.die 0) with rings := [{ seq := 1, owner := .ctx 1, table := 0x100 }] } }
    s.memWf ∧ s.dumpStop = false ∧ (s.ringsOf 0).filter s.ringOn = [(.ctx 1, 0x100)] ∧
    (match s.fabRead (.ctx 1) 0x100 64 with
      | .ok (u, bs) =>
        let w := dwsOf 8 (ofBytes bs)
        bitOf (w.getD 0 0) 0 && !(bitOf (w.getD 0 0) 1) && bitsOf (w.getD 0 0) 5 2 == 4 && bitsOf (w.getD 2 0) 31 0 == 1 &&
        bitsOf (w.getD 3 0) 31 0 == 0 &&
        (match u.fabRead (.ctx 1) (bitsOf (w.getD 1 0) 56 0) 64 with
          | .ok (v, es) =>
            let r := parseReq (dwsOf 8 (ofBytes es))
            bitsOf ((dwsOf 8 (ofBytes es)).getD 0 0) 31 26 == 0 && (v.matchColl 1 r).any (fun c => r.valid c.ranks.length)
          | .error _ => false)
      | .error _ => false) = true := by
  unfold State.memWf; decide +kernel
theorem wit_CollectiveRows_ready :
    (∀ op ∈ [1, 2, 3, 4, 5, 6],
      let c := coll op false none none
      let s := collected c (on .c id)
      s.colls.find? (s.collDue op) = some c ∧ c.shares.findSome? (fun h => h.fault) = none ∧ s.farVals c = some [] ∧
      (on .c id).colls.find? ((on .c id).collDue op) = none) ∧
    (let c := coll 1 false none (some 4)
     let s := collected c (on .c id)
     s.colls.find? (s.collDue 1) = some c ∧ c.shares.findSome? (fun h => h.fault) = some 4) ∧
    (let c := { coll 1 false none none with ranks := [(0, 0, 1), (9, 0, 1)], far := [(9, 0, 1)] }
     let s := collected c (on .c id)
     s.colls.find? (s.collDue 1) = some c ∧ s.farVals c = none ∧
       ({ s with farShares := [{ group := 5, key := 0, who := (9, 0, 1), els := [1] }] } : State).farVals c = some [(1, [1])]) ∧
    (on .c id).colls.find? (fun c => !c.past && c.code.isSome) = none := by decide +kernel
theorem wit_CollectiveRows_agree :
    let s := collected (coll 5 true none none) (recorded (metadata (on .c id)))
    let far := { coll 5 true none none with far := [(9, 0, 1)] }
    s.memWf ∧ s.colls.find? (s.collDue 5) = some (coll 5 true none none) ∧ s.recHeld 0x1000 = false ∧
    s.farEntries 5 0 [] = some [] ∧ s.farEntries 5 0 [(9, 0, 1)] = none ∧
    ({ s with props := [{ group := 5, key := 0, who := (9, 0, 1), fmt := 4, e := 3 }] } : State).farEntries 5 0 far.far = some [(4, 3)] := by
  unfold State.memWf; decide +kernel
theorem wit_CollectiveRows_complete :
    let c := coll 1 false (some 0) none
    let s := collected c (coherent (on .c id))
    s.memWf ∧ s.colls.find? (fun c => !c.past && c.code.isSome) = some c ∧ (s.ctxOf 1).isSome = true ∧
    (match s.settleAll.fabResolve (.ctx 1) 0x400 16 .store with | .ok (_, [p]) => inMemory p (fun _ => true) && p.len == 16 | _ => false) = true := by
  unfold State.memWf; decide +kernel

/-- A captured entry of four bytes, to fabric address entry 1 at 0x300. -/
def fire (op : Nat) : Fire :=
  { ctx := 1, index := 0, dws := [BitVec.ofNat 64 (1 + 2 * op + 5 * 2 ^ 8), 0x200, 0x0010000000000300, 4, 0, 0x400, 0, 0], ranks := [(0, 0, 1)] }

/-- Entry 1 of the fabric address table leads to a base on a device. -/
def fabric (map : Word) (s : State) : State :=
  { s with fat := SMap.set (s.fatOf 0) s.fat 1 { s.fatOf 0 with map0 := map, len0 := 0x1000 } }

/-- A fire of an entry is next. -/
def fired (f : Fire) (s : State) : State := { member false 0 (coherent s) with fires := [f] }

theorem wit_TileFires_held :
    let s := fun (src : Nat) => memIs 0x1008 8 src (coherent (on .c (fun c => { c with task := { c.task with tdt := 0x1000 } })))
    let t := fun (src : Nat) => { s src with dies := (s src).dies.set 0 { ((s src).die 0) with fires := [(1, 0)] } }
    (t 0x200).memWf ∧ rising (t 0x200).writers ∧ (t 0x200).dumpStop = false ∧ ((t 0x200).die 0).fires = [(1, 0)] ∧
    ((t 0x200).captureFire 1 0).isSome = true ∧ ((t 0x800000).captureFire 1 0).isSome = false := by
  unfold State.memWf rising; decide +kernel
theorem wit_TileFires : ∀ op ∈ [0, 1, 2],
    let f := fire op
    let s := fired f (fabric 1 (on .c id))
    s.memWf ∧ s.fires.find? (s.canFire op) = some f ∧ f.ok = true ∧ f.sag = false ∧ s.takesPart f = true ∧ (on .c id).fires.find? ((on .c id).canFire op) = none ∧
    (match s.fireBytes f none with
      | .ok (u, bs) => u.fireDevs f == [u.devId] && bs.length == 4 && bitsOf (f.dw 2) 51 32 == 0 &&
          bitOf ((u.fatOf 1).map (u.fatOf 1).cur) 0 && (u.fatOf 1).dev (u.fatOf 1).cur == u.devId &&
          u.fabricPa 1 (u.fatOf 1).cur 0x300 4 == some 0x300 && plainPlace 0x300 && (u.beyond 0x300 4).isNone && !(u.anyPoison 0x300 4)
      | .error _ => false) = true := by
  unfold State.memWf; decide +kernel
/-- A fire under an agreement that the issuer alone makes, and one whose source lies in no page. -/
theorem wit_TileFires_agree :
    (let f : Fire := { fire 0 with dws := [BitVec.ofNat 64 (9 + 5 * 2 ^ 8 + 2 ^ 18), 0x200, 0x0010000000000300, 4, 0x1000, 0x400, 0, 0] }
     let s := { member false 0 (recorded (metadata (on .c id))) with fires := [f] }
     f.ok = true ∧ f.sag = true ∧ s.fires.find? (s.canFire 0) = some f ∧ s.takesPart f = true ∧ s.matched f = some [f] ∧ s.fireFar f = [] ∧
       s.ownUnmarked f = false ∧ (match s.fireRecords [f] with
         | .ok (u, [(g, pa)]) => g == f && pa == 0x1000 && !(u.recHeld pa) && Memory.wf u.mem
         | _ => false) = true) ∧
    (let f : Fire := { fire 0 with dws := (fire 0).dws.set 1 0x800000 }
     let s := fired f (on .c id)
     s.fires.find? (s.canFire 0) = some f ∧ s.takesPart f = true ∧
       (match s.fireBytes f none with | .error _ => true | .ok _ => false) = true) := by
  decide +kernel
theorem wit_TileFires_far : ∀ down ∈ [(0, false), (1, true)],
    let f := fire 1
    let s := fired f (fabric 7 (on .c id))
    let s := { s with ports := (List.range 16).map (fun p => (p, { Port.init with down := down.2 })) }
    (match s.fireBytes f none with
      | .ok (u, bs) => !((u.fatOf 1).dev (u.fatOf 1).cur == u.devId) && bs.length == 4 &&
          (List.range 16).all (fun m => (u.portOf m).down == down.2)
      | .error _ => false) = true := by decide +kernel
theorem wit_TileFires_stops :
    (let f : Fire := { ctx := 1, index := 0, dws := [] }; f.ok = false ∧ (fired f (on .c id)).fires.find? ((fired f (on .c id)).canFire 0) = some f) ∧
    (let f := { fire 0 with ranks := [] }; let s := fired f (on .c id); s.fires.find? (s.canFire 0) = some f ∧ s.takesPart f = false) ∧
    (let f := { fire 0 with sent := true }; (fired f (on .c id)).fires.find? ((fired f (on .c id)).canFire 0) = some f) := by
  decide +kernel

/-! ### The scheduler, operating points and records -/

/-- A READY task of queue 0. -/
def job (r : TaskRec) : Task :=
  { task := { r with code := 0x40 }, addr := 0x500, seq := 9, st := .ready, wait := [], since := 0, near := none }

/-- Die 0 holds tasks in queue 0 and saved contexts. -/
def queued (ts : List Task) (saved : List (BitVec 32)) (s : State) : State :=
  { s with dies := s.dies.set 0 { (s.die 0) with queues := [(0, ts)], saved := saved } }

/-- The context that TASK_DISPATCH makes of a task, placed. -/
def launched (s : State) (k : Task) (p : Plate) : State :=
  let c := { newCtx s 0 p ((s.baseFor p (s.residents p) k.task.spg).getD 0) k.task with
             placing := some { staged := false, units := k.task.power, mark := 0, seq := some k.seq } }
  (((s.unqueue 0 k).mdie 0 (fun e => { e.stepId with areas := e.areas + 1 })).enter c).place

/-- What TASK_DISPATCH picks on die 0. -/
def picked (s : State) (more : Cand → Option Plate → Bool) : Bool :=
  match (s.candidates 0).findSome? (s.dispatchable 0) with | some (c, p) => more c p | none => false

theorem wit_SchedulerRows_ready :
    let r := TaskRec.blank
    let s := memIs 0x600 8 1 (queued [job r, { job r with st := .queued, wait := [(0, 0x600)] }, { job r with st := .queued, wait := [(0, 0x700)] }] [] (on .c id))
    rising (s.die 0).queues ∧ s.condHolds (0, 0x600) = true ∧ s.condHolds (0, 0x700) = false := by
  unfold rising; decide +kernel
/-- A staged context that waits for its booking, of units the die has and of more than it has. -/
theorem wit_SchedulerRows_placing : ∀ e ∈ [(5, true), (5000, false)],
    let q : Placing := { staged := true, units := e.1, mark := 0, seq := some 9 }
    let s := on .c (fun c => { c with life := .placing, placing := some q })
    s.ctx.placing = some q ∧ q.staged = true ∧ s.bookable q = e.2 ∧ s.placings 0 = (if e.2 then [1] else []) := by decide +kernel
theorem wit_SchedulerRows_pick :
    (on .c id).placings 0 = [] ∧
    (on .c id |>.candidates 0).findSome? ((on .c id).dispatchable 0) = none ∧
    picked (queued [job { TaskRec.blank with spg := 100 }] [] (on .c id)) (fun c p => p.isNone && (match c with | .task k => k.seq == 9 | _ => false)) = true ∧
    (∀ units ∈ [5, 5000],
     let r : TaskRec := { TaskRec.blank with power := units, xs := [(1, 11), (2, 12), (3, 13), (4, 14)] }
     let s := queued [job r] [] (on .c id)
     s.placings 0 = [] ∧ picked s (fun c p => match c, p with
       | .task k, some p => k.seq == 9 && (match (launched s k p).stageAll with
         | .ok v _ => v.bookable { staged := false, units := units, mark := 0, seq := some 9 } == decide (units = 5)
         | _ => false)
       | _, _ => false) = true) := by decide +kernel
theorem wit_SchedulerRows_stages :
    (let s := queued [job { TaskRec.blank with stb := 0x20 }] [] (stale (coherent (on .c id)));
     picked s (fun c p => match c, p with
       | .task k, some p => (match (launched s k p).stageAll with | .wait _ => true | _ => false) | _, _ => false) = true) ∧
    (let s := queued [job { TaskRec.blank with stb := 0x800000 }] [] (on .c id);
     picked s (fun c p => match c, p with
       | .task k, some p => (match (launched s k p).stageAll with | .stop _ _ _ => true | _ => false) | _, _ => false) = true) := by
  decide +kernel
theorem wit_SchedulerRows_saved :
    let c : Ctx := { Ctx.blank with id := 2, life := .saved }
    let s := queued [] [2] { on .c id with ctxs := [(2, some c)] }
    rising (s.die 0).queues ∧ s.ctxOf 2 = some c ∧ s.placings 0 = [] ∧
    picked s (fun c p => p.isSome && (match c with | .saved c => c.id == 2 | _ => false)) = true := by
  unfold rising; decide +kernel
theorem wit_SchedulerRows_preempt :
    (let s := on .c (fun c => { c with saving := true }); (s.saveDue 0) = some s.ctx ∧ s.ctxOf s.ctx.id = some s.ctx) ∧
    (let v := fun (k : Ctx) => { k with task := { k.task with spg := 20 }, plate := 0 }
     let s := queued [job { TaskRec.blank with spg := 8, prio := 3 }] [] { on .c v with cycle := 1000000 }
     s.saveDue 0 = none ∧ s.saving 0 = false ∧ s.victim 0 = some s.ctx ∧ s.ctxOf s.ctx.id = some s.ctx) ∧
    (on .c id).saveDue 0 = none ∧ (on .c id).victim 0 = none := by decide +kernel
theorem wit_SchedulerRows_contins :
    (on .c id).continDue = none ∧
    ∀ e ∈ [(0, false, []), (100, false, []), (100, true, []), (0, false, [Input.flag 0x800000])],
      let c : Contin := { task := { TaskRec.blank with spg := e.1, waitcap := e.2.1, ins := e.2.2 }, die := 0, kind := 0, addr := 0x600 }
      let s := memIs 0x600 8 1 { on .c id with contins := [c] }
      s.continDue = some c ∧ (s.maxSpcap 0 < e.1 ↔ e.1 = 100) ∧
      (s.conditions Space.blank e.2.2 = none ↔ e.2.2 ≠ []) := by decide +kernel

/-- Die 0 steps from a point. -/
def stepping (point target : Nat) (moving settling : Bool) (wait : Nat) : State :=
  let s := on .c (fun c => { c with task := { c.task with spg := 24 } })
  { s with dies := s.dies.set 0 { (s.die 0) with
      point := point, step := some { target := target, source := 0, mail := some ⟨none, 5⟩, moving := moving, settling := settling, wait := wait } } }

/-- Die 0 at a junction temperature and a point. -/
def warm (junction point : Nat) : State :=
  let s := on .c id
  { s with dies := s.dies.set 0 { (s.die 0) with junction := junction, point := point } }

theorem wit_OperatingPoints :
    (∀ e ∈ [(false, false, 0), (true, false, 4), (true, false, 0), (true, true, 0)],
      let s := stepping 6 2 e.1 e.2.1 e.2.2
      let r : OpStep := { target := 2, source := 0, mail := some ⟨none, 5⟩, moving := e.1, settling := e.2.1, wait := e.2.2 }
      (s.die 0).step = some r ∧ r.target < (s.die 0).point ∧ s.moveDone 0 r = (e.1 && e.2.2 == 0) ∧ (s.die 0).pending = []) ∧
    (∀ e ∈ [(false, 0), (false, 4), (true, 0), (true, 4)],
      let s := stepping 2 6 e.1 false e.2
      let r : OpStep := { target := 6, source := 0, mail := some ⟨none, 5⟩, moving := e.1, settling := false, wait := e.2 }
      (s.die 0).step = some r ∧ (s.die 0).point < r.target ∧ s.moveDone 0 r = (e.1 && e.2 == 0)) ∧ ((on .c id).die 0).step = none := by
  decide +kernel
theorem wit_OperatingPoints_lost :
    let s := stepping 6 2 false false 0
    let s := { s with plate := { s.plate with rows := (List.range 17).map (fun r => (r, 3)) } }
    s.ctx.die = 0 ∧ s.ctx.life = .resident ∧ ¬ s.ctx.id = 0 ∧ s.losesRow s.ctx 2 = true := by decide +kernel
theorem wit_OperatingPoints_heat :
    (∀ e ∈ [(95, 7), (95, 6), (105, 6), (105, 3), (115, 6)],
      let s := warm e.1 e.2
      95 ≤ (s.die 0).junction ∧ s.thermalDue 0 none = true ∧ (s.die 0).lowered = none ∧ (s.die 0).stepped = none ∧
      (s.die 0).step = none ∧ (s.die 0).pending = [] ∧ 600 < (s.die 0).budget) ∧
    ((warm 105 6).coolPoint 0).isSome = true := by decide +kernel

theorem wit_RecordEvents_upsets :
    SramArray.memory 64 ∉ (on .c id).soft ∧
    (∀ a ∈ [SramArray.scratchpad 1 0, .accumulator 1 0 1 2, .stencil 1 3, .queue 1 .mxe 0, .memory 64, .tlb 0, .icache 0, .metacache 0],
      let s : State := { on .c id with soft := [a] }; a ∈ s.soft ∧ (s.plateOf 0).id = 0) := by decide +kernel
theorem wit_RecordEvents_corrected :
    (on .c id).correctedDue 0 3 = false ∧
    (let s := on .c id; ({ s with dies := s.dies.set 0 { (s.die 0) with corrected := [(3, 2, 0)] } } : State).correctedDue 0 3) = true := by
  decide +kernel

/-- Plate 0 traces samples to 0x1000. -/
def traced (s : State) : State :=
  { s with plate := { s.plate with trace := some { base := 0x1000, logsz := 12, kinds := 127, interval := 10, widx := 0, lost := 0 } } }

/-- A dump in progress. -/
def dumping (past : Bool) (s : State) : State :=
  { s with dump := some { group := [0], keep := false, mail := none, past := past, ranges := [], recorded := [], images := [], copies := [],
                          closed := [], logs := [] } }

theorem wit_RecordEvents_samples :
    (∀ p ∈ (on .c id).allPlates, (on .c id).sampleDue p = false) ∧
    (let s := traced { on .c id with plate := { (on .c id).plate with active := none } };
      s.plate.active = none ∧ (∀ p ∈ s.allPlates.tail, s.sampleDue p = false) ∧ s.sampleDue s.plate = true) := by decide +kernel
theorem wit_RecordEvents_traced :
    let s := traced (on .c id)
    s.memWf ∧ s.writers = [] ∧ s.plate.id < 512 ∧
    (match s.plate.trace with
      | some c => c.kinds.getLsbD 1 && c.lost == 0 && (match placeOf (c.base.toNat + 64 * (c.widx % 2 ^ c.logsz)) with | .hbm _ => true | _ => false)
      | none => false) = true := by
  unfold State.memWf; decide +kernel
theorem wit_RecordEvents_dump :
    (on .c id).recordDue 0 = false ∧ (dumping false (on .c id)).recordDue 0 = true ∧ (on .c id).markerDue 0 (.die 1 0) = false ∧
    (let s := dumping false ((on .c id).send 1 0 (.marker 0)); s.markerDue 0 (.die 1 0) = true ∧
      (match s.dump with | some p => !p.past && !(p.closed.contains (0, .die 1 0)) | none => false) = true) ∧
    (on .c id).msixDue 0 = false ∧ ({ on .c id with msix := (on .c id).msix.set 0 { last := none, waiting := true, fired := 0 } } : State).msixDue 0 = true := by
  decide +kernel

/-! ### The mailboxes and the host -/

/-- The host's mailbox, and the supervisor's of die 0. -/
def hostMail : Mail := ⟨none, 5⟩
def supMail : Mail := ⟨some 0, 5⟩

/-- A firmware image. -/
def image (n : Nat) : FwImage := { version := 1, counter := n, body := [1], sigEd := [], sigMl := [] }

theorem wit_MailboxSettings_turned :
    rising State.reset.fat ∧ rising State.reset.regions ∧ rising (State.reset.die 0).grants ∧
    State.reset.mailMine hostMail = false ∧ State.reset.mailMine supMail = false ∧ (stepping 6 2 false false 0).mailMine hostMail = true ∧
    (stepping 6 2 false false 0).mailMine supMail = false ∧ Mail.key hostMail ∉ State.reset.spoilt ∧
    State.reset.turnedAway hostMail 5 true = some 1 ∧ State.reset.turnedAway hostMail 1 true = some 1 ∧ (on .c id).turnedAway supMail 0 false = some 4 ∧
    State.reset.turnedAway hostMail 0 false = none ∧ (∀ e ∈ [(1, true), (5, true), (5, false)], (on .c id).turnedAway hostMail e.1 e.2 = none) := by
  unfold rising; decide +kernel
theorem wit_MailboxSettings_images :
    (∀ i, Config.signaturesOk i = true → State.reset.imageOk i = true) ∧
    ({ State.reset with ident := { State.reset.ident with fuses := 3 } } : State).imageOk (image 2) = false ∧
    ∀ n ∈ [0, 3, 65], ({ on .c id with ident := { State.reset.ident with slotA := some (image n) }, control := { (on .c id).control with slot := false } } : State).imageInUse.counter = n := by
  refine ⟨fun i h => ?_, ?_, ?_⟩
  · simp only [State.imageOk, h, Bool.true_and]; exact decide_eq_true (Nat.zero_le _)
  · simp [State.imageOk, image]
  · decide +kernel
theorem wit_MailboxSettings_conditions :
    ((Csrs.init.write 0x040 0).bind (fun r => r.write 0x041 0)).isSome = true ∧
    ((Csrs.init.write 0x040 0xFFFFFFFFFFFFFFFF).bind (fun r => r.write 0x041 0xFFFFFFFFFFFFFFFF)) = none ∧
    (let s := member false 0 (on .c id);
      (s.domain 5).isSome = true ∧ s.domain 6 = none ∧ s.levelUnder (some 7) = none ∧ s.levelUnder none = some 1 ∧ s.levelUnder (some 5) = some 1) ∧
    (let s : State := { on .c id with domains := [(5, some { domain 0 with level := 6 })] }; s.levelUnder (some 5) = some 7) ∧
    polOk 0 = false ∧ polOk (ladder 1 0xF0 0x10) = true ∧
    (on .c id).devid = none ∧ ((on .c id).fatOf 1).arm = false ∧ ((on .c id).fatOf 1).fwd = false := by decide +kernel
theorem wit_MailboxSettings_dies :
    (let d := (on .c id).die 0; ¬ 12 < 4 + d.heldWays.length + d.worstLost d.point ∧ d.carveStarves 4 = false) ∧
    (let d := { (on .c id).die 0 with retn := [(0, { Retn.blank with v := true, ways := 10, held := List.range 10 })] }; 12 < 4 + d.heldWays.length + d.worstLost d.point) ∧
    ((on .c id).die 0).step = none ∧ ((on .c id).die 0).point = 6 ∧ (on .c id).unavailable 0 7 = true ∧ (on .c id).unavailable 0 2 = false ∧
    ((stepping 6 2 false false 0).die 0).step.isSome = true ∧
    ∀ e ∈ [(500, true), (1100, false), (900, false), (1400, true)],
      (decide (e.1 < 600 ∨ 1400 < e.1 ∨ 5200 < (on .c id).budgetSum 0 e.1 + 770 ∨ ((on .c id).die 0).point = 7 ∧ e.1 < 1300)) = e.2 := by
  decide +kernel

/-- A context in a state of its life. -/
def living (l : Life) (f : Ctx → Ctx) : State := on .c (fun c => f { c with life := l })

/-- A held engine fault of a command, delivered. -/
def heldBack : HeldFault :=
  { cause := .page, addr := 0, ent := entry 0, after := false, delivered := true, at_ := 0 }

theorem wit_MailboxControl_contexts :
    (∀ l ∈ [Life.resident, .frozen, .halted, .saved], (living l id).ctxOf 1 = some (living l id).ctx ∧ (living l id).ctx.id = 1 ∧
      (living l id).ctxOf 9 = none ∧ (living l id).turnedAway hostMail 5 true = none) ∧
    (living .frozen id).ctx.csr.eng = false ∧
    (let c := (living .frozen (fun c => { c with csr := { c.csr with tcause := 0x100 }, held := c.held.set 0 (some heldBack) })).ctx;
      c.csr.eng = true ∧ c.held.get 0 = some heldBack ∧ heldBack.delivered = true ∧ heldBack.after = false ∧ heldBack.ent.esn.toNat = c.csr.tesn.toNat) ∧
    (let c := (living .frozen (fun c => { c with csr := { c.csr with tvec := 0x400 } })).ctx; c.csr.act = false ∧ c.csr.vector ≠ 0) ∧
    (living .frozen (fun c => { c with csr := { c.csr with tcause := 0x200 } })).ctx.csr.act = true := by decide +kernel
theorem wit_MailboxControl_masters :
    (on .c id).control.frozen = false ∧ ({ (on .c id).control with frozen := true }).frozen = true ∧ rising State.reset.ports ∧
    (7 : BitVec 12) ∉ ((on .c id).portOf 3).frozen ∧
    (7 : BitVec 12) ∈ ((({ on .c id with ports := [(3, { Port.init with frozen := [7] })] } : State)).portOf 3).frozen ∧
    (let p := (on .c id).plateOf 0; p.id = 0 ∧ rising p.ibps ∧ rising p.ebps ∧ rising p.watches) := by
  unfold rising; decide +kernel
theorem wit_MailboxControl_debug :
    (on .c id).ctx.task.mode = 0 ∧ (on .c (fun c => { c with task := { c.task with mode := 2 } })).ctx.task.mode = 2 ∧
    arrayOwner (.scratchpad 1 8) = some 1 ∧ arrayOwner (.memory 64) = none ∧ SramArray.scratchpad 1 8 ∉ (on .c id).soft ∧
    (∀ e ∈ [(false, true), (true, false)], decide (∃ p ∈ (dumping e.1 (on .c id)).dump.toList, p.past = false) = e.2) ∧
    (on .c id).devId ∈ ([0] : List (BitVec 12)) ∧ (on .c id).devId ∉ ([1] : List (BitVec 12)) ∧
    (on .c id).dump = none ∧ (({ on .c id with dump := (dumping false (on .c id)).dump.map (fun p => { p with recorded := [(0, Die.init 0)] }) } : State).dump.all
      (fun p => p.has 0)) = true ∧
    ((living .saved id).die 2).areas < 1024 ∧ (living .saved id).ctx.die = 0 := by decide +kernel

/-- A page table at 0x4000 maps the first gigabyte to itself, COH; queue 0 of die 0 uses it. -/
def tabled (s : State) : State :=
  let s := memIs 0x4000 8 0x5001 (memIs 0x5000 8 0x6001 (memIs 0x6000 8 0x3F s))
  { s with dies := s.dies.set 0 { (s.die 0) with bind := [(0, some { Space.blank with root := 0x4000 })] } }

/-- The host command function has an entry to take. -/
def posted (s : State) : State := { s with control := { s.control with en := true, hqTail := 1 } }

theorem wit_HostInputs_start :
    State.reset.control.stage = 0 ∧ (on .c id).control.stage = 5 ∧
    (∀ n ∈ [1, 2, 3, 4], ({ State.reset.control with stage := n }).stage = n) ∧ rising State.reset.resp ∧ (on .c id |>.plateOf 3).id = 3 ∧
    ((stepping 6 2 false false 0).die 0).step.isSome = true ∧
    (∀ i, Config.signaturesOk i = true → State.reset.imageOk i = true) ∧
    (let s : State := { State.reset with ident := { State.reset.ident with slotA := some (image 0), slotB := some (image 0), fuses := 3 } };
      s.imageOk (s.slotImage false) = false ∧ s.imageOk (s.slotImage true) = false) := by
  refine ⟨by decide +kernel, by decide +kernel, by decide +kernel, List.Pairwise.nil, by decide +kernel, by decide +kernel,
    wit_MailboxSettings_images.1, ?_, ?_⟩ <;> simp [State.imageOk, State.slotImage, image]
/-- Three bindings: a plate named, one that is taken, one that no die has. -/
theorem wit_HostInputs_binding :
    boundPlates (bindNamed [(0, 131), (1, 131), (2, 200), (3, 7)] 0) 5 = [131, 0, 1, 7, 2] ∧
    bindNamed [(0, 131), (128, 5)] 1 0 = some 5 ∧ rising State.reset.plates ∧
    [0, 5, 511].all (fun p => (State.reset.plateOf p).id == p) = true := by
  unfold rising; decide +kernel
theorem wit_HostInputs_rows :
    (∀ d < 4, (([.die 2] : List RowFail).foldl State.mapRow State.reset).dieFails [.die 2] d = decide (d = 2)) ∧
    (∀ d < 4, State.reset.dieFails [] d = false) := by decide +kernel
theorem wit_HostInputs_queue :
    (on .c id).hqDue = false ∧ (posted (on .c id)).hqDue = true ∧
    (posted (on .c id)).judgeEntry [0] = .invalid ∧
    (posted (boundQueue (on .c id))).judgeEntry [1, 0x800] = .unreadable ∧
    (match (posted (tabled (on .c id))).judgeEntry [1, 0x800] with
      | .valid d k _ => d == 0 && decide (k.spg ≤ (on .c id).maxSpcap 0) && (k.ins).all (fun i => i == .none) | _ => false) = true ∧
    (let s := posted (tabled (on .c id));
     let s : State := { s with dies := s.dies.set 0 { (s.die 0) with queues := [(0, List.replicate 256 (job TaskRec.blank))] } }
     s.judgeEntry [1, 0x800] = .full) := by decide +kernel

/-! ### Steps -/

/-- It is the turn of a slot of plate 0 and nothing stands before it. -/
def turns (s : State) (n : Nat) : Bool :=
  s.nextInput.isNone && s.control.stage == 5 && s.phase == .plate 0 n && s.ctx.plate == 0 && s.plate.active == some s.ctx.id &&
    s.plate.charged == false && s.heldFor.isNone && (s.oldFault n).isNone

/-- The word of strand k decodes. -/
def words (s : State) (k : Strand) (i : Instr) : Bool :=
  let v := if turnOf k = 8 then s.chargeJoined else s
  (!(v.moreTurns (turnOf k)) || !((v.trial k).parts)) && (match v.apartWord k with | .ok (_, j) => j == i | .error _ => false)

/-- Strand k stands at a word. -/
def standing (k : Strand) (i : Instr) : State := memIs 0 4 (encodeWord i) (on k windowed)

theorem wit_StepRunsDecoded_turns :
    ∀ e ∈ [(Strand.c, Instr.addi ⟨8, false⟩ 7 5 1), (.l, .ld plain 5 1 0 0 3), (.x, .vadd plain 1 2 3), (.s, .stamp 1 12 3 0x40)],
      let s := standing e.1 e.2
      turns s (turnOf e.1) = true ∧ s.ctx.lockstep = false ∧ strandTurn (turnOf e.1) = some e.1 ∧ s.sDone = false ∧
      (s.strand e.1).joined = false ∧ s.ctx.ending = false ∧ s.untouched e.1 = true ∧ s.instrStop (s.strand e.1).pc = none ∧
      s.staleStrand = none ∧ words s e.1 e.2 = true := by decide +kernel
theorem wit_StepRunsDecoded_sFirst :
    let s := { standing .s (.stfe plain 1 3) with phase := .plate 0 9 }
    s.sFirst = true ∧ turns s 9 = true ∧ strandTurn 9 = some .s := by decide +kernel
theorem wit_StepRunsDecoded_bundle :
    let s := locked id
    turns s 8 = true ∧ s.ctx.lockstep = true ∧ s.instrStop (s.strand .c).pc = none ∧ s.staleStrand = none ∧
    s.endRow .bundleIssue = .bundleIssue ∧ (∀ e < 4, s.plate.running.get e = []) ∧ s.bundleTraps = false ∧
    (let s := { standing .c (.li plain 5 0x40) with phase := .plate 0 7 }; turns s 7 = true ∧ s.ctx.lockstep = false) := by decide +kernel
theorem wit_StepRunsDecoded_rest :
    ({ State.reset with inbox := [Instr.softError ⟨.memory 0, false⟩] } : State).nextInput = some (.softError ⟨.memory 0, false⟩) ∧
    State.reset.nextInput = none ∧ State.reset.control.stage < 5 ∧
    (let s : State := { State.reset with control := { State.reset.control with stage := 15 } }; s.control.stage = 15 ∧ s.nextInput = none) ∧
    (let s := standing .c (.li plain 5 0x40);
      (match ((s.mctx (fun c => { c with cur := .c })).bump).fetchWord 0 with
        | .word _ w => (match decodeWord w.toNat with | .ok i => i == .li plain 5 0x40 | .error _ => false) | _ => false) = true ∧
      inWindow 0 = false ∧
      (match s.xlate s.ctx.space.asid s.ctx.space.root 0 with
        | .ok (u, x) => !(x.forbids (u.ctx.space.priv == .u) .fetch) && (SMap.get none u.plate.icache x.pa).isNone &&
            !(u.eccFault { va := 0, len := 4, tgt := .mem x } false) &&
            (match u.readPiece { va := 0, len := 4, tgt := .mem x } 0 0 with | .val _ n _ => n == 0x2C028040 | _ => false)
        | .error _ => false) = true) := by decide +kernel

theorem wit_MemoryStaysCanonical : State.reset.memWf ∧ (match step State.reset with | .next _ => true | _ => false) = true ∧
    (standing .c (.li plain 5 0x40)).memWf ∧ (match step (standing .c (.li plain 5 0x40)) with | .next _ => true | _ => false) = true := by
  unfold State.memWf; decide +kernel
theorem wit_TablesStayOrdered : State.reset.ordered ∧ (match step State.reset with | .next _ => true | _ => false) = true := by
  refine ⟨?_, by decide +kernel⟩
  refine ⟨?_, ?_, ?_, ?_, ?_, ?_, rfl, ?_, fun n h => absurd (show polV 0 = true from h) (by decide), ?_, fun e h => nomatch h⟩ <;>
      (try unfold Ctx.ordered) <;> unfold rising <;> decide +kernel
theorem wit_DecodeEncode : ∀ i ∈ [Instr.addi ⟨8, false⟩ 7 5 1, .cmp plain 2 5 6 2 0, .stamp 1 12 3 0x40, .eret stay, .vcvt plain 1 2 3 0 true],
    i.isWord = true ∧ i.wellFormed = true := by decide +kernel

/-! ### Decoding: words written out field by field from the tables of R81 to R87 and the sections on each word -/

/-- A word with its major opcode at bit 26, TK at bit 22, SY at bit 21, and further fields: value and lowest bit (R81). -/
def word (major tk sy : Nat) (fields : List (Nat × Nat)) : Nat :=
  fields.foldl (fun n e => n + e.1 * 2 ^ e.2) (major * 2 ^ 26 + tk * 2 ^ 22 + sy * 2 ^ 21)

/-- The words decode to what they stand for, and encode back. -/
def reads (l : List (Nat × Instr)) : Bool :=
  l.all (fun e => (match decodeWord e.1 with | .ok i => i == e.2 | .error _ => false) && e.2.isWord && e.2.wellFormed && encodeWord e.2 == e.1)

/-- Words that spec/03_words_and_assembly.md gives in hexadecimal. -/
theorem test_decode_examples : reads [(0x2C028040, .li plain 5 0x40), (0x12038A01, .addi ⟨8, false⟩ 7 5 1), (0xC4C30040, .stamp 1 12 3 0x40)] = true := by
  decide +kernel

theorem test_decode_scalar : reads [
    (word 0x00 0 0 [(12, 15), (12, 9), (11, 3), (0, 0)], .add plain 12 12 11),
    (word 0x00 5 1 [(63, 15), (1, 9), (2, 3), (7, 0)], .sar ⟨5, true⟩ 63 1 2),
    (word 0x01 0 0 [(1, 15), (2, 9), (3, 3), (0, 0)], .mul plain 1 2 3),
    (word 0x02 0 0 [(1, 15), (2, 9), (3, 3), (0, 0)], .div plain 1 2 3),
    (word 0x03 0 0 [(1, 15), (2, 9), (0, 0)], .clz plain 1 2),
    (word 0x04 0 0 [(1, 15), (2, 9), (0x1FF, 0)], .addi plain 1 2 0x1FF),
    (word 0x05 0 0 [(1, 15), (2, 9), (5, 0)], .andi plain 1 2 5), (word 0x06 0 0 [(1, 15), (2, 9), (5, 0)], .ori plain 1 2 5),
    (word 0x07 0 0 [(1, 15), (2, 9), (5, 0)], .xori plain 1 2 5), (word 0x08 0 0 [(1, 15), (2, 9), (0, 6), (63, 0)], .shli plain 1 2 63),
    (word 0x09 0 0 [(1, 15), (2, 9), (5, 0)], .slti plain 1 2 5), (word 0x0A 0 0 [(1, 15), (2, 9), (5, 0)], .sltiu plain 1 2 5),
    (word 0x0C 0 0 [(1, 15), (0x7FFF, 0)], .lsi plain 1 0x7FFF), (word 0x0D 0 0 [(1, 15), (2, 9), (3, 3), (0, 0)], .adds1 plain 1 2 3),
    (word 0x0E 0 0 [(1, 15), (2, 9), (3, 3), (7, 0)], .sel plain 1 2 3 7)] = true := by decide +kernel
theorem test_decode_control : reads [
    (word 0x0F 0 0 [(2, 17), (5, 11), (6, 5), (2, 2), (0, 0)], .cmp plain 2 5 6 2 0),
    (word 0x10 0 0 [(3, 17), (7, 11), (61, 5), (5, 2), (0, 0)], .cmpi plain 3 7 61 5 0),
    (word 0x11 0 0 [(1, 17), (2, 13), (3, 9), (0, 0)], .pand plain 1 2 3),
    (word 0x12 0 0 [(1, 19), (0x7FFFF, 0)], .bpt plain 1 0x7FFFF), (word 0x13 0 0 [(2, 15), (9, 9), (0, 0)], .bpr plain 2 9),
    (word 0x14 0 0 [(1, 19), (4, 15), (1, 14), (2, 12), (1, 11)], .jd plain 1 4 true 2 true),
    (word 0x15 0 0 [(7, 9), (3, 3), (0, 0)], .lps plain 7 3), (word 0x16 0 0 [(4, 17), (5, 14), (0, 0)], .vany plain 4 5),
    (word 0x27 0 0 [(9, 9), (17, 4), (0, 0)], .mdbind plain 9 17), (word 0x28 0 0 [(12, 15), (9, 9), (0, 0)], .stld plain 12 9),
    (word 0x29 0 0 [(0, 0)], .phase plain), (word 0x2A 0 0 [(5, 15), (4, 9), (0, 0)], .tspawn plain 5 4),
    (word 0x2B 0 0 [(5, 15), (0x004, 0)], .csrr plain 5 0x004), (word 0x2C 0 0 [(4, 9), (0x004, 0)], .csrw plain 4 0x004),
    (word 0x2D 0 0 [(0x004, 12), (4, 6), (4, 0)], .csrs plain 0x004 4), (word 0x2D 0 1 [(0, 0)], .eret stay),
    (word 0x2E 0 0 [(0x123, 0)], .trap plain 0x123)] = true := by decide +kernel
theorem test_decode_memory : reads [
    (word 0x17 0 0 [(5, 15), (1, 9), (15, 5), (2, 3), (6, 0)], .ld plain 5 1 15 2 6),
    (word 0x18 0 0 [(5, 15), (1, 9), (1, 5), (0, 3), (3, 0)], .ldp plain 5 1 1 0 3), (word 0x19 0 0 [(5, 15), (1, 9), (1, 3), (3, 0)], .st plain 5 1 1 3),
    (word 0x1A 0 0 [(5, 15), (1, 9), (1, 3), (3, 0)], .stp plain 5 1 1 3), (word 0x1B 0 0 [(5, 15), (1, 9), (2, 3), (0, 0)], .ldacq plain 5 1 2),
    (word 0x1B 0 0 [(4, 15), (3, 9), (2, 0)], .ldfe plain 4 3), (word 0x1C 0 0 [(9, 5), (2, 3), (0, 0)], .fence plain 9 2),
    (word 0x1D 0 0 [(1, 15), (2, 9), (3, 3), (0, 0)], .aadd plain 1 2 3), (word 0x1E 0 0 [(1, 15), (2, 9), (3, 3), (0, 0)], .acas plain 1 2 3)] = true := by
  decide +kernel
theorem test_decode_vector : reads [
    (word 0x1F 0 0 [(1, 15), (2, 9), (3, 3), (0, 0)], .vadd plain 1 2 3), (word 0x1F 0 0 [(1, 15), (2, 9), (3, 3), (3, 0)], .vfma plain 1 2 3),
    (word 0x20 0 0 [(1, 15), (2, 9), (3, 3), (0, 0)], .viadd plain 1 2 3), (word 0x21 0 0 [(1, 15), (2, 9), (0, 0)], .vneg plain 1 2),
    (word 0x22 0 0 [(1, 15), (2, 9), (3, 5), (0, 1), (1, 0)], .vcvt plain 1 2 3 0 true),
    (word 0x23 0 0 [(1, 18), (2, 9), (3, 3), (2, 0)], .vcmp plain 1 2 3 2), (word 0x24 0 0 [(1, 15), (2, 9), (3, 3), (0, 0)], .vsel plain 1 2 3),
    (word 0x25 0 0 [(1, 15), (2, 9), (0, 0)], .vradd plain 1 2), (word 0x26 0 0 [(1, 15), (2, 9), (31, 4), (0, 0)], .vqnt plain 1 2 31)] = true := by
  decide +kernel

/-- What the map reserves is rejected: major 0x2F, minor 7 of major 0x02, sz 5 of ST, a CSR number that R88 does not list. -/
theorem test_decode_reserved : [0xBC000000, 0x08000007, word 0x19 0 0 [(5, 15), (1, 9), (5, 0)], word 0x2B 0 0 [(5, 15), (0x1FF, 0)]].all
    (fun w => match decodeWord w with | .error _ => true | .ok _ => false) = true := by decide +kernel
theorem test_decodeTableWord : decodeTableWord 32 0x12038A01 = some (.addi ⟨8, false⟩ 7 5 1) ∧ decodeTableWord 32 0xBC000000 = none := by
  decide +kernel

/-- Each check of WellFormed refuses a term. -/
theorem test_ill_formed : [Instr.cmp plain 1 2 3 7 0, .cmp plain 1 2 3 0 3, .cmpi plain 1 2 3 7 0, .cmpi plain 1 2 3 0 3, .st plain 1 2 0 5,
    .stp plain 1 2 0 5, .vcvt plain 1 2 0 0 false, .gset plain 0 0, .gclr plain 0, .csrr plain 1 0x1FF, .csrw plain 1 0x1FF, .csrs plain 0x1FF 1,
    .csrc plain 0x1FF 1].all (fun i => !i.wellFormed) = true := by decide +kernel

/-! ### Single steps, with results that the spec states -/

/-- x3 after a word of strand C with x17 = a and x33 = b. -/
def result (i : Instr) (a b : Word) : Option Word :=
  match exec i (on .c (fun c => xIs 17 a (xIs 33 b c))) with
  | .next t => some (SMap.get (Cell.init 0) t.ctx.x 3).val
  | _ => none

theorem test_div_zero : result (.div plain 3 17 33) 7 0 = some 0xFFFFFFFFFFFFFFFF ∧ result (.rem plain 3 17 33) 7 0 = some 7 := by decide +kernel
theorem test_div_wraps : result (.div plain 3 17 33) 0x8000000000000000 0xFFFFFFFFFFFFFFFF = some 0x8000000000000000 ∧
    result (.rem plain 3 17 33) 0x8000000000000000 0xFFFFFFFFFFFFFFFF = some 0 := by decide +kernel
theorem test_sar_six_bits : result (.sar plain 3 17 33) 0xFFFFFFFFFFFFFFF0 66 = some 0xFFFFFFFFFFFFFFFC := by decide +kernel
theorem test_add_wraps : result (.add plain 3 17 33) 0xFFFFFFFFFFFFFFFF 2 = some 1 := by decide +kernel
theorem test_adds3 : result (.adds3 plain 3 17 33) 1 0x10 = some 0x81 := by decide +kernel
theorem test_step_runs : (match step (standing .c (.li plain 5 0x40)) with
    | .next t => (SMap.get (Cell.init 0) t.ctx.x 5).val == 0x40 && (t.strand .c).pc == 4 && t.phase == .plate 0 9
    | _ => false) = true := by decide +kernel
theorem test_withFetchWord : (match step (State.reset.withFetchWord 32 0x2C028040) with
    | .next t => (SMap.get (Cell.init 0) t.ctx.x 5).val == 0x40
    | _ => false) = true := by decide +kernel

end Sys2Proof.Tests
end

section
/-! PROOFS. Tables and dies after a write, the accept journal, and plates by identifier: what the statements about the host and the
staged start read from a state. -/

namespace Sys2Proof.Machine

/-! ### Sparse tables whose keys rise -/

theorem rising_cons {α : Type} (e : Nat × α) (m : SMap α) : rising (e :: m) ↔ SMap.below e.1 m ∧ rising m := by
  simp [rising, SMap.below, List.pairwise_cons]

/-- Writing the default takes an entry out and leaves every other key. -/
theorem get_set_default {α : Type} [DecidableEq α] (d : α) (m : SMap α) (k i : Nat) (h : rising m) :
    SMap.get d (SMap.set d m k d) i = if i = k then d else SMap.get d m i := by
  induction m with
  | nil => simp [SMap.set]
  | cons e m ih =>
    obtain ⟨hb, hm⟩ := (rising_cons e m).mp h
    obtain ⟨j, u⟩ := e
    have below_get : ∀ n ≤ j, SMap.get d m n = d := fun n hn =>
      SMap.get_below d m n (fun e he => Nat.lt_of_le_of_lt hn (hb e he))
    rcases Nat.lt_trichotomy k j with hkj | rfl | hjk
    · have hj : j ≠ k := by omega
      simp only [SMap.set, hkj, if_true]
      split
      · next hi => simp [SMap.get, hi, hkj, hj]
      · rfl
    · simp only [SMap.set, Nat.lt_irrefl, if_true, if_false, SMap.get]
      grind
    · have hkj : ¬ k < j := by omega
      have hne : k ≠ j := by omega
      simp only [SMap.set, hkj, hne, if_false, SMap.get, ih hm]
      grind

/-- Reading a table whose keys rise after a write of any value. -/
theorem get_set_of_rising {α : Type} [DecidableEq α] (d : α) (m : SMap α) (k i : Nat) (v : α) (h : rising m) :
    SMap.get d (SMap.set d m k v) i = if i = k then v else SMap.get d m i := by
  by_cases hv : v = d
  · subst hv; exact get_set_default v m k i h
  · exact SMap.get_set_of_ne d m k v hv i

/-! ### Dies -/

/-- Fours with the same elements are equal. -/
theorem quad_ext {α : Type} {q r : Quad α} (h : ∀ i, q.get i = r.get i) : q = r := by
  obtain ⟨q0, q1, q2, q3⟩ := q
  obtain ⟨r0, r1, r2, r3⟩ := r
  exact (Quad.mk.injEq ..).mpr ⟨h 0, h 1, h 2, h 3⟩

/-- The die that was changed reads as changed. -/
@[simp] theorem die_mdie_same (s : State) (d : Nat) (f : Die → Die) : (s.mdie d f).die d = f (s.die d) := by
  match d with
  | 0 | 1 | 2 | _ + 3 => rfl

/-- A change of one die leaves each die changed by it or as it was. -/
theorem die_mdie_cases (s : State) (d e : Nat) (f : Die → Die) :
    (s.mdie d f).die e = f (s.die e) ∨ (s.mdie d f).die e = s.die e := by
  match d, e with
  | 0, 0 | 1, 1 | 2, 2 | _ + 3, _ + 3 => exact .inl rfl
  | 0, 1 | 0, 2 | 0, _ + 3 | 1, 0 | 1, 2 | 1, _ + 3 | 2, 0 | 2, 1 | 2, _ + 3 | _ + 3, 0 | _ + 3, 1 | _ + 3, 2 => exact .inr rfl

/-- What a change of a die leaves of it, it leaves of every die. -/
theorem mdie_keeps {β : Type} (g : Die → β) (s : State) (d e : Nat) (f : Die → Die) (h : ∀ t, g (f t) = g t) :
    g ((s.mdie d f).die e) = g (s.die e) := by
  rcases die_mdie_cases s d e f with he | he <;> rw [he]
  exact h _

/-! ### The state after reset -/

/-- Every plate is blank after reset, in focus or not. -/
theorem plateOf_reset (p : Nat) : State.reset.plateOf p = Plate.init p := by
  unfold State.plateOf
  split
  · next h => exact congrArg Plate.init h
  · rfl

/-- Every die after reset is its initial value. -/
theorem die_reset (d : Nat) (h : d < 4) : State.reset.die d = Die.init d := by
  match d, h with
  | 0, _ | 1, _ | 2, _ | 3, _ => rfl

theorem policyOf_reset (n : Nat) : polV (State.reset.policyOf n) = false := by
  show polV 0 = false
  decide

theorem ordered_blank : Ctx.blank.ordered := by
  refine ⟨rfl, rfl, rfl, rfl, List.Pairwise.nil, List.Pairwise.nil, fun i hi => ?_⟩
  match i, hi with
  | 0, _ | 1, _ | 2, _ | 3, _ => rfl

theorem ordered_reset : State.reset.ordered := by
  have none_rises : ∀ {α : Type}, rising ([] : SMap α) := List.Pairwise.nil
  refine ⟨none_rises, none_rises, none_rises, none_rises, none_rises, none_rises, rfl, fun d hd => ?_, fun n h => ?_, ordered_blank,
    fun e he => nomatch he⟩
  · rw [die_reset d hd]
    exact ⟨none_rises, none_rises⟩
  · rw [policyOf_reset n] at h
    cases h

theorem fatOf_reset (e : Nat) : (State.reset.fatOf e).arm = false ∧ (State.reset.fatOf e).fwd = false ∧
    ∀ g, bitOf ((State.reset.fatOf e).map g) 0 = false := by
  refine ⟨rfl, rfl, fun g => ?_⟩
  cases g <;> show bitOf 0 0 = false <;> decide

/-- No region but 0 has an entry, and every round is 0 (R286, R287). -/
theorem region_reset (r : Nat) : (r ≠ 0 → (State.reset.region r).entry = 0) ∧ (State.reset.region r).round = 0 := by
  unfold State.region
  split
  · next h => exact ⟨fun hr => absurd h hr, rfl⟩
  · exact ⟨fun _ => rfl, rfl⟩

/-- Settles O57, table by table: an empty one reads as its default. -/
theorem resetValues : Obligations.ResetValues := by
  unfold Obligations.ResetValues
  refine ⟨rfl, rfl, fun d hd => ?_, policyOf_reset, rfl, fun r => (region_reset r).1, fun r => (region_reset r).2, fatOf_reset, rfl,
    fun p => ?_, fun _ _ => rfl, fun _ => rfl, rfl, fun _ => rfl, rfl, ordered_reset⟩
  · rw [die_reset d hd]
    exact ⟨rfl, rfl, rfl, rfl, rfl, rfl, rfl, rfl, fun _ => rfl, fun _ => rfl, fun _ => rfl, fun _ => rfl⟩
  · rw [plateOf_reset]
    exact ⟨rfl, rfl, fun _ => rfl⟩

end Sys2Proof.Machine
end

section
/-! PROOFS. The host queue (R374, R379): the accept journal's newest entries, acceptance of a task, and ENQUEUE. -/

namespace Sys2Proof.Machine

/-! ### The newest entries of the accept journal (R338) -/

theorem keepLast_append_one {α : Type} (n : Nat) (l : List α) (x : α) : keepLast (n + 1) (l ++ [x]) = keepLast n l ++ [x] := by
  unfold keepLast
  rw [List.length_append, List.length_singleton, Nat.add_sub_add_right, List.drop_append_of_le_length (Nat.sub_le _ _)]

theorem keepLast_keepLast {α : Type} (n m : Nat) (l : List α) (h : n ≤ m) : keepLast n (keepLast m l) = keepLast n l := by
  unfold keepLast
  rw [List.drop_drop]
  congr 1
  simp only [List.length_drop]
  omega

theorem mem_keepLast_succ {α : Type} {n : Nat} {l : List α} {x : α} (h : x ∈ keepLast n l) : x ∈ keepLast (n + 1) l :=
  (List.drop_sublist_drop_left l (by omega)).mem h

/-- An entry stands among the newest n of die d's accept journal. -/
def State.newest (s : State) (d n : Nat) (e : JEntry) : Prop := e ∈ keepLast n (s.die d).journal

/-- The entry that JOURNAL appends on die d. -/
def State.journalEntry (s : State) (d kind source : Nat) (status : BitVec 32) (object : Word) (plate : Nat) (detail : List Word) : JEntry :=
  JEntry.mk s.jseq kind source d status object plate detail

section
variable (s : State) (d kind source : Nat) (status : BitVec 32) (object : Word) (plate : Nat) (detail : List Word)

theorem journal_ctx : (s.journal d kind source status object plate detail).ctx = s.ctx := rfl
theorem journal_mem : (s.journal d kind source status object plate detail).mem = s.mem := rfl
theorem journal_control : (s.journal d kind source status object plate detail).control = s.control := rfl

/-- JOURNAL changes the journal and its index on one die. -/
theorem journal_die (e : Nat) : ((s.journal d kind source status object plate detail).die e) =
    ((s.mdie d (fun t => { t with
      journal := keepLast 65536 (t.journal ++ [s.journalEntry d kind source status object plate detail]), widx := t.widx + 1 })).die e) := rfl

/-- What does not read the journal is the same of every die. -/
theorem journal_keeps {β : Type} (g : Die → β) (e : Nat) (h : ∀ (t : Die) j w, g { t with journal := j, widx := w } = g t) :
    g ((s.journal d kind source status object plate detail).die e) = g (s.die e) := by
  rw [journal_die]
  exact mdie_keeps g s d e _ (fun t => h t _ _)

/-- The appended entry is the newest. -/
theorem newest_journal : (s.journal d kind source status object plate detail).newest d 1
    (s.journalEntry d kind source status object plate detail) := by
  unfold State.newest
  rw [journal_die, die_mdie_same, keepLast_keepLast 1 65536 _ (by omega), keepLast_append_one]
  simp

/-- An older entry moves back by one at most. -/
theorem newest_journal_of_newest (k n : Nat) (e : JEntry) (hn : n < 65536) (h : s.newest k n e) :
    (s.journal d kind source status object plate detail).newest k (n + 1) e := by
  unfold State.newest at h ⊢
  rw [journal_die]
  rcases die_mdie_cases s d k _ with hd | hd <;> rw [hd]
  · rw [keepLast_keepLast (n + 1) 65536 _ (by omega), keepLast_append_one]
    exact List.mem_append_left _ h
  · exact mem_keepLast_succ h

end

/-- A newest entry is logged. -/
theorem logged_of_newest {s : State} {d n : Nat} {e : JEntry} (h : s.newest d n e) :
    s.logged d e.kind e.source e.status e.object :=
  ⟨e, List.mem_of_mem_drop h, rfl, rfl, rfl, rfl⟩

/-! ### An entry of the host queue is taken (R379) -/

/-- The host queue of s moves past its entry, in a state j that has logged it: HQ_HEAD, QOVF and vector 1 (R374, R379). -/
def State.passEntry (s j : State) : State :=
  ({ j with control := ({ j.control with hqHead := s.control.hqHead + 1 }).judge }).signal 1

section
variable (s j : State)

@[simp] theorem passEntry_ctx : (s.passEntry j).ctx = j.ctx := rfl
@[simp] theorem passEntry_mem : (s.passEntry j).mem = j.mem := rfl
@[simp] theorem passEntry_die : (s.passEntry j).die = j.die := rfl
@[simp] theorem passEntry_logged : (s.passEntry j).logged = j.logged := rfl
@[simp] theorem passEntry_hqHead : (s.passEntry j).control.hqHead = s.control.hqHead + 1 := rfl
@[simp] theorem passEntry_msix : ((s.passEntry j).msix.get 1).waiting = true := rfl

end

/-- The state after the HOSTCMD entry. -/
def State.hostcmd (s : State) (e : HqEntry) (status seq : Nat) : State :=
  s.journal 0 7 0 (BitVec.ofNat 32 status) (s.control.hqHead.setWidth 64) 0 [e.getD 2 0, BitVec.ofNat 64 seq, 0, 0]

/-- The host queue has moved past the entry at HQ_HEAD, with the status logged as HOSTCMD. -/
def State.hqTook (s t : State) (status : BitVec 32) : Prop :=
  t.control.hqHead = s.control.hqHead + 1 ∧ t.logged 0 7 0 status (s.control.hqHead.setWidth 64) ∧ (t.msix.get 1).waiting = true ∧
    t.ctx = s.ctx ∧ t.mem = s.mem

section
variable (s : State) (e : HqEntry) (status seq : Nat)

theorem entryTaken_eq : s.entryTaken e status seq = s.passEntry (s.hostcmd e status seq) := rfl

theorem entryTaken_die : (s.entryTaken e status seq).die = (s.hostcmd e status seq).die := by
  rw [entryTaken_eq, passEntry_die]

/-- Die 0 logs HOSTCMD with the entry's index, HQ_HEAD moves on and vector 1 waits. -/
theorem entryTaken_took : s.hqTook (s.entryTaken e status seq) (BitVec.ofNat 32 status) := by
  have hlog : (s.hostcmd e status seq).logged 0 7 0 (BitVec.ofNat 32 status) (s.control.hqHead.setWidth 64) :=
    logged_of_newest (newest_journal s _ _ _ _ _ _ _)
  rw [entryTaken_eq]
  refine ⟨passEntry_hqHead s _, ?_, passEntry_msix s _, ?_, ?_⟩
  · rwa [passEntry_logged]
  · rw [passEntry_ctx]; exact journal_ctx s _ _ _ _ _ _ _
  · rw [passEntry_mem]; exact journal_mem s _ _ _ _ _ _ _

/-- The queues of every die stay. -/
theorem entryTaken_queues (d : Nat) : ((s.entryTaken e status seq).die d).queues = (s.die d).queues := by
  rw [entryTaken_die]
  exact journal_keeps s _ _ _ _ _ _ _ Die.queues d (fun _ _ _ => rfl)

/-- An older entry of a journal moves back by one at most. -/
theorem entryTaken_newest (k n : Nat) (x : JEntry) (hn : n < 65536) (h : s.newest k n x) :
    (s.entryTaken e status seq).newest k (n + 1) x := by
  unfold State.newest
  rw [entryTaken_die]
  exact newest_journal_of_newest s _ _ _ _ _ _ _ k n x hn h

end

/-! ### Acceptance (R325 to R327) -/

/-- SPCAP of a die does not depend on journals. -/
theorem maxSpcap_journal (s : State) (d kind source : Nat) (status : BitVec 32) (object : Word) (plate : Nat) (detail : List Word) (k : Nat) :
    (s.journal d kind source status object plate detail).maxSpcap k = s.maxSpcap k := by
  have hp : (s.journal d kind source status object plate detail).judgePoint k = s.judgePoint k :=
    journal_keeps s d kind source status object plate detail
      (fun t => match t.step with | some p => min p.target t.point | none => t.point) k (fun _ _ _ => rfl)
  unfold State.maxSpcap
  rw [hp]
  rfl

/-- The state after the ACCEPT entry. -/
def State.accepting (s : State) (d : Nat) (addr : Word) (source : Nat) : State := s.journal d 1 source 0 addr 0 []

/-- An accepted record fails at once, or its task joins its queue with the conditions that do not hold yet. -/
theorem acceptTask_cases (s : State) (d : Nat) (t : TaskRec) (addr : Word) (source : Nat) (near : Option Nat) :
    (∃ c, (s.acceptTask d t addr source near).1 = (s.accepting d addr source).failTask d c) ∨
    ∃ w, (s.acceptTask d t addr source near).1 = (s.accepting d addr source).putTask d t addr w near := by
  simp only [State.acceptTask, State.accepting]
  split
  · exact .inl ⟨_, rfl⟩
  · split
    · exact .inl ⟨_, rfl⟩
    · exact .inr ⟨_, rfl⟩

/-- A record that a plate can hold and that declares nothing to wait for joins its queue. -/
theorem acceptTask_ready (s : State) (d : Nat) (t : TaskRec) (addr : Word) (source : Nat) (near : Option Nat)
    (hcap : t.spg ≤ s.maxSpcap d) (hins : t.ins = []) :
    (s.acceptTask d t addr source near).1 = (s.accepting d addr source).putTask d t addr [] near := by
  have hfits : ¬ ((s.journal d 1 source 0 addr 0 []).maxSpcap d < t.spg ∧ t.waitcap = false) := by
    rw [maxSpcap_journal]
    omega
  simp only [State.acceptTask, State.accepting, if_neg hfits, hins, State.conditions, List.foldl_nil, List.filter_nil]

/-- Acceptance leaves the context in focus, memory and the control page. -/
theorem acceptTask_frame (s : State) (d : Nat) (t : TaskRec) (addr : Word) (source : Nat) (near : Option Nat) :
    (s.acceptTask d t addr source near).1.ctx = s.ctx ∧ (s.acceptTask d t addr source near).1.mem = s.mem ∧
    (s.acceptTask d t addr source near).1.control = s.control := by
  rcases acceptTask_cases s d t addr source near with ⟨c, h⟩ | ⟨w, h⟩ <;> rw [h] <;> exact ⟨rfl, rfl, rfl⟩

/-- ACCEPT is one of the two newest entries of the die. -/
theorem acceptTask_newest (s : State) (d : Nat) (t : TaskRec) (addr : Word) (source : Nat) (near : Option Nat) :
    (s.acceptTask d t addr source near).1.newest d 2 (s.journalEntry d 1 source 0 addr 0 []) := by
  have h1 : (s.accepting d addr source).newest d 1 (s.journalEntry d 1 source 0 addr 0 []) := newest_journal s d 1 source 0 addr 0 []
  rcases acceptTask_cases s d t addr source near with ⟨c, h⟩ | ⟨w, h⟩ <;> rw [h]
  · exact newest_journal_of_newest _ _ _ _ _ _ _ _ d 1 _ (by omega) h1
  · have hj : (((s.accepting d addr source).putTask d t addr w near).die d).journal = ((s.accepting d addr source).die d).journal :=
      mdie_keeps Die.journal _ d d _ (fun _ => rfl)
    unfold State.newest
    rw [hj]
    exact mem_keepLast_succ h1

/-- A task that waits for nothing stands READY in its queue. -/
theorem putTask_ready (s : State) (d : Nat) (t : TaskRec) (addr : Word) (near : Option Nat) :
    ∃ q ∈ SMap.get [] ((s.putTask d t addr [] near).die d).queues t.queue, q.task = t ∧ q.addr = addr ∧ q.st = .ready := by
  unfold State.putTask
  rw [die_mdie_same]
  simp only [SMap.get_set_of_ne _ _ _ _ (List.append_ne_nil_of_right_ne_nil _ (List.cons_ne_nil _ _)), if_true]
  exact ⟨_, List.mem_append_right _ (List.mem_singleton.mpr rfl), rfl, rfl, rfl⟩

/-! ### ENQUEUE -/

/-- The entry at HQ_HEAD. -/
def State.hqEntry (s : State) : HqEntry := SMap.get [] s.hq (s.control.hqHead.toNat % 1024)

theorem exec_enqueue_idle (s : State) (h : s.hqDue = false) : exec .enqueue s = .next s :=
  congrArg Host.Outcome.next (if_pos h)

/-- What ENQUEUE does when it is due, by its judgement of the entry. -/
theorem exec_enqueue_due (s : State) (h : s.hqDue = true) :
    exec .enqueue s = .next (match s.judgeEntry s.hqEntry with
      | .unreadable => { s with control := { s.control with frozen := true } }
      | .full => s
      | .invalid => s.entryTaken s.hqEntry 2 0
      | .valid d t va => (s.acceptTask d t va 0 none).1.entryTaken s.hqEntry 0 (s.acceptTask d t va 0 none).2) := by
  have hdue : ¬ s.hqDue = false := by simp [h]
  exact congrArg Host.Outcome.next (if_neg hdue)

theorem exec_enqueue_invalid (s : State) (h : s.hqDue = true) (hj : s.judgeEntry s.hqEntry = .invalid) :
    ∃ t, exec .enqueue s = .next t ∧ s.hqTook t 2 ∧ t.dies.map (fun (d : Die) => d.queues) = s.dies.map (fun (d : Die) => d.queues) := by
  refine ⟨s.entryTaken s.hqEntry 2 0, ?_, entryTaken_took s _ 2 0, ?_⟩
  · rw [exec_enqueue_due s h, hj]
  · refine quad_ext fun i => ?_
    rw [Quad.get_map, Quad.get_map]
    exact entryTaken_queues s s.hqEntry 2 0 i

theorem exec_enqueue_valid (s : State) (h : s.hqDue = true) (d : Nat) (k : TaskRec) (va : Word)
    (hj : s.judgeEntry s.hqEntry = .valid d k va) :
    ∃ t, exec .enqueue s = .next t ∧ s.hqTook t 0 ∧ t.logged d 1 0 0 va ∧
      (k.spg ≤ s.maxSpcap d → k.ins = [] → ∃ q ∈ SMap.get [] (t.die d).queues k.queue, q.task = k ∧ q.addr = va ∧ q.st = .ready) := by
  obtain ⟨hctx, hmem, hcontrol⟩ := acceptTask_frame s d k va 0 none
  have took := entryTaken_took (s.acceptTask d k va 0 none).1 s.hqEntry 0 (s.acceptTask d k va 0 none).2
  refine ⟨(s.acceptTask d k va 0 none).1.entryTaken s.hqEntry 0 (s.acceptTask d k va 0 none).2, ?_, ?_, ?_, fun hcap hins => ?_⟩
  · rw [exec_enqueue_due s h, hj]
  · unfold State.hqTook at took ⊢
    rwa [hctx, hmem, hcontrol] at took
  · exact logged_of_newest (entryTaken_newest _ _ 0 _ d 2 _ (by omega) (acceptTask_newest s d k va 0 none))
  · rw [entryTaken_queues, acceptTask_ready s d k va 0 none hcap hins]
    exact putTask_ready _ d k va none

end Sys2Proof.Machine
end

section
/-! PROOFS. The host's writes, the resets, and stages 1 to 3 of the staged start (R7, R374, R375, R379 to R381). -/

namespace Sys2Proof.Machine

/-! ### The queue's tail and the control page (R374, R375) -/

/-- One entry behind a new tail: it reads back, and QOVF follows the tail (R375, R379). -/
theorem exec_hqTailWrite_one (s : State) (v : BitVec 32) (n : BitVec 10) (e : List Word) (he : e ≠ []) :
    ∃ t, exec (.hqTailWrite v [(n, e)]) s = .next t ∧ t.control.hqTail = v ∧ SMap.get [] t.hq n.toNat = e ∧
      t.control.qovf = decide (1024 < (v - s.control.hqHead).toNat) ∧ t = { s with hq := t.hq, control := t.control } := by
  refine ⟨_, rfl, rfl, ?_, rfl, rfl⟩
  show SMap.get [] (SMap.set [] s.hq n.toNat e) n.toNat = e
  rw [SMap.get_set_of_ne [] s.hq n.toNat e he, if_pos rfl]

/-- MB: DONE and OVR clear where 1 is written; GO is set, or OVR when a command runs already (R375). -/
theorem writeMb_bits (c : Control) (v : Word) :
    (c.writeMb v).done = (c.done && !(bitOf v 1)) ∧ (c.writeMb v).go = (c.go || bitOf v 0) ∧
    (c.writeMb v).ovr = ((c.ovr && !(bitOf v 2)) || (bitOf v 0 && c.go)) := by
  unfold Control.writeMb
  cases bitOf v 0 <;> cases c.go <;> simp

theorem exec_controlPageWrite (s : State) (off : BitVec 12) (v : Word) :
    exec (.controlPageWrite off v) s = .next (
      if off = 0x008 then { s with control := s.control.writeMb v }
      else if off = 0x010 then { s with control := ({ s.control with hqTail := v.setWidth 32 }).judge }
      else if off = 0x020 ∧ s.control.stage = 5 then { s with control := { s.control with en := bitOf v 0 } }
      else s) := rfl

/-- Each field of the control page by its access code (R6, R375). -/
theorem controlPageWrite_fields (s : State) (v : Word) :
    (∃ t, exec (.controlPageWrite 0x008 v) s = .next t ∧ t = { s with control := t.control } ∧
      t.control.done = (s.control.done && !(bitOf v 1)) ∧
      t.control.go = (s.control.go || bitOf v 0) ∧
      t.control.ovr = ((s.control.ovr && !(bitOf v 2)) || (bitOf v 0 && s.control.go))) ∧
    (∃ t, exec (.controlPageWrite 0x010 v) s = .next t ∧ t.control.hqTail = v.setWidth 32 ∧
      t.control.qovf = decide (1024 < (v.setWidth 32 - s.control.hqHead).toNat) ∧ t = { s with control := t.control }) ∧
    (s.control.stage = 5 → exec (.controlPageWrite 0x020 v) s = .next { s with control := { s.control with en := bitOf v 0 } }) ∧
    (s.control.stage ≠ 5 → exec (.controlPageWrite 0x020 v) s = .next s) ∧
    ∀ off : BitVec 12, off ≠ 0x008 → off ≠ 0x010 → off ≠ 0x020 → exec (.controlPageWrite off v) s = .next s := by
  refine ⟨⟨{ s with control := s.control.writeMb v }, ?_, rfl, writeMb_bits s.control v⟩,
    ⟨{ s with control := ({ s.control with hqTail := v.setWidth 32 }).judge }, ?_, rfl, rfl, rfl⟩, fun h => ?_, fun h => ?_,
    fun off h8 h10 h20 => ?_⟩
  · simp [exec_controlPageWrite]
  · simp [exec_controlPageWrite]
  · simp [exec_controlPageWrite, h]
  · simp [exec_controlPageWrite, h]
  · simp only [exec_controlPageWrite, h8, h10, h20, false_and, if_false]

/-! ### The resets (R7, R374, R381) -/

/-- A response that a function-level reset leaves to come is a supervisor's, as it was (R374). -/
theorem dropHostMail_some (m : Option Mail) (k : Mail) (h : dropHostMail m = some k) : m = some k ∧ k.sup.isSome = true := by
  obtain ⟨m', hm', hk⟩ := Option.bind_eq_some_iff.mp h
  split at hk
  · cases hk
  · next hn =>
    cases hk
    exact ⟨hm', by simpa [Option.isSome_iff_ne_none] using hn⟩

/-- The host mailbox clears, the other responses stay, and a running step keeps no response to the host (R374). -/
theorem exec_functionLevelReset (s : State) :
    ∃ t, exec .functionLevelReset s = .next t ∧ t.control = { s.control with go := false, done := false, ovr := false } ∧
      (rising s.resp → SMap.get none t.resp 0 = none) ∧ (∀ k, k ≠ 0 → rising s.resp → SMap.get none t.resp k = SMap.get none s.resp k) ∧
      t.ctx = s.ctx ∧ t.mem = s.mem ∧ ∀ d : BitVec 2, ∀ r, (s.die d.toNat).step = some r →
        ∃ q, (t.die d.toNat).step = some q ∧ q = { r with mail := q.mail } ∧
          (∀ k, q.mail = some k → r.mail = some k ∧ k.sup.isSome = true) := by
  refine ⟨_, rfl, rfl, fun hr => ?_, fun k hk hr => ?_, rfl, rfl, fun d r hr => ?_⟩
  · show SMap.get none (SMap.set none s.resp 0 none) 0 = none
    rw [get_set_of_rising none s.resp 0 0 none hr, if_pos rfl]
  · show SMap.get none (SMap.set none s.resp 0 none) k = _
    rw [get_set_of_rising none s.resp 0 k none hr, if_neg hk]
  · refine ⟨{ r with mail := dropHostMail r.mail }, ?_, rfl, fun k => dropHostMail_some r.mail k⟩
    unfold State.die at hr ⊢
    rw [Quad.get_map, hr]
    rfl

/-- The device as power-on reset leaves it before its ROM judges the slots: reset values but the fuses and the two slots, and the
ROM measured (R7, R381, R383). -/
def State.romStart (s : State) : State :=
  ({ State.reset with
    ident := { slotA := s.ident.slotA, slotB := s.ident.slotB, fuses := s.ident.fuses, m := Quad.all 0 },
    fresh := s.fresh, inbox := s.inbox }).measure 0 Config.romDigest

/-- Stage 1 with an accepted slot. -/
def State.romAccepts (s : State) (b : Bool) : State :=
  { s with control := { s.control with stage := 1, slot := b, dieok := 15 } }

theorem exec_powerOnReset_eq (s : State) : exec .powerOnReset s = .next (match s.romStart.romVerdict with
    | .error c => s.romStart.failStage none c
    | .ok b => (s.romStart.romAccepts b).measure 1 (Config.sha3 (s.romStart.romAccepts b).imageInUse.body)) := rfl

/-- The ROM takes slot A, else slot B, else fails; it judges by the fuses and the slots alone (R381). -/
theorem romVerdict_cases (s : State) :
    (s.imageOk (s.slotImage false) = true ∧ s.romStart.romVerdict = .ok false) ∨
    (s.imageOk (s.slotImage false) = false ∧ s.imageOk (s.slotImage true) = true ∧ s.romStart.romVerdict = .ok true) ∨
    (s.imageOk (s.slotImage false) = false ∧ s.imageOk (s.slotImage true) = false ∧ ∃ c, s.romStart.romVerdict = .error c) := by
  have same (b : Bool) : s.romStart.imageOk (s.romStart.slotImage b) = s.imageOk (s.slotImage b) := rfl
  unfold State.romVerdict
  simp only [same]
  cases s.imageOk (s.slotImage false)
  · cases s.imageOk (s.slotImage true)
    · refine .inr (.inr ⟨rfl, rfl, ?_⟩)
      simp only [Bool.false_eq_true, if_false]
      split <;> exact ⟨_, rfl⟩
    · exact .inr (.inl ⟨rfl, rfl, rfl⟩)
  · exact .inl ⟨rfl, rfl⟩

/-- What power-on reset gives whatever the ROM finds (R7, R380, R383). -/
def State.poweredOn (s t : State) : Prop :=
  t.mem = [] ∧ t.ctx = Ctx.blank ∧ t.ctxs = [] ∧ t.dies = State.reset.dies ∧ t.cycle = 0 ∧
    t.ident.fuses = s.ident.fuses ∧ t.ident.slotA = s.ident.slotA ∧ t.ident.slotB = s.ident.slotB ∧
    t.ident.m.q0 = extend 0 Config.romDigest

/-- An accepted slot: stage 1, four good dies, and its image measured (R380, R381, R383). -/
def State.romTook (t : State) (b : Bool) : Prop :=
  (t.control.stage = 1 ∧ t.control.slot = b ∧ t.control.dieok = 15) ∧ t.ident.m.q1 = extend 0 (Config.sha3 t.imageInUse.body)

theorem exec_powerOnReset_accepted (s : State) (b : Bool) (h : s.romStart.romVerdict = .ok b) :
    ∃ t, exec .powerOnReset s = .next t ∧ s.poweredOn t ∧ t.romTook b := by
  refine ⟨(s.romStart.romAccepts b).measure 1 (Config.sha3 (s.romStart.romAccepts b).imageInUse.body), ?_, ?_, ?_⟩
  · rw [exec_powerOnReset_eq, h]
  · exact ⟨rfl, rfl, rfl, rfl, rfl, rfl, rfl, rfl, rfl⟩
  · exact ⟨⟨rfl, rfl, rfl⟩, rfl⟩

theorem exec_powerOnReset_failed (s : State) (c : Nat) (h : s.romStart.romVerdict = .error c) :
    ∃ t, exec .powerOnReset s = .next t ∧ s.poweredOn t ∧ t.control.stage = 15 := by
  refine ⟨s.romStart.failStage none c, ?_, ⟨rfl, rfl, rfl, rfl, rfl, rfl, rfl, rfl, rfl⟩, rfl⟩
  rw [exec_powerOnReset_eq, h]

/-- Power-on reset, by what the ROM finds in the two slots (R380, R381). -/
theorem exec_powerOnReset (s : State) : ∃ t, exec .powerOnReset s = .next t ∧ s.poweredOn t ∧
    (let ok (b : Bool) : Prop := s.imageOk (s.slotImage b) = true;
      (ok false → t.control.stage = 1 ∧ t.control.slot = false ∧ t.control.dieok = 15) ∧
      (¬ ok false → ok true → t.control.stage = 1 ∧ t.control.slot = true ∧ t.control.dieok = 15) ∧
      (ok false ∨ ok true → t.ident.m.q1 = extend 0 (Config.sha3 t.imageInUse.body)) ∧
      (¬ ok false → ¬ ok true → t.control.stage = 15)) := by
  rcases romVerdict_cases s with ⟨hA, hv⟩ | ⟨hA, hB, hv⟩ | ⟨hA, hB, c, hv⟩
  · obtain ⟨t, ht, hon, hstage, hm⟩ := exec_powerOnReset_accepted s false hv
    exact ⟨t, ht, hon, fun _ => hstage, fun h => absurd hA h, fun _ => hm, fun h => absurd hA h⟩
  · obtain ⟨t, ht, hon, hstage, hm⟩ := exec_powerOnReset_accepted s true hv
    exact ⟨t, ht, hon, fun h => by simp [hA] at h, fun _ _ => hstage, fun _ => hm, fun _ h => absurd hB h⟩
  · obtain ⟨t, ht, hon, hstage⟩ := exec_powerOnReset_failed s c hv
    exact ⟨t, ht, hon, fun h => by simp [hA] at h, fun _ h => by simp [hB] at h, fun h => by simp [hA, hB] at h, fun _ _ => hstage⟩

/-! ### Stages 2 and 3 (R268, R380) -/

/-- A number with bit d taken out has bit d clear. -/
theorem getLsbD_clear (k : BitVec 4) (d : Nat) (h : d < 4) :
    (BitVec.ofNat 4 (k.toNat - k.toNat / 2 ^ d % 2 * 2 ^ d)).getLsbD d = false := by
  match d, h with
  | 0, _ | 1, _ | 2, _ | 3, _ => revert k; decide

/-- A search over the four dies finds a failing die, or none fails. -/
theorem find_die_some {p : Nat → Bool} {d : Nat} (h : [0, 1, 2, 3].find? p = some d) : d < 4 ∧ p d = true := by
  have hm : d ∈ List.range 4 := List.mem_of_find?_eq_some h
  exact ⟨List.mem_range.mp hm, List.find?_some h⟩

theorem find_die_none {p : Nat → Bool} (h : [0, 1, 2, 3].find? p = none) : ∀ d < 4, p d = false := by
  intro d hd
  have hm : d ∈ List.range 4 := List.mem_range.mpr hd
  simpa using List.find?_eq_none.mp h d hm

theorem exec_hbmTraining_eq (s : State) (passed : BitVec 4) :
    exec (.hbmTraining passed) s = .next (if s.control.stage ≠ 1 ∧ s.control.stage ≠ 2 then s
      else match [0, 1, 2, 3].find? (fun d => !(passed.getLsbD d)) with
        | some d => s.failStage (some d) (0x10 + d)
        | none => { s with control := { s.control with stage := 3 } }) := rfl

theorem exec_hbmTraining_idle (s : State) (passed : BitVec 4) (h1 : s.control.stage ≠ 1) (h2 : s.control.stage ≠ 2) :
    exec (.hbmTraining passed) s = .next s := by
  rw [exec_hbmTraining_eq, if_pos ⟨h1, h2⟩]

theorem exec_hbmTraining_passed (s : State) (h : s.control.stage = 1 ∨ s.control.stage = 2) :
    exec (.hbmTraining 15) s = .next { s with control := { s.control with stage := 3 } } := by
  rw [exec_hbmTraining_eq, if_neg (by omega)]
  rfl

theorem exec_hbmTraining_failed (s : State) (passed : BitVec 4) (h : s.control.stage = 1 ∨ s.control.stage = 2) (hp : passed ≠ 15) :
    ∃ t d, exec (.hbmTraining passed) s = .next t ∧ t = { s with control := t.control } ∧ t.control.stage = 15 ∧ d < 4 ∧
      passed.getLsbD d = false ∧ t.control.fcode = BitVec.ofNat 8 (0x10 + d) ∧ t.control.dieok.getLsbD d = false := by
  rw [exec_hbmTraining_eq, if_neg (by omega)]
  cases hf : [0, 1, 2, 3].find? (fun d => !(passed.getLsbD d)) with
  | none =>
    have hall := find_die_none hf
    refine absurd (BitVec.eq_of_getLsbD_eq fun i hi => ?_) hp
    have hi' : (15 : BitVec 4).getLsbD i = true := by
      match i, hi with
      | 0, _ | 1, _ | 2, _ | 3, _ => rfl
    rw [hi']
    simpa using hall i hi
  | some d =>
    obtain ⟨hd, hfail⟩ := find_die_some hf
    exact ⟨_, d, rfl, rfl, rfl, hd, by simpa using hfail, rfl, getLsbD_clear s.control.dieok d hd⟩

/-- The row maps do not reach memory. -/
theorem mapRow_mem (s : State) (f : RowFail) : (s.mapRow f).mem = s.mem := by
  cases f with
  | main p r k | spare p n k | regLine p b l k => simp only [State.mapRow, State.putPlate]; split <;> rfl
  | l2Way d i w k | die d => rfl

theorem foldl_mapRow_mem (fails : List RowFail) (s : State) : (fails.foldl State.mapRow s).mem = s.mem := by
  induction fails generalizing s with
  | nil => rfl
  | cons f fails ih => rw [List.foldl_cons, ih, mapRow_mem]

theorem exec_rowTesting_idle (s : State) (fails : List RowFail) (h : s.control.stage ≠ 3) : exec (.rowTesting fails) s = .next s :=
  congrArg Host.Outcome.next (if_pos h)

/-- Stage 3 builds the row maps, measures them, and goes on or names a failing die (R268, R380, R383). -/
theorem exec_rowTesting_eq (s : State) (fails : List RowFail) (h : s.control.stage = 3) :
    ∃ m, exec (.rowTesting fails) s = .next (match [0, 1, 2, 3].find? ((fails.foldl State.mapRow s).dieFails fails) with
      | some d => ((fails.foldl State.mapRow s).measure 2 m).failStage (some d) (0x20 + d)
      | none => { (fails.foldl State.mapRow s).measure 2 m with
          control := { (fails.foldl State.mapRow s).control with stage := 4 } }) :=
  ⟨_, congrArg Host.Outcome.next (if_neg (fun hne => hne h))⟩

theorem exec_rowTesting (s : State) (fails : List RowFail) (h : s.control.stage = 3) :
    let u := fails.foldl State.mapRow s
    let pass : Prop := ∀ d < 4, u.dieFails fails d = false
    ∃ t, exec (.rowTesting fails) s = .next t ∧ t.plate = u.plate ∧ t.plates = u.plates ∧ t.dies = u.dies ∧ t.mem = s.mem ∧
      (pass → t.control.stage = 4) ∧ (¬ pass → t.control.stage = 15 ∧ ∃ d < 4, t.control.fcode = BitVec.ofNat 8 (0x20 + d)) := by
  intro u pass
  have hmem : u.mem = s.mem := foldl_mapRow_mem fails s
  obtain ⟨m, hm⟩ := exec_rowTesting_eq s fails h
  refine ⟨_, hm, ?_⟩
  cases hf : [0, 1, 2, 3].find? (u.dieFails fails) with
  | none => exact ⟨rfl, rfl, rfl, hmem, fun _ => rfl, fun hp => absurd (find_die_none hf) hp⟩
  | some d =>
    obtain ⟨hd, hfail⟩ := find_die_some hf
    refine ⟨rfl, rfl, rfl, hmem, fun hp => ?_, fun _ => ⟨rfl, d, hd, rfl⟩⟩
    rw [hp d hd] at hfail
    cases hfail

end Sys2Proof.Machine
end

section
/-! PROOFS. Plate binding (R11, R34): the physical plates of a die's local indices, and the plates they are put on. -/

namespace Sys2Proof.Machine

/-! ### The choice of a physical plate (R11) -/

/-- The physical plate of local index i: the pick after those before it. -/
def boundAt (named : Nat → Option Nat) (i : Nat) : Nat := bindPick (named i) (boundPlates named i)

theorem boundPlates_eq_map (named : Nat → Option Nat) (n : Nat) : boundPlates named n = (List.range n).map (boundAt named) := by
  induction n with
  | zero => rfl
  | succ n ih =>
    rw [List.range_succ, List.map_append, ← ih]
    rfl

theorem mem_boundPlates (named : Nat → Option Nat) (n p : Nat) : p ∈ boundPlates named n ↔ ∃ j < n, boundAt named j = p := by
  simp [boundPlates_eq_map]

theorem getD_boundPlates (named : Nat → Option Nat) (n i : Nat) (h : i < n) : (boundPlates named n).getD i 0 = boundAt named i := by
  simp [boundPlates_eq_map, h]

/-- While fewer than 132 are taken, one is free. -/
theorem exists_free (taken : List Nat) (h : taken.length < 132) : ∃ p < 132, p ∉ taken := by
  refine Decidable.byContradiction fun hnone => ?_
  have hsub : List.range 132 ⊆ taken := fun p hp =>
    Decidable.byContradiction fun hfree => hnone ⟨p, List.mem_range.mp hp, hfree⟩
  have hlen := List.nodup_range.length_le_of_subset hsub
  rw [List.length_range] at hlen
  omega

/-- The lowest free plate is one of the die's and free, while one is. -/
theorem lowest_free (taken : List Nat) (h : taken.length < 132) : bindPick.lowest taken < 132 ∧ bindPick.lowest taken ∉ taken := by
  obtain ⟨p, hp, hfree⟩ := exists_free taken h
  unfold bindPick.lowest
  cases hf : (List.range 132).find? (fun p => !(taken.contains p)) with
  | none =>
    have := List.find?_eq_none.mp hf p (List.mem_range.mpr hp)
    simp [hfree] at this
  | some q =>
    have hq := List.find?_some hf
    exact ⟨List.mem_range.mp (List.mem_of_find?_eq_some hf), by simpa using hq⟩

/-- The pick is one of the die's plates and free, while one is. -/
theorem bindPick_free (named : Option Nat) (taken : List Nat) (h : taken.length < 132) :
    bindPick named taken < 132 ∧ bindPick named taken ∉ taken := by
  cases named with
  | none => exact lowest_free taken h
  | some p =>
    unfold bindPick
    dsimp only
    split
    · assumption
    · exact lowest_free taken h

/-- A plate that is named, is one of the die's and is free, is picked. -/
theorem bindPick_named (p : Nat) (taken : List Nat) (hp : p < 132) (hfree : p ∉ taken) : bindPick (some p) taken = p :=
  if_pos ⟨hp, hfree⟩

theorem boundAt_free (named : Nat → Option Nat) (i : Nat) (h : i < 128) :
    boundAt named i < 132 ∧ boundAt named i ∉ boundPlates named i :=
  bindPick_free _ _ (by rw [boundPlates_eq_map, List.length_map, List.length_range]; omega)

/-- Two local indices of a die stand on different plates. -/
theorem boundAt_ne (named : Nat → Option Nat) (i j : Nat) (hi : i < 128) (hj : j < 128) (hne : j ≠ i) :
    boundAt named j ≠ boundAt named i := by
  intro h
  rcases Nat.lt_or_gt_of_ne hne with hlt | hlt
  · exact (boundAt_free named i hi).2 ((mem_boundPlates named i _).mpr ⟨j, hlt, h⟩)
  · exact (boundAt_free named j hj).2 ((mem_boundPlates named j _).mpr ⟨i, hlt, h.symm⟩)

/-- A binding that names a plate of the die which no index before it has taken is followed. -/
theorem boundAt_named (named : Nat → Option Nat) (i p : Nat) (hn : named i = some p) (hp : p < 132)
    (hfree : ∀ j < i, boundAt named j ≠ p) : boundAt named i = p := by
  unfold boundAt
  rw [hn]
  exact bindPick_named p _ hp (fun hm => by
    obtain ⟨j, hj, he⟩ := (mem_boundPlates named i p).mp hm
    exact hfree j hj he)

/-! ### Plates by identifier -/

/-- Reading a plate after one is stored. -/
theorem plateOf_putPlate (s : State) (pl : Plate) (p : Nat) : (s.putPlate pl).plateOf p = if p = pl.id then pl else s.plateOf p := by
  unfold State.putPlate State.plateOf
  by_cases hfocus : s.plate.id = pl.id
  · rw [if_pos hfocus]
    dsimp only
    by_cases hp : p = pl.id
    · rw [if_pos hp.symm, if_pos hp]
    · rw [if_neg (Ne.symm hp), if_neg hp, hfocus, if_neg (Ne.symm hp)]
  · rw [if_neg hfocus]
    dsimp only
    rw [SMap.get_set_of_ne none s.plates pl.id (some pl) (by simp)]
    by_cases hp : p = pl.id
    · subst hp
      simp [hfocus]
    · simp [hp]

/-- Storing a plate leaves the context in focus and memory. -/
theorem putPlate_frame (s : State) (pl : Plate) : (s.putPlate pl).ctx = s.ctx ∧ (s.putPlate pl).mem = s.mem := by
  unfold State.putPlate
  split <;> exact ⟨rfl, rfl⟩

/-! ### Stage 4 -/

/-- A plate bound to a physical one, its generator seeded (R11, R34). -/
def Plate.bind (q : Plate) (p ph : Nat) : Plate := { q with bound := some ph, lfsr := lfsrSeed p }

/-- One plate of the device is bound. -/
def State.bindPlate (s : State) (p ph : Nat) : State := s.putPlate ((s.plateOf p).bind p ph)

/-- The physical plate that a binding gives local index i of die d. -/
def physical (bind : List (BitVec 9 × BitVec 8)) (d i : Nat) : Nat := boundAt (bindNamed bind d) i

/-- The first n local indices of a die are bound in turn. -/
def State.bindFirst (bind : List (BitVec 9 × BitVec 8)) (s : State) (d n : Nat) : State :=
  (List.range n).foldl (fun t i => t.bindPlate (128 * d + i) (physical bind d i)) s

theorem bindDie_eq (bind : List (BitVec 9 × BitVec 8)) (s : State) (d : Nat) : State.bindDie bind s d = s.bindFirst bind d 128 := by
  unfold State.bindDie State.bindFirst
  refine List.foldl_rel (r := Eq) rfl fun i hi t t' ht => ?_
  subst ht
  exact congrArg (t.bindPlate (128 * d + i)) (getD_boundPlates _ 128 i (List.mem_range.mp hi))

theorem bindFirst_succ (bind : List (BitVec 9 × BitVec 8)) (s : State) (d n : Nat) :
    s.bindFirst bind d (n + 1) = (s.bindFirst bind d n).bindPlate (128 * d + n) (physical bind d n) := by
  simp [State.bindFirst, List.range_succ]

/-- The 512 plates carry their own identifiers. -/
def State.plateIds (s : State) : Prop := ∀ p < 512, (s.plateOf p).id = p

/-- Binding a plate changes that plate. -/
theorem plateOf_bindPlate (s : State) (p ph k : Nat) (h : (s.plateOf p).id = p) :
    (s.bindPlate p ph).plateOf k = if k = p then (s.plateOf k).bind p ph else s.plateOf k := by
  have hid : ((s.plateOf p).bind p ph).id = p := h
  unfold State.bindPlate
  rw [plateOf_putPlate, hid]
  split
  · next hk => rw [hk]
  · rfl

/-- The plates of the first n local indices of die d are bound; every other is as it was. -/
theorem plateOf_bindFirst (bind : List (BitVec 9 × BitVec 8)) (s : State) (d : Nat) (hd : d < 4) (hids : s.plateIds) (n : Nat) (hn : n ≤ 128)
    (k : Nat) : (s.bindFirst bind d n).plateOf k =
      if 128 * d ≤ k ∧ k < 128 * d + n then (s.plateOf k).bind k (physical bind d (k - 128 * d)) else s.plateOf k := by
  induction n generalizing k with
  | zero => rw [if_neg (by omega)]; rfl
  | succ n ih =>
    have same := ih (by omega) (128 * d + n)
    rw [if_neg (by omega)] at same
    rw [bindFirst_succ, plateOf_bindPlate _ _ _ _ (by rw [same]; exact hids _ (by omega)), ih (by omega) k]
    by_cases hk : k = 128 * d + n
    · subst hk
      rw [if_pos rfl, if_neg (by omega), if_pos (by omega), Nat.add_sub_cancel_left]
    · rw [if_neg hk]
      by_cases hin : 128 * d ≤ k ∧ k < 128 * d + n
      · rw [if_pos hin, if_pos (by omega)]
      · rw [if_neg hin, if_neg (by omega)]

/-- The first m dies are bound in turn. -/
def State.bindDies (bind : List (BitVec 9 × BitVec 8)) (s : State) (m : Nat) : State := (List.range m).foldl (State.bindDie bind) s

theorem bindDies_four (bind : List (BitVec 9 × BitVec 8)) (s : State) : s.bindDies bind 4 = [0, 1, 2, 3].foldl (State.bindDie bind) s :=
  congrArg (List.foldl (State.bindDie bind) s) (by decide : List.range 4 = [0, 1, 2, 3])

theorem bindDies_succ (bind : List (BitVec 9 × BitVec 8)) (s : State) (m : Nat) :
    s.bindDies bind (m + 1) = (s.bindDies bind m).bindFirst bind m 128 := by
  simp [State.bindDies, List.range_succ, bindDie_eq]

/-- The plates of the first m dies are bound, each by its die's binding; every other is as it was. -/
theorem plateOf_bindDies (bind : List (BitVec 9 × BitVec 8)) (s : State) (hids : s.plateIds) (m : Nat) (hm : m ≤ 4) (k : Nat) :
    (s.bindDies bind m).plateOf k = if k < 128 * m then (s.plateOf k).bind k (physical bind (k / 128) (k % 128)) else s.plateOf k := by
  induction m generalizing k with
  | zero => rfl
  | succ m ih =>
    have ids : (s.bindDies bind m).plateIds := by
      intro p hp
      rw [ih (by omega) p]
      split <;> exact hids p hp
    rw [bindDies_succ, plateOf_bindFirst bind _ m (by omega) ids 128 (Nat.le_refl _) k, ih (by omega) k]
    by_cases hin : 128 * m ≤ k ∧ k < 128 * m + 128
    · have hdiv : k / 128 = m := by omega
      have hmod : k % 128 = k - 128 * m := by omega
      rw [if_pos hin, if_neg (by omega), if_pos (by omega), hdiv, hmod]
    · rw [if_neg hin]
      by_cases hlt : k < 128 * m
      · rw [if_pos hlt, if_pos (by omega)]
      · rw [if_neg hlt, if_neg (by omega)]

/-- Binding plates leaves the context in focus and memory. -/
theorem bindFirst_frame (bind : List (BitVec 9 × BitVec 8)) (s : State) (d n : Nat) :
    (s.bindFirst bind d n).ctx = s.ctx ∧ (s.bindFirst bind d n).mem = s.mem := by
  induction n with
  | zero => exact ⟨rfl, rfl⟩
  | succ n ih =>
    obtain ⟨hctx, hmem⟩ := ih
    obtain ⟨pctx, pmem⟩ := putPlate_frame (s.bindFirst bind d n)
      (((s.bindFirst bind d n).plateOf (128 * d + n)).bind (128 * d + n) (physical bind d n))
    rw [bindFirst_succ]
    exact ⟨pctx.trans hctx, pmem.trans hmem⟩

theorem bindDies_frame (bind : List (BitVec 9 × BitVec 8)) (s : State) (m : Nat) :
    (s.bindDies bind m).ctx = s.ctx ∧ (s.bindDies bind m).mem = s.mem := by
  induction m with
  | zero => exact ⟨rfl, rfl⟩
  | succ m ih =>
    obtain ⟨hctx, hmem⟩ := ih
    obtain ⟨bctx, bmem⟩ := bindFirst_frame bind (s.bindDies bind m) m 128
    rw [bindDies_succ]
    exact ⟨bctx.trans hctx, bmem.trans hmem⟩

/-- The device in service: OP6 on every die, SEQ 1, STAGE 5 (R266, R338, R380). -/
def State.inService (s : State) : State :=
  { s with dies := s.dies.map (fun (t : Die) => { t with point := 6 }), jseq := 1, control := { s.control with stage := 5 } }

@[simp] theorem plateOf_inService (s : State) (p : Nat) : s.inService.plateOf p = s.plateOf p := rfl
@[simp] theorem inService_stage (s : State) : s.inService.control.stage = 5 := rfl
@[simp] theorem inService_jseq (s : State) : s.inService.jseq = 1 := rfl
@[simp] theorem inService_mem (s : State) : s.inService.mem = s.mem := rfl
@[simp] theorem inService_ctx (s : State) : s.inService.ctx = s.ctx := rfl

theorem point_inService (s : State) (d : Nat) : (s.inService.die d).point = 6 := by
  simp only [State.die, State.inService, Quad.get_map]

theorem exec_plateBinding_idle (s : State) (bind : List (BitVec 9 × BitVec 8)) (h : s.control.stage ≠ 4) :
    exec (.plateBinding bind) s = .next s :=
  congrArg Host.Outcome.next (if_pos h)

theorem exec_plateBinding_eq (s : State) (bind : List (BitVec 9 × BitVec 8)) (h : s.control.stage = 4) :
    exec (.plateBinding bind) s = .next (s.bindDies bind 4).inService := by
  show execPlateBinding bind s = _
  have hstage : ¬ s.control.stage ≠ 4 := fun hne => hne h
  simp only [execPlateBinding, if_neg hstage, State.inService, bindDies_four]

/-- Plate i of die d in service is bound to its physical plate and seeded. -/
theorem plateOf_bound (s : State) (bind : List (BitVec 9 × BitVec 8)) (hids : s.plateIds) (d i : Nat) (hd : d < 4) (hi : i < 128) :
    (s.bindDies bind 4).inService.plateOf (128 * d + i) = (s.plateOf (128 * d + i)).bind (128 * d + i) (physical bind d i) := by
  have hdiv : (128 * d + i) / 128 = d := by omega
  have hmod : (128 * d + i) % 128 = i := by omega
  rw [plateOf_inService, plateOf_bindDies bind s hids 4 (Nat.le_refl _), if_pos (by omega), hdiv, hmod]

/-- Stage 4: plates bound and seeded, OP6, SEQ 1, service (R11, R34, R266, R380). -/
theorem exec_plateBinding (s : State) (bind : List (BitVec 9 × BitVec 8)) (h : s.control.stage = 4) :
    ∃ t, exec (.plateBinding bind) s = .next t ∧ t.control.stage = 5 ∧ t.jseq = 1 ∧ (∀ d : BitVec 2, (t.die d.toNat).point = 6) ∧
      t.mem = s.mem ∧ t.ctx = s.ctx ∧
      (rising s.plates → (∀ p < 512, (s.plateOf p).id = p) → ∀ d < 4, ∀ i < 128,
        let at_ (j : Nat) : Option Nat := (t.plateOf (128 * d + j)).bound
        (t.plateOf (128 * d + i)).lfsr = lfsrSeed (128 * d + i) ∧ (∃ ph < 132, at_ i = some ph) ∧ (∀ j < 128, j ≠ i → at_ j ≠ at_ i) ∧
        ∀ ph < 132, bindNamed bind d i = some ph → (∀ j < i, at_ j ≠ some ph) → at_ i = some ph) := by
  obtain ⟨hctx, hmem⟩ := bindDies_frame bind s 4
  refine ⟨_, exec_plateBinding_eq s bind h, inService_stage _, inService_jseq _, fun d => point_inService _ _,
    (inService_mem _).trans hmem, (inService_ctx _).trans hctx, fun _ hids d hd i hi => ?_⟩
  have bound_eq (j : Nat) (hj : j < 128) : ((s.bindDies bind 4).inService.plateOf (128 * d + j)).bound = some (physical bind d j) := by
    rw [plateOf_bound s bind hids d j hd hj]
    rfl
  dsimp only
  refine ⟨?_, ⟨physical bind d i, (boundAt_free _ i hi).1, bound_eq i hi⟩, fun j hj hne => ?_, fun ph hph hnamed hfree => ?_⟩
  · rw [plateOf_bound s bind hids d i hd hi]
    rfl
  · rw [bound_eq j hj, bound_eq i hi]
    exact fun he => boundAt_ne _ i j hi hj hne (Option.some.inj he)
  · rw [bound_eq i hi]
    refine congrArg some (boundAt_named _ i ph hnamed hph fun j hj he => hfree j hj ?_)
    rw [bound_eq j (by omega)]
    exact congrArg some he

/-- Settles O54, input by input and stage by stage. -/
theorem hostInputs : Obligations.HostInputs := by
  unfold Obligations.HostInputs
  intro s
  obtain ⟨t, ht, ⟨mem, ctx, ctxs, dies, cycle, fuses, slotA, slotB, rom⟩, hrom⟩ := exec_powerOnReset s
  refine ⟨exec_hqTailWrite_one s, controlPageWrite_fields s, exec_functionLevelReset s,
    ⟨t, ht, mem, ctx, ctxs, dies, cycle, fuses, slotA, slotB, rom, hrom⟩,
    fun passed => ⟨exec_hbmTraining_idle s passed, fun h => ⟨fun hp => ?_, exec_hbmTraining_failed s passed h⟩⟩,
    fun h fails => exec_rowTesting_idle s fails h, fun h fails => exec_rowTesting s fails h,
    fun h bind => exec_plateBinding_idle s bind h, fun bind h => exec_plateBinding s bind h,
    exec_enqueue_idle s, fun h => ⟨fun hj => ?_, fun hj => ?_, exec_enqueue_invalid s h, exec_enqueue_valid s h⟩⟩
  · rw [hp]
    exact exec_hbmTraining_passed s h
  · rw [exec_enqueue_due s h, show s.judgeEntry s.hqEntry = .unreadable from hj]
  · rw [exec_enqueue_due s h, show s.judgeEntry s.hqEntry = .full from hj]

end Sys2Proof.Machine
end

section
/-! PROOFS. Elements packed into a vector register (R139), and what a word that writes rounded elements leaves (R38, R141). -/

namespace Sys2Proof.Machine

/-! ### Packed elements (R139) -/

theorem packElems_lt (w : Nat) (xs : List Nat) : packElems w xs < 2 ^ (w * xs.length) := by
  induction xs with
  | nil => exact Nat.one_pos
  | cons x xs ih =>
    have hx : x % 2 ^ w < 2 ^ w := Nat.mod_lt _ (Nat.two_pow_pos w)
    rw [List.length_cons, Nat.mul_succ, Nat.add_comm, Nat.pow_add]
    calc packElems w (x :: xs)
      _ < 2 ^ w + 2 ^ w * packElems w xs := Nat.add_lt_add_right hx _
      _ = 2 ^ w * (packElems w xs + 1) := by rw [Nat.mul_succ, Nat.add_comm]
      _ ≤ 2 ^ w * 2 ^ (w * xs.length) := Nat.mul_le_mul_left _ ih

/-- Packed elements shifted down by one element are the elements after the first. -/
theorem packElems_cons_div (w x : Nat) (xs : List Nat) : packElems w (x :: xs) / 2 ^ w = packElems w xs := by
  have hx : x % 2 ^ w < 2 ^ w := Nat.mod_lt _ (Nat.two_pow_pos w)
  rw [packElems, Nat.add_mul_div_left _ _ (Nat.two_pow_pos w), Nat.div_eq_of_lt hx, Nat.zero_add]

theorem packElems_elem (w : Nat) (xs : List Nat) (i : Nat) (hi : i < xs.length) :
    packElems w xs / 2 ^ (w * i) % 2 ^ w = xs.getD i 0 % 2 ^ w := by
  induction xs generalizing i with
  | nil => exact absurd hi (Nat.not_lt_zero i)
  | cons x xs ih =>
    cases i with
    | zero =>
      rw [packElems, Nat.mul_zero, Nat.pow_zero, Nat.div_one, Nat.add_mul_mod_self_left, Nat.mod_mod]
      rfl
    | succ i =>
      rw [Nat.mul_succ, Nat.add_comm, Nat.pow_add, ← Nat.div_div_eq_div_mul, packElems_cons_div]
      exact ih i (Nat.lt_of_succ_lt_succ hi)

/-- The words of the elements without their flags. -/
theorem getD_map_fst (l : List (Nat × BitVec 6)) (i : Nat) : (l.map (fun e => e.1)).getD i 0 = (l.getD i (0, 0)).1 := by
  rw [List.getD_eq_getElem?_getD, List.getD_eq_getElem?_getD, List.getElem?_map]
  cases l[i]? with
  | none => rfl
  | some e => rfl

/-- Elements that fit in a register fill it up to the last one, and the rest is zero. -/
theorem vregOf_toNat (w : Nat) (xs : List Nat) (h : w * xs.length ≤ 2048) : (vregOf w xs).toNat = packElems w xs := by
  have hle := Nat.pow_le_pow_right Nat.two_pos h
  rw [vregOf, BitVec.toNat_ofNat]
  exact Nat.mod_eq_of_lt (Nat.lt_of_lt_of_le (packElems_lt w xs) hle)

/-! ### Joined flags (R38) -/

theorem getLsbD_foldl_or (l : List (Nat × BitVec 6)) (f : BitVec 6) (j : Nat) :
    (l.foldl (fun f e => f ||| e.2) f).getLsbD j = (f.getLsbD j || l.any (fun e => e.2.getLsbD j)) := by
  induction l generalizing f with
  | nil => exact (Bool.or_false _).symm
  | cons e l ih => rw [List.foldl_cons, ih, BitVec.getLsbD_or, List.any_cons, Bool.or_assoc]

theorem getLsbD_flagsOf (l : List (Nat × BitVec 6)) (j : Nat) : (flagsOf l).getLsbD j = l.any (fun e => e.2.getLsbD j) := by
  rw [flagsOf, getLsbD_foldl_or, BitVec.ofNat_eq_ofNat, BitVec.getLsbD_zero, Bool.false_or]

/-- A flag of FSTAT after flags have joined it. -/
theorem getLsbD_or_setWidth (v : Word) (f : BitVec 6) (j : Nat) (hj : j < 6) :
    (v ||| f.setWidth 64).getLsbD j = (v.getLsbD j || f.getLsbD j) := by
  rw [BitVec.getLsbD_or, BitVec.getLsbD_setWidth, decide_eq_true (show j < 64 by omega), Bool.true_and]

/-! ### Flags that join at once or later (R38, R141), and the generator's steps (R34) -/

theorem State.raiseIn_le (s : State) (f : BitVec 6) (n : Nat) (h : n ≤ 1) : s.raiseIn f n = s.raise f := if_pos h

/-- Flags of a word with a bound above 1 are kept aside until the word completes. -/
theorem State.raiseIn_gt (s : State) (f : BitVec 6) (n : Nat) (h : 1 < n) :
    s.raiseIn f n = s.mctx (fun c => { c with
      lateFlags := c.lateFlags ++ [{ strand := c.cur, left := n, tick := s.now + (n - 1), flags := f }] }) :=
  if_neg (Nat.not_le.mpr h)

/-- Raising flags changes FSTAT and the flags kept aside alone. -/
theorem State.raiseIn_frame (s : State) (f : BitVec 6) (n : Nat) :
    s.raiseIn f n = { s with ctx := { s.ctx with lateFlags := (s.raiseIn f n).ctx.lateFlags,
                                                 csr := { s.ctx.csr with fstat := (s.raiseIn f n).ctx.csr.fstat } } } := by
  rcases Nat.lt_or_ge 1 n with h | h
  · rw [s.raiseIn_gt f n h]
    rfl
  · rw [s.raiseIn_le f n h]
    rfl

@[simp] theorem State.raiseIn_lines (s : State) (f : BitVec 6) (n : Nat) : (s.raiseIn f n).ctx.lines = s.ctx.lines := by
  rw [s.raiseIn_frame f n]

@[simp] theorem State.raiseIn_mem (s : State) (f : BitVec 6) (n : Nat) : (s.raiseIn f n).mem = s.mem := by
  rw [s.raiseIn_frame f n]

@[simp] theorem State.raiseIn_plate (s : State) (f : BitVec 6) (n : Nat) : (s.raiseIn f n).plate = s.plate := by
  rw [s.raiseIn_frame f n]

@[simp] theorem State.raiseIn_mode (s : State) (f : BitVec 6) (n : Nat) : (s.raiseIn f n).mode = s.mode := by
  rw [s.raiseIn_frame f n]
  rfl

/-- The flags kept aside when none stood there join FSTAT once the word completes. -/
theorem State.raiseIn_joinFlags (s : State) (f : BitVec 6) (n : Nat) (h : 1 < n) (hl : s.ctx.lateFlags = []) :
    ((s.raiseIn f n).ctx.joinFlags (fun _ => true)).csr.fstat = s.ctx.csr.fstat ||| f.setWidth 64 := by
  rw [s.raiseIn_gt f n h, State.mctx_ctx, Ctx.joinFlags, hl]
  rfl

@[simp] theorem State.vsteps_ctx (s : State) (rounded : Bool) : (s.vsteps rounded).ctx = s.ctx := by
  unfold State.vsteps
  split <;> rfl

@[simp] theorem State.vsteps_mem (s : State) (rounded : Bool) : (s.vsteps rounded).mem = s.mem := by
  unfold State.vsteps
  split <;> rfl

/-- The generator stands still where the word rounds nothing or the mode is not SR (R34). -/
theorem State.vsteps_still (s : State) (rounded : Bool) (h : rounded = false ∨ s.mode ≠ .sr) : s.vsteps rounded = s := by
  refine if_neg fun hr => ?_
  rcases h with h | h
  · exact absurd hr.1 (by rw [h]; exact Bool.false_ne_true)
  · exact h hr.2

/-! ### A word's rounded elements -/

section
variable (s : State) (d : Reg) (w bound : Nat) (l : List (Nat × BitVec 6)) (rounded : Bool)

/-- The register's line is written, then the flags are raised; the generator is no part of the context. -/
theorem setElems_ctx : (s.setElems d w l rounded bound).ctx =
    ((s.setLine (s.vline d) (vregOf w (l.map (fun e => e.1))) bound).raiseIn (flagsOf l) bound).ctx :=
  State.vsteps_ctx _ _

theorem setElems_line (hn : 0 < s.now) (m : Nat) :
    SMap.get (Cell.init 0) (s.setElems d w l rounded bound).ctx.lines m =
      if m = s.vline d then
        (SMap.get (Cell.init 0) s.ctx.lines m).write s.ctx.cur (s.now + (bound - 1)) (vregOf w (l.map (fun e => e.1)))
      else SMap.get (Cell.init 0) s.ctx.lines m := by
  rw [setElems_ctx, State.raiseIn_lines, setLine_cells _ _ _ _ hn]
  split
  · next h => rw [h]
  · rfl

theorem setElems_now (h : bound ≤ 1) :
    (s.setElems d w l rounded bound).ctx.lateFlags = s.ctx.lateFlags ∧
      (s.setElems d w l rounded bound).ctx.csr.fstat = s.ctx.csr.fstat ||| (flagsOf l).setWidth 64 := by
  rw [setElems_ctx, State.raiseIn_le _ _ _ h]
  exact ⟨rfl, rfl⟩

theorem setElems_late (h : 1 < bound) :
    (s.setElems d w l rounded bound).ctx.csr = s.ctx.csr ∧
      (s.setElems d w l rounded bound).ctx.lateFlags = s.ctx.lateFlags ++
        [{ strand := s.ctx.cur, left := bound, tick := s.now + (bound - 1), flags := flagsOf l }] := by
  rw [setElems_ctx, State.raiseIn_gt _ _ _ h]
  exact ⟨rfl, rfl⟩

theorem setElems_joinFlags (h : 1 < bound) (hl : s.ctx.lateFlags = []) :
    ((s.setElems d w l rounded bound).ctx.joinFlags (fun _ => true)).csr.fstat =
      s.ctx.csr.fstat ||| (flagsOf l).setWidth 64 := by
  rw [setElems_ctx]
  exact State.raiseIn_joinFlags _ _ _ h hl

theorem setElems_frame :
    let t := s.setElems d w l rounded bound
    t.ctx = { s.ctx with lines := t.ctx.lines, pends := t.ctx.pends, flight := t.ctx.flight, lateFlags := t.ctx.lateFlags,
                         csr := { s.ctx.csr with fstat := t.ctx.csr.fstat } } := by
  dsimp only
  rw [setElems_ctx, State.raiseIn_frame]
  rfl

theorem setElems_mem : (s.setElems d w l rounded bound).mem = s.mem :=
  (State.vsteps_mem _ _).trans (State.raiseIn_mem _ _ _)

theorem setElems_plate (h : rounded = false ∨ s.mode ≠ .sr) : (s.setElems d w l rounded bound).plate = s.plate := by
  have hmode : ((s.setV d (vregOf w (l.map (fun e => e.1))) bound).raiseIn (flagsOf l) bound).mode = s.mode :=
    State.raiseIn_mode _ _ _
  rw [State.setElems, State.vsteps_still _ _ (by rw [hmode]; exact h), State.raiseIn_plate]
  rfl

end

/-- Settles O17: packing gives the elements, and the line's write and the raised flags give the rest. -/
theorem vectorElements : Obligations.VectorElements := by
  intro s d w bound l rounded hnow _ hfit
  have hlen : w * (l.map (fun e => e.1)).length ≤ 2048 := by rwa [List.length_map]
  have hreg : (SMap.get (Cell.init 0) (s.setElems d w l rounded bound).ctx.lines (s.vline d)).val.toNat =
      packElems w (l.map (fun e => e.1)) := by
    rw [setElems_line s d w bound l rounded hnow, if_pos rfl]
    exact vregOf_toNat w _ hlen
  have fstat_eq (v : Word) (hv : v = s.ctx.csr.fstat ||| (flagsOf l).setWidth 64) (j : Nat) (hj : j < 6) :
      v.getLsbD j = (s.ctx.csr.fstat.getLsbD j || l.any (fun e => e.2.getLsbD j)) := by
    rw [hv, getLsbD_or_setWidth _ _ j hj, getLsbD_flagsOf]
  refine ⟨fun i hi => ?_, ?_, fun hb => ?_, fun hb => ?_, fun m hm => ?_, setElems_frame s d w bound l rounded,
    setElems_mem s d w bound l rounded, setElems_plate s d w bound l rounded⟩
  · rw [hreg, packElems_elem w _ i (by rwa [List.length_map]), getD_map_fst]
  · rw [hreg]
    simpa only [List.length_map] using packElems_lt w (l.map (fun e => e.1))
  · obtain ⟨hlate, hfstat⟩ := setElems_now s d w bound l rounded hb
    exact ⟨hlate, fstat_eq _ hfstat⟩
  · obtain ⟨hcsr, hlate⟩ := setElems_late s d w bound l rounded hb
    exact ⟨hcsr, flagsOf l, hlate, fun j _ => getLsbD_flagsOf l j,
      fun hl => fstat_eq _ (setElems_joinFlags s d w bound l rounded hb hl)⟩
  · rw [setElems_line s d w bound l rounded hnow, if_neg hm]

end Sys2Proof.Machine
end

section
/-! PROOFS. Rounding of values that a format holds: the binary formats (R21, R32, R33, R36) and the GF codes (R28 to R30). -/

namespace Sys2Proof

/-! ### Magnitudes and signs of words -/

theorem bitLen_le_iff (m n : Nat) : bitLen m ≤ n ↔ m < 2 ^ n := by
  unfold bitLen
  split
  · next h =>
    rw [h]
    exact iff_of_true (Nat.zero_le n) (Nat.two_pow_pos n)
  · next h => rw [Nat.succ_le_iff, Nat.log2_lt h]

/-- A word is its top bit and what lies below it. -/
theorem signBit_add_mod (n w : Nat) (hw : w < 2 ^ (n + 1)) :
    (if w / 2 ^ n % 2 == 1 then 2 ^ n else 0) + w % 2 ^ n = w := by
  have hsign : w / 2 ^ n < 2 := Nat.div_lt_of_lt_mul hw
  have hbit : (if w / 2 ^ n % 2 == 1 then 2 ^ n else 0) = 2 ^ n * (w / 2 ^ n) := by
    rcases Nat.eq_zero_or_pos (w / 2 ^ n) with h | h
    · rw [h]
      exact (Nat.mul_zero _).symm
    · rw [Nat.le_antisymm (Nat.le_of_lt_succ hsign) h]
      exact (Nat.mul_one _).symm
  rw [hbit, Nat.div_add_mod]

/-! ### The binary formats with IEEE's all-ones exponent (R21, R32) -/

/-- The largest finite magnitude is the last of the last binade below the all-ones exponent, which holds the infinities. -/
structure FFmt.Ieee (f : FFmt) : Prop where
  hasInf : f.inf = true
  maxN : f.maxN = 2 ^ (f.mbits + 1) - 1
  maxQ : f.maxQ = (2 ^ f.ebits : Nat) - 2 - (f.bias : Int) - f.mbits
  ebits : 2 ≤ f.ebits

theorem ieee_formats (f : FFmt) (h : f = fp32 ∨ f = bf16 ∨ f = fp16 ∨ f = acc48) : f.Ieee := by
  rcases h with rfl | rfl | rfl | rfl <;> exact ⟨rfl, rfl, by decide, by decide⟩

/-- A word is its sign, exponent and fraction in their places. -/
theorem FFmt.fields (f : FFmt) (w : Nat) (hw : w < 2 ^ (f.ebits + f.mbits + 1)) :
    f.signBit (w / 2 ^ (f.ebits + f.mbits) % 2 == 1) + (w / 2 ^ f.mbits % 2 ^ f.ebits * 2 ^ f.mbits + w % 2 ^ f.mbits) = w := by
  have hlow : w / 2 ^ f.mbits % 2 ^ f.ebits * 2 ^ f.mbits + w % 2 ^ f.mbits = w % 2 ^ (f.ebits + f.mbits) := by
    rw [Nat.add_comm f.ebits, Nat.pow_add, Nat.mod_mul, Nat.add_comm, Nat.mul_comm]
  rw [hlow]
  exact signBit_add_mod _ w hw

/-- A magnitude at the format's own quantum is kept, with no flag: normal, or below the first binade at the least quantum. -/
theorem FFmt.round_exact (f : FFmt) (hf : f.Ieee) (mode : RMode) (sat neg : Bool) (rnd m : Nat) (e : Int) (hm0 : m ≠ 0)
    (hm : m < 2 ^ (f.mbits + 1)) (hquantum : 2 ^ f.mbits ≤ m ∨ e = 1 - f.bias - f.mbits) (hlo : 1 - f.bias - f.mbits ≤ e)
    (hhi : e ≤ f.maxQ) : f.round mode sat rnd (.fin neg m e false) = (f.word neg m e, 0) := by
  have hlen : bitLen m ≤ f.mbits + 1 := (bitLen_le_iff m _).mpr hm
  have hnormal : 2 ^ f.mbits ≤ m → f.mbits < bitLen m := fun h => by
    rw [← Nat.not_le, bitLen_le_iff]
    exact Nat.not_lt.mpr h
  have hq : max (e + (bitLen m : Int) - 1 - f.mbits) (1 - (f.bias : Int) - f.mbits) = e := by
    rcases hquantum with h | h
    · have := hnormal h
      omega
    · omega
  have hkeep : roundQuantum mode neg m e false e rnd = (m, false) := by
    simp only [roundQuantum, if_pos (Int.le_refl e), Int.sub_self, Int.toNat_zero, Nat.pow_zero, Nat.mul_one, Bool.false_and,
      Bool.false_eq_true, if_false, Nat.add_zero]
  have hne : m ≠ 2 ^ (f.mbits + 1) := Nat.ne_of_lt hm
  have hfits : ¬ (e > f.maxQ ∨ (e = f.maxQ ∧ m > f.maxN)) := by
    rw [hf.maxN]
    omega
  simp only [FFmt.round, hm0, false_and, if_false, hq, hkeep, hne, hfits, Bool.false_eq_true, Bool.and_false]
  rfl

theorem FFmt.word_subnormal (f : FFmt) (neg : Bool) (n : Nat) (q : Int) (hn : n < 2 ^ f.mbits) :
    f.word neg n q = f.signBit neg + n := by
  have hne : n ≠ 2 ^ (f.mbits + 1) := by
    rw [Nat.pow_succ]
    omega
  simp only [FFmt.word, if_neg hne, if_pos hn]

theorem FFmt.word_normal (f : FFmt) (neg : Bool) (n ex : Nat) (hn : n < 2 ^ f.mbits) :
    f.word neg (n + 2 ^ f.mbits) (ex - f.bias - f.mbits) = f.signBit neg + (ex * 2 ^ f.mbits + n) := by
  have hne : n + 2 ^ f.mbits ≠ 2 ^ (f.mbits + 1) := by
    rw [Nat.pow_succ]
    omega
  have hex : ((ex : Int) - f.bias - f.mbits + f.mbits + f.bias).toNat = ex := by omega
  have hge : ¬ n + 2 ^ f.mbits < 2 ^ f.mbits := by omega
  simp only [FFmt.word, if_neg hne, if_neg hge, hex, Nat.add_sub_cancel]

theorem FFmt.round_inf (f : FFmt) (hf : f.Ieee) (mode : RMode) (sat neg : Bool) (rnd : Nat) :
    f.round mode sat rnd (.inf neg) = (f.signBit neg + (2 ^ f.ebits - 1) * 2 ^ f.mbits, 0) := by
  simp only [FFmt.round, FFmt.beyond, if_pos hf.hasInf]

/-- Zero and the values below the first binade. -/
theorem FFmt.round_subnormal (f : FFmt) (hf : f.Ieee) (mode : RMode) (sat neg : Bool) (rnd fr : Nat) (hfr : fr < 2 ^ f.mbits) :
    f.round mode sat rnd (.fin neg fr (1 - f.bias - f.mbits) false) = (f.signBit neg + fr, 0) := by
  have hpow : 2 ^ 2 ≤ 2 ^ f.ebits := Nat.pow_le_pow_right Nat.two_pos hf.ebits
  have hmaxQ := hf.maxQ
  rcases Nat.eq_zero_or_pos fr with rfl | h
  · simp only [FFmt.round, and_self, if_true, Nat.add_zero]
  · rw [f.round_exact hf mode sat neg rnd fr _ (Nat.ne_of_gt h) (by rw [Nat.pow_succ]; omega) (.inr rfl) (Int.le_refl _) (by omega),
      f.word_subnormal neg fr _ hfr]

theorem FFmt.round_normal (f : FFmt) (hf : f.Ieee) (mode : RMode) (sat neg : Bool) (rnd ex fr : Nat) (hex0 : 0 < ex)
    (hex : ex < 2 ^ f.ebits - 1) (hfr : fr < 2 ^ f.mbits) :
    f.round mode sat rnd (.fin neg (fr + 2 ^ f.mbits) (ex - f.bias - f.mbits) false) =
      (f.signBit neg + (ex * 2 ^ f.mbits + fr), 0) := by
  have hmaxQ := hf.maxQ
  rw [f.round_exact hf mode sat neg rnd _ _ (by omega) (by rw [Nat.pow_succ]; omega) (.inl (by omega)) (by omega) (by omega),
    f.word_normal neg fr ex hfr]

/-- A word that is no NaN is the rounding of its own value: an infinity, a value of exponent 0, or a normal value. -/
theorem FFmt.round_decodeIeee (f : FFmt) (hf : f.Ieee) (mode : RMode) (sat : Bool) (rnd w : Nat)
    (hw : w < 2 ^ (f.ebits + f.mbits + 1)) (hnan : f.decodeIeee w ≠ .nan) :
    f.round mode sat rnd (f.decodeIeee w) = (w, 0) := by
  have hfields := f.fields w hw
  have hex : w / 2 ^ f.mbits % 2 ^ f.ebits < 2 ^ f.ebits := Nat.mod_lt _ (Nat.two_pow_pos _)
  have hfr : w % 2 ^ f.mbits < 2 ^ f.mbits := Nat.mod_lt _ (Nat.two_pow_pos _)
  unfold FFmt.decodeIeee at hnan ⊢
  dsimp only at hnan ⊢
  by_cases hones : w / 2 ^ f.mbits % 2 ^ f.ebits = 2 ^ f.ebits - 1
  · rw [if_pos hones] at hnan ⊢
    by_cases hfr0 : w % 2 ^ f.mbits = 0
    · rw [hones, hfr0, Nat.add_zero] at hfields
      rw [if_pos hfr0, f.round_inf hf, hfields]
    · exact absurd (if_neg hfr0) hnan
  · rw [if_neg hones]
    by_cases hzero : w / 2 ^ f.mbits % 2 ^ f.ebits = 0
    · rw [hzero, Nat.zero_mul, Nat.zero_add] at hfields
      rw [if_pos hzero, f.round_subnormal hf mode sat _ rnd _ hfr, hfields]
    · rw [if_neg hzero, f.round_normal hf mode sat _ rnd _ _ (by omega) (by omega) hfr, hfields]

/-! ### The GF codes (R28 to R30) -/

theorem cmpMag_self (m : Nat) (e : Int) : cmpMag m e m e = .eq := Nat.compare_eq_eq.mpr rfl

theorem pow2_pos (e : Int) : 0 < pow2 e := Nat.two_pow_pos _

/-- Magnitudes compare as whole numbers of a unit that divides both. -/
theorem cmpMag_gt_iff (bound m1 m2 : Nat) (e1 e2 : Int) (h1 : -(bound : Int) ≤ e1) (h2 : -(bound : Int) ≤ e2) :
    cmpMag m1 e1 m2 e2 = .gt ↔ m2 * pow2 (e2 + bound) < m1 * pow2 (e1 + bound) := by
  have split_pow (a b : Int) (ha : -(bound : Int) ≤ a) (hb : -(bound : Int) ≤ b) :
      pow2 (a + bound) = pow2 (a - b) * pow2 (min a b + bound) := by
    rw [pow2, pow2, pow2, ← Nat.pow_add]
    congr 1
    omega
  rw [cmpMag, Nat.compare_eq_gt, split_pow e1 e2 h1 h2, split_pow e2 e1 h2 h1, Int.min_comm e2 e1, ← Nat.mul_assoc,
    ← Nat.mul_assoc, Nat.mul_lt_mul_right (pow2_pos _)]

/-- A code's magnitude in units of 2^(−bound). -/
def gfUnits (bound nb c : Nat) : Nat := (gfMag nb c).1 * pow2 ((gfMag nb c).2 + bound)

/-- The magnitudes of the codes other than 0 are whole numbers of units, and rise from each code to the next. -/
structure GfRising (bound nb : Nat) : Prop where
  whole : ∀ c < 2 ^ nb, 0 < c → -(bound : Int) ≤ (gfMag nb c).2
  rises : ∀ c < 2 ^ nb - 1, 0 < c → gfUnits bound nb c < gfUnits bound nb (c + 1)

theorem gf8_rising : GfRising 12 7 := ⟨by decide, by decide⟩

theorem gf6_rising : GfRising 8 5 := ⟨by decide, by decide⟩

section
variable {bound nb : Nat} (hr : GfRising bound nb)
include hr

theorem GfRising.units_lt (c d : Nat) (hc : 0 < c) (hcd : c < d) (hd : d < 2 ^ nb) :
    gfUnits bound nb c < gfUnits bound nb d := by
  induction hcd with
  | refl => exact hr.rises c (by omega) hc
  | @step d hcd ih =>
    have hd0 : 0 < d := Nat.lt_of_le_of_lt (Nat.zero_le c) hcd
    exact Nat.lt_trans (ih (by omega)) (hr.rises d (by omega) hd0)

/-- A code above another has the greater magnitude. -/
theorem GfRising.cmpMag_gt (c d : Nat) (hc : 0 < c) (hcd : c < d) (hd : d < 2 ^ nb) :
    cmpMag (gfMag nb d).1 (gfMag nb d).2 (gfMag nb c).1 (gfMag nb c).2 = .gt :=
  (cmpMag_gt_iff bound _ _ _ _ (hr.whole d hd (by omega)) (hr.whole c (by omega) hc)).mpr (hr.units_lt c d hc hcd hd)

/-- The largest code whose magnitude does not exceed that of c is c. -/
theorem GfRising.gfFloor_eq (c d : Nat) (hc : 0 < c) (hcd : c ≤ d) (hd : d < 2 ^ nb) :
    gfFloor nb (gfMag nb c).1 (gfMag nb c).2 d = c := by
  induction hcd with
  | refl =>
    obtain ⟨b, rfl⟩ := Nat.exists_eq_add_one.mpr hc
    simp only [gfFloor, cmpMag_self]
    rfl
  | @step d hcd ih =>
    have hgt := hr.cmpMag_gt c (d + 1) hc (Nat.lt_succ_of_le hcd) hd
    simp only [gfFloor, hgt]
    exact ih (by omega)

end

/-- A code's significand holds its leading one. -/
theorem gfMag_ne_zero (nb c : Nat) : (gfMag nb c).1 ≠ 0 :=
  Nat.ne_of_gt (Nat.add_pos_left (Nat.two_pow_pos _) _)

/-- The magnitude of a code other than 0 rounds to the code under its sign, with no flag. -/
theorem gfRound_gfMag (bound w c : Nat) (hr : GfRising bound (w - 1)) (neg : Bool) (hc0 : 0 < c) (hc : c < 2 ^ (w - 1)) :
    gfRound w (.fin neg (gfMag (w - 1) c).1 (gfMag (w - 1) c).2 false) = ((if neg then 2 ^ (w - 1) else 0) + c, 0) := by
  have hfloor := hr.gfFloor_eq c (2 ^ (w - 1) - 1) hc0 (by omega) (by omega)
  simp only [gfRound, gfMag_ne_zero, hfloor, Nat.ne_of_gt hc0, cmpMag_self, false_and, and_self, if_false, if_true]

theorem gfRound_gfDecode (bound w : Nat) (hr : GfRising bound (w - 1)) (hw : 0 < w) (c : Nat) (hc : c < 2 ^ w) :
    gfRound w (gfDecode w c) = (c, 0) := by
  have hlow : c % 2 ^ (w - 1) < 2 ^ (w - 1) := Nat.mod_lt _ (Nat.two_pow_pos _)
  have hfields := signBit_add_mod (w - 1) c (by rwa [Nat.sub_add_cancel hw])
  simp only [gfDecode]
  generalize (c / 2 ^ (w - 1) % 2 == 1) = neg at *
  split
  · next hzero =>
    rw [hzero, Nat.add_zero] at hfields
    rw [← hfields]
    cases neg with
    | false => rfl
    | true => rfl
  · next hzero => rw [gfRound_gfMag bound w _ hr neg (by omega) hlow, hfields]

/-- Settles O24: words of the binary formats by the quantum of their own value, GF codes by the rise of their magnitudes. -/
theorem roundingExact : Obligations.RoundingExact :=
  ⟨fun f mode sat rnd w hf hw hnan => f.round_decodeIeee (ieee_formats f hf) mode sat rnd w hw hnan,
    gfRound_gfDecode 12 8 gf8_rising (by decide), gfRound_gfDecode 8 6 gf6_rising (by decide)⟩

end Sys2Proof
end

section
/-! PROOFS. What memory operations leave beside the context: the dies' accept journals, the continuation records, and whether a bundle
is being issued (R53, R337, R338). -/

namespace Sys2Proof.Machine

/-- Every die's accept journal and the continuation records stay, and a bundle is being issued as before. -/
structure Recorded (s t : State) : Prop where
  journal : ∀ d, (t.die d).journal = (s.die d).journal
  contins : t.contins = s.contins
  bundle : t.bundle = s.bundle

theorem Recorded.refl (s : State) : Recorded s s := ⟨fun _ => rfl, rfl, rfl⟩

theorem Recorded.trans {s t u : State} (h : Recorded s t) (g : Recorded t u) : Recorded s u :=
  ⟨fun d => (g.journal d).trans (h.journal d), g.contins.trans h.contins, g.bundle.trans h.bundle⟩

/-- A state with the same dies. -/
theorem Recorded.of_eq {s t : State} (hd : t.dies = s.dies) (hc : t.contins = s.contins) (hb : t.bundle = s.bundle) : Recorded s t :=
  ⟨fun d => by simp only [State.die, hd], hc, hb⟩

theorem Recorded.foldl {α : Type} (f : State → α → State) (h : ∀ s a, Recorded s (f s a)) (l : List α) (s : State) :
    Recorded s (l.foldl f s) := by
  induction l generalizing s with
  | nil => exact .refl s
  | cons a l ih => exact (h s a).trans (ih _)

/-- A change of a die that leaves its journal. -/
theorem Recorded.mdie (s : State) (d : Nat) (f : Die → Die) (h : ∀ t, (f t).journal = t.journal) : Recorded s (s.mdie d f) :=
  ⟨fun e => mdie_keeps Die.journal s d e f h, rfl, rfl⟩

/-- A die is replaced by one with the same journal. -/
theorem Recorded.mdie_const (s : State) (d : Nat) (t : Die) (h : t.journal = (s.die d).journal) :
    Recorded s (s.mdie d (fun _ => t)) := by
  refine ⟨fun e => ?_, rfl, rfl⟩
  match d, e with
  | 0, 0 | 1, 1 | 2, 2 | _ + 3, _ + 3 => exact h
  | 0, 1 | 0, 2 | 0, _ + 3 | 1, 0 | 1, 2 | 1, _ + 3 | 2, 0 | 2, 1 | 2, _ + 3 | _ + 3, 0 | _ + 3, 1 | _ + 3, 2 => rfl

/-- What is logged stays logged. -/
theorem Recorded.logged {s t : State} (h : Recorded s t) (d kind source : Nat) (status : BitVec 32) (object : Word) :
    t.logged d kind source status object ↔ s.logged d kind source status object := by
  simp only [State.logged, h.journal d]

/-! ### Writes at the coherent point -/

theorem homeByte_recorded (s : State) (p r pa : Nat) (b : Byte) : Recorded s (s.homeByte p r pa b) := by
  unfold State.homeByte
  simp only []
  split
  · exact .refl s
  · exact .of_eq rfl rfl rfl

theorem homeMask_recorded (p r line : Nat) (data : Line) (mask : BitVec 128) (is : List Nat) (s : State) :
    Recorded s (s.homeMask p r line data mask is) := by
  induction is generalizing s with
  | nil => exact .refl s
  | cons i is ih =>
    unfold State.homeMask
    split
    · exact (homeByte_recorded s _ _ _ _).trans (ih _)
    · exact ih _

theorem notePush_recorded (s : State) (r line : Nat) : Recorded s (s.notePush r line) := by
  unfold State.notePush
  simp only []
  split
  · exact .of_eq rfl rfl rfl
  · exact .refl s

theorem rawBytes_recorded (s : State) (pa : Nat) (bs : List Byte) : Recorded s (s.rawBytes pa bs) := .of_eq rfl rfl rfl
theorem clearWriters_recorded (s : State) (pa n : Nat) : Recorded s (s.clearWriters pa n) := .of_eq rfl rfl rfl
theorem mplate_recorded (s : State) (f : Plate → Plate) : Recorded s (s.mplate f) := .of_eq rfl rfl rfl
theorem mctx_recorded (s : State) (f : Ctx → Ctx) : Recorded s (s.mctx f) := .of_eq rfl rfl rfl
theorem mcsr_recorded (s : State) (f : Csrs → Csrs) : Recorded s (s.mcsr f) := .of_eq rfl rfl rfl
theorem send_recorded (s : State) (a b : Nat) (m : Msg) : Recorded s (s.send a b m) := .of_eq rfl rfl rfl
theorem rawMask_recorded (s : State) (line : Nat) (data : Line) (mask : BitVec 128) : Recorded s (s.rawMask line data mask) :=
  .of_eq rfl rfl rfl
theorem markPoison_recorded (s : State) (line : Nat) (mask : BitVec 128) (q : BitVec 2) : Recorded s (s.markPoison line mask q) :=
  .of_eq rfl rfl rfl

theorem noteDirty_recorded (s : State) (line : Nat) (mask : BitVec 128) : Recorded s (s.noteDirty line mask) :=
  .mdie s _ _ (fun _ => rfl)

theorem setSharers_recorded (s : State) (line : Nat) (v : BitVec 4) : Recorded s (s.setSharers line v) :=
  .mdie s _ _ (fun _ => rfl)

theorem invSharers_recorded (s : State) (line : Nat) : Recorded s (s.invSharers line) := by
  unfold State.invSharers
  simp only []
  split
  · exact .refl s
  · refine Recorded.trans (Recorded.foldl _ (fun t d => ?_) _ s) (setSharers_recorded _ _ _)
    split
    · exact send_recorded _ _ _ _
    · exact .refl t

theorem mergeWr_recorded (s : State) (line : Nat) (data : Line) (mask : BitVec 128) (q : BitVec 2) (p r : Nat) :
    Recorded s (s.mergeWr line data mask q p r) := by
  unfold State.mergeWr
  refine Recorded.trans ?_ ((((markPoison_recorded _ line mask q).trans (notePush_recorded _ _ _)).trans
    (noteDirty_recorded _ _ _)).trans (invSharers_recorded _ _))
  split
  · exact homeMask_recorded _ _ _ _ _ _ s
  · refine (rawMask_recorded s _ _ _).trans (Recorded.foldl _ (fun t i => ?_) _ _)
    split
    · exact clearWriters_recorded _ _ _
    · exact .refl t

/-! ### The L2 -/

theorem l2Victim_journal (t u : Die) (line w : Nat) (out : Option L2Line) (h : t.l2Victim line = some (w, out, u)) :
    u.journal = t.journal := by
  unfold Die.l2Victim at h
  simp only [] at h
  split at h
  · cases h; rfl
  · split at h
    · cases h; rfl
    · cases h

theorem l2Out_recorded (s : State) (d : Nat) (e : L2Line) : Recorded s (s.l2Out d e) := by
  unfold State.l2Out
  split
  · exact rawMask_recorded _ _ _ _
  · split
    · exact invSharers_recorded _ _
    · exact .refl s

theorem l2Insert_recorded (s : State) (d : Nat) (e : L2Line) : Recorded s ((s.l2Insert d e).getD s) := by
  unfold State.l2Insert
  split
  · exact .refl s
  · next w out t hv =>
    have hj := l2Victim_journal _ _ _ _ _ hv
    have hput : ∀ u : Die, u.journal = t.journal → Recorded s (s.mdie d (fun _ => { u with l2 := { e with way := w } :: u.l2 })) :=
      fun u hu => .mdie_const s d _ (hu.trans hj)
    simp only [Option.getD_some]
    split
    · exact (hput _ (by split <;> rfl)).trans (l2Out_recorded _ _ _)
    · exact hput _ (by split <;> rfl)

theorem l2Touch_recorded (s : State) (d line rh : Nat) (swm : Bool) (r : Nat) : Recorded s (s.l2Touch d line rh swm r) := by
  have miss : ∀ t : State, Recorded t (if homeDie (line * 128) = d ∨ swm = true then
      (if rh = 3 then t else (t.l2Insert d (t.l2Fresh line rh swm r)).getD t)
      else if t.rdOut d line = true then t else t.send d (homeDie (line * 128)) (.rd line rh r)) := by
    intro t
    split
    · split
      · exact .refl t
      · exact l2Insert_recorded _ _ _
    · split
      · exact .refl t
      · exact send_recorded _ _ _ _
  unfold State.l2Touch
  simp only []
  split
  · exact .mdie_const s d _ (by split <;> rfl)
  · refine Recorded.trans (.mdie_const s d _ ?_) (miss _)
    split <;> rfl

/-! ### Requests at the home -/

theorem bankStep_recorded (s : State) (pa n r : Nat) (f : Nat → Nat) : Recorded s (s.bankStep pa n r f).1 := by
  have hhome : Recorded s (if isCarved pa = true then s else (s.l2Touch (homeDie pa) (pa / 128) 0 false r).invSharers (pa / 128)) := by
    split
    · exact .refl s
    · exact (l2Touch_recorded _ _ _ _ _ _).trans (invSharers_recorded _ _)
  exact (((hhome.trans (rawBytes_recorded _ _ _)).trans (clearWriters_recorded _ _ _)).trans (notePush_recorded _ _ _)).trans
    (noteDirty_recorded _ _ _)

theorem barrierAdd_recorded (s : State) (pa : Nat) : Recorded s (s.barrierAdd pa) := by
  unfold State.barrierAdd
  split
  · exact rawBytes_recorded _ _ _
  · exact .refl s

theorem atomStep_recorded (s : State) (pa op r : Nat) (a e : Word) : Recorded s (s.atomStep pa op r a e).1 := by
  unfold State.atomStep
  simp only []
  split
  · exact (bankStep_recorded _ _ _ _ _).trans (barrierAdd_recorded _ _)
  · exact bankStep_recorded _ _ _ _ _

theorem perform_recorded (s : State) (m : Msg) : Recorded s (s.perform m).1 := by
  unfold State.perform
  split
  · exact mergeWr_recorded _ _ _ _ _ _ _
  · exact atomStep_recorded _ _ _ _ _ _
  · exact .refl s

theorem restate_recorded (s : State) (a b : Nat) (m n : Msg) : Recorded s (s.restate a b m n) := by
  unfold State.restate
  refine Recorded.trans (t := (s.mlink _ _ _).mlink _ _ _) (.of_eq rfl rfl rfl) (.mdie _ _ _ ?_)
  exact fun _ => rfl

theorem settle_recorded (s : State) (d : Nat) (pick : Nat → Bool) : Recorded s (s.settle d pick) :=
  Recorded.foldl _ (fun _ _ => Recorded.foldl _ (fun u m => (perform_recorded u m).trans (restate_recorded _ _ _ _ _)) _ _) _ _

theorem l2Access_recorded (s : State) (d line rh : Nat) (swm : Bool) (r : Nat) : Recorded s (s.l2Access d line rh swm r) := by
  unfold State.l2Access
  split
  · exact l2Touch_recorded _ _ _ _ _ _
  · exact (settle_recorded _ _ _).trans (l2Touch_recorded _ _ _ _ _ _)

theorem homeLine_recorded (s : State) (d p r line : Nat) (data : Line) (mask : BitVec 128) (q : BitVec 2) :
    Recorded s (s.homeLine d p r line data mask q) := by
  unfold State.homeLine
  split
  · exact mergeWr_recorded _ _ _ _ _ _ _
  · exact send_recorded _ _ _ _

theorem homeWrite_recorded (s : State) (p r pa n v : Nat) : Recorded s (s.homeWrite p r pa n v) :=
  Recorded.foldl _ (fun _ _ => homeLine_recorded _ _ _ _ _ _ _ _) _ _

/-! ### Translation -/

theorem walkTouch_recorded (va : Nat) (l : List Nat) (s : State) (table : Nat) : Recorded s (s.walkTouch va l table) := by
  induction l generalizing s table with
  | nil => exact .refl s
  | cons sh l ih =>
    unfold State.walkTouch
    simp only []
    generalize table + 8 * (va / 2 ^ sh % (if sh = 16 then 32 else 512)) = ea
    have hread : Recorded s (if isCarved ea = true then s else s.l2Access (dieOfPlate s.plate.id) (ea / 128) 0 false 0) := by
      split
      · exact .refl s
      · exact l2Access_recorded _ _ _ _ _ _
    split
    · exact hread
    · exact hread.trans (ih _ _)

theorem xlate_recorded (s t : State) (asid : BitVec 12) (root : Word) (va : Nat) (x : Xlat)
    (h : s.xlate asid root va = .ok (t, x)) : Recorded s t := by
  unfold State.xlate at h
  simp only [] at h
  split at h
  · exact nomatch h
  · split at h
    · obtain ⟨a, _, e⟩ := map_ok _ _ _ h
      cases e; exact .refl s
    · split at h
      · obtain ⟨a, _, e⟩ := map_ok _ _ _ h
        cases e; exact mplate_recorded _ _
      · split at h
        · exact nomatch h
        · obtain ⟨a, _, e⟩ := map_ok _ _ _ h
          cases e
          refine ((walkTouch_recorded _ _ _ _).trans (.mdie _ _ _ ?_)).trans (mplate_recorded _ _)
          exact fun _ => rfl

theorem resolvePart_recorded (s t : State) (va n : Nat) (p : Piece) (h : s.resolvePart va n = .ok (t, p)) : Recorded s t := by
  unfold State.resolvePart at h
  split at h
  · split at h
    · cases h; exact .refl s
    · cases h
  · split at h
    · cases h
    · next u x hx => cases h; exact xlate_recorded _ _ _ _ _ _ hx

theorem resolveParts_recorded (l : List (Nat × Nat)) (s t : State) (ps : List Piece) (h : s.resolveParts l = .ok (t, ps)) :
    Recorded s t := by
  induction l generalizing s ps with
  | nil => cases h; exact .refl _
  | cons a l ih =>
    obtain ⟨va, n⟩ := a
    unfold State.resolveParts at h
    split at h
    · cases h
    · next u p hu =>
      split at h
      · cases h
      · next v q hv =>
        cases h
        exact (resolvePart_recorded _ _ _ _ _ hu).trans (ih _ _ hv)

theorem resolve_recorded (s t : State) (va n : Nat) (a : Acc) (ok : Target → Bool) (ps : List Piece)
    (h : s.resolve va n a ok = .ok (t, ps)) : Recorded s t := by
  unfold State.resolve at h
  split at h
  · cases h
  · next u q hu =>
    split at h
    · cases h
    · simp only [] at h
      split at h
      · cases h
      · split at h
        · cases h
        · cases h
          exact resolveParts_recorded _ _ _ _ hu

end Sys2Proof.Machine
end

section
/-! PROOFS. Accounts, freezing, halting and the end of a task: what stays of the context, and what the journal holds (R208, R220,
R340 to R345, R361). -/

namespace Sys2Proof.Machine

/-! ### Accounts (R340 to R345) -/

/-- Charging and its records change of a context its totals, its open runs, and ACCCTL, which counts the records. -/
def Ctx.charged (c d : Ctx) : Prop :=
  d = { c with csr := { c.csr with accctl := d.csr.accctl }, acct := d.acct, runs := d.runs, engRuns := d.engRuns }

/-- What charging changes: the context's accounts, and not the records of the device. -/
def Accounted (s t : State) : Prop := s.ctx.charged t.ctx ∧ Recorded s t

theorem Ctx.charged.trans {c d e : Ctx} (h : c.charged d) (g : d.charged e) : c.charged e :=
  Eq.trans g (congrArg (fun z : Ctx => { z with
    csr := { z.csr with accctl := e.csr.accctl }, acct := e.acct, runs := e.runs, engRuns := e.engRuns }) h)

theorem Accounted.refl (s : State) : Accounted s s := ⟨rfl, .refl s⟩

theorem Accounted.trans {s t u : State} (h : Accounted s t) (g : Accounted t u) : Accounted s u :=
  ⟨h.1.trans g.1, h.2.trans g.2⟩

theorem Accounted.of_ctx {s t : State} (hc : t.ctx = s.ctx) (h : Recorded s t) : Accounted s t :=
  ⟨by rw [hc]; rfl, h⟩

theorem Accounted.foldl {α : Type} (f : State → α → State) (h : ∀ s a, Accounted s (f s a)) (l : List α) (s : State) :
    Accounted s (l.foldl f s) := by
  induction l generalizing s with
  | nil => exact .refl s
  | cons a l ih => exact (h s a).trans (ih _)

/-- A change of the accounts of the context in focus. -/
theorem Accounted.mctx (s : State) (f : Ctx → Ctx) (h : s.ctx.charged (f s.ctx)) : Accounted s (s.mctx f) :=
  ⟨h, mctx_recorded s f⟩

/-- ACCCTL alone is written. -/
theorem Accounted.accctl (s : State) (f : Csrs → Word) : Accounted s (s.mcsr (fun r => { r with accctl := f r })) :=
  ⟨rfl, mcsr_recorded s _⟩

theorem post_recorded (s : State) (d code plate : Nat) (esn : BitVec 32) (object detail : Word) :
    Recorded s (s.post d code plate esn object detail) := .mdie s d _ (fun _ => rfl)

theorem deviceWrite_accounted (s t : State) (asid : BitVec 12) (root : Word) (plate va n v : Nat)
    (h : s.deviceWrite asid root plate va n v = some t) : Accounted s t := by
  unfold State.deviceWrite at h
  split at h
  · cases h
  · next u x hx =>
    split at h
    · cases h
      exact .of_ctx ((homeWrite_quiet _ _ _ _ _ _).1.trans (xlate_quiet _ _ _ _ _ _ hx).1)
        ((xlate_recorded _ _ _ _ _ _ hx).trans (homeWrite_recorded _ _ _ _ _ _))
    · cases h

theorem streamRecord_accounted (s : State) (dw0 dw1 : Nat) : Accounted s (s.streamRecord dw0 dw1) := by
  unfold State.streamRecord
  simp only []
  split
  · exact .refl s
  · split
    · next t ht => exact (deviceWrite_accounted _ _ _ _ _ _ _ _ ht).trans (.accctl t _)
    · exact (Accounted.accctl s _).trans (.of_ctx rfl (post_recorded _ _ _ _ _ _ _))

theorem writeRun_accounted (s : State) (r : Run) : Accounted s (s.writeRun r) := streamRecord_accounted _ _ _

theorem writeEngRun_accounted (s : State) (r : EngRun) : Accounted s (s.writeEngRun r) := by
  unfold State.writeEngRun
  split
  · exact streamRecord_accounted _ _ _
  · exact .refl s

theorem closeRuns_accounted (s : State) : Accounted s s.closeRuns :=
  ((Accounted.foldl _ writeRun_accounted _ _).trans (Accounted.foldl _ writeEngRun_accounted _ _)).trans (.mctx _ _ rfl)

theorem marker_accounted (s : State) (code : Nat) : Accounted s (s.marker code) :=
  (closeRuns_accounted s).trans (streamRecord_accounted _ _ _)

theorem chargeSlots_accounted (s : State) : Accounted s s.chargeSlots := by
  refine (Accounted.trans (.mctx s _ ?_) (Accounted.foldl _ (fun _ _ => Accounted.foldl _ writeRun_accounted _ _) _ _)).trans
    (.mctx _ _ ?_)
  · rfl
  · rfl

theorem chargeLeaving_accounted (s : State) : Accounted s s.chargeLeaving := by
  unfold State.chargeLeaving
  split
  · exact (chargeSlots_accounted s).trans (.of_ctx rfl (mplate_recorded _ _))
  · exact .refl s

theorem activateNext_recorded (s : State) : Recorded s s.activateNext := by
  unfold State.activateNext
  exact mplate_recorded s _

theorem deactivate_accounted (s : State) : Accounted s s.deactivate := by
  unfold State.deactivate
  split
  · exact (chargeLeaving_accounted s).trans (.of_ctx rfl (activateNext_recorded _))
  · exact .refl s

/-! ### The journal -/

/-- An entry that is journalled is logged. -/
theorem logged_journal (s : State) (d kind source : Nat) (status : BitVec 32) (object : Word) (plate : Nat) (detail : List Word) :
    (s.journal d kind source status object plate detail).logged d kind source status object :=
  logged_of_newest (newest_journal s d kind source status object plate detail)

/-! ### Halting and freezing (R220, R361) -/

/-- A context that halts keeps its registers, and its HALT entry is logged (R220). -/
theorem haltCtx_halted (s : State) (detail : List Word) :
    (s.haltCtx detail).ctx.life = .halted ∧ (s.haltCtx detail).logged s.ctx.die 11 2 0 (BitVec.ofNat 64 s.ctx.id.toNat) ∧
      (s.haltCtx detail).ctx.x = s.ctx.x ∧ (s.haltCtx detail).ctx.lines = s.ctx.lines := by
  obtain ⟨hctx, hrec⟩ := deactivate_accounted ((s.mctx (fun c => { c with life := .halted })).journal s.ctx.die 11 2 0
    (BitVec.ofNat 64 s.ctx.id.toNat) s.ctx.plate detail)
  exact ⟨(congrArg Ctx.life hctx).trans rfl, (hrec.logged _ _ _ _ _).mpr (logged_journal _ _ _ _ _ _ _ _),
    (congrArg Ctx.x hctx).trans rfl, (congrArg Ctx.lines hctx).trans rfl⟩

/-- A context that freezes holds its fault in the trap CSRs, and its FROZEN entry is logged (R361). -/
theorem freeze_frozen (s : State) (e : Exc) :
    (s.freeze e).ctx.life = .frozen ∧ (s.freeze e).ctx.csr.tpc = e.tpc ∧ (s.freeze e).ctx.csr.taddr = e.addr ∧
      (s.freeze e).logged s.ctx.die 12 2 0 (BitVec.ofNat 64 s.ctx.id.toNat) := by
  have hacc : ∀ t : State, Accounted t (t.post s.ctx.die 7 s.ctx.plate e.esn (BitVec.ofNat 64 s.ctx.id.toNat) e.addr).deactivate :=
    fun t => Accounted.trans (t := t.post _ _ _ _ _ _) (.of_ctx rfl (post_recorded t _ _ _ _ _ _)) (deactivate_accounted _)
  obtain ⟨hctx, hrec⟩ := hacc (((s.mcsr (fun c => c.record e)).mctx (fun c => { c with life := .frozen })).journal s.ctx.die 12 2 0
    (BitVec.ofNat 64 s.ctx.id.toNat) s.ctx.plate [(s.ctx.csr.record e).tcause, e.tpc, e.addr, BitVec.ofNat 64 e.esn.toNat])
  exact ⟨(congrArg Ctx.life hctx).trans rfl, (congrArg (fun c : Ctx => c.csr.tpc) hctx).trans rfl,
    (congrArg (fun c : Ctx => c.csr.taddr) hctx).trans rfl, (hrec.logged _ _ _ _ _).mpr (logged_journal _ _ _ _ _ _ _ _)⟩

/-! ### The end of a task (R208, R214, R339) -/

theorem giveUnits_recorded (s : State) (d n : Nat) : Recorded s (s.giveUnits d n) := .mdie s d _ (fun _ => rfl)

theorem giveBooking_recorded (s : State) : Recorded s s.giveBooking := by
  unfold State.giveBooking
  split
  · exact .refl s
  · exact ((giveUnits_recorded s _ _).trans (mctx_recorded _ _)).trans (mplate_recorded _ _)

theorem dropAsks_recorded (s : State) : Recorded s s.dropAsks := by
  unfold State.dropAsks
  exact (giveUnits_recorded s _ _).trans (mplate_recorded _ _)

/-- The state in which the end of the context in focus is logged: its cycle charged, its booking and its asks given back. -/
def State.settledEnd (s : State) : State :=
  ((((if s.plate.active = some s.ctx.id then s.chargeLeaving else s).marker 3).giveBooking).dropAsks)

theorem settledEnd_recorded (s : State) : Recorded s s.settledEnd := by
  have hcharge : Recorded s (if s.plate.active = some s.ctx.id then s.chargeLeaving else s) := by
    split
    · exact (chargeLeaving_accounted s).2
    · exact .refl s
  exact ((hcharge.trans (marker_accounted _ _).2).trans (giveBooking_recorded _)).trans (dropAsks_recorded _)

/-- The COMPLETE entry of the context in focus, in a state that is settled. -/
def State.logEnd (s : State) (source : Nat) (status : BitVec 32) : State :=
  s.settledEnd.journal s.ctx.die 3 source status (BitVec.ofNat 64 s.ctx.id.toNat) 0 []

/-- The choice of the plate's next context is the plate's own. -/
theorem activateNext_if (s : State) (c : Prop) [Decidable c] :
    (if c then s.activateNext else s).ctx = s.ctx ∧ Recorded s (if c then s.activateNext else s) := by
  split
  · exact ⟨rfl, activateNext_recorded s⟩
  · exact ⟨rfl, .refl s⟩

/-- After its COMPLETE entry an ending context frees what it holds: no journal and no continuation record changes. -/
theorem endCtxBy_recorded (s : State) (source : Nat) (status : BitVec 32) :
    Recorded (s.logEnd source status) (s.endCtxBy source status) := by
  refine ((((mctx_recorded (s.logEnd source status) _).trans (.mdie _ _ _ ?_)).trans (mplate_recorded _ _)).trans
    (mplate_recorded _ _)).trans (activateNext_if _ _).2
  exact fun _ => rfl

theorem endCtxBy_life (s : State) (source : Nat) (status : BitVec 32) : (s.endCtxBy source status).ctx.life = .ended :=
  (congrArg Ctx.life (activateNext_if _ _).1).trans rfl

/-- A context that ends is gone, and its COMPLETE entry is logged. -/
theorem endCtx_ended (s : State) (status : BitVec 32) :
    (s.endCtx status).ctx.life = .ended ∧ (s.endCtx status).logged s.ctx.die 3 2 status (BitVec.ofNat 64 s.ctx.id.toNat) :=
  ⟨endCtxBy_life s 2 status, ((endCtxBy_recorded s 2 status).logged _ _ _ _ _).mpr (logged_journal _ _ _ _ _ _ _ _)⟩

/-- The end of a context leaves the continuation records. -/
theorem endCtx_contins (s : State) (status : BitVec 32) : (s.endCtx status).contins = s.contins :=
  (endCtxBy_recorded s 2 status).contins.trans (settledEnd_recorded s).contins

end Sys2Proof.Machine
end

section
/-! PROOFS. Taking an exception (R93, R213, R214, R361, R387): what lands first, how a context leaves its domain, the trap CSRs, the
frame and the handler, and a word that faults before its effect. -/

namespace Sys2Proof.Machine

/-! ### Landing (R55, R68, R214) -/

/-- What landing may change of a context: registers and lines that were awaited, tokens, flags that join FSTAT. -/
def Ctx.landsTo (c d : Ctx) : Prop :=
  d = { c with
    x := d.x, lines := d.lines, newNext := d.newNext, newPrev := d.newPrev, outNext := d.outNext, outPrev := d.outPrev,
    latch := d.latch, csr := { c.csr with fstat := d.csr.fstat }, lateFlags := d.lateFlags, pends := d.pends, flight := d.flight }

theorem Ctx.landsTo.trans {c d e : Ctx} (h : c.landsTo d) (g : d.landsTo e) : c.landsTo e :=
  Eq.trans g (congrArg (fun z : Ctx => { z with
    x := e.x, lines := e.lines, newNext := e.newNext, newPrev := e.newPrev, outNext := e.outNext, outPrev := e.outPrev,
    latch := e.latch, csr := { z.csr with fstat := e.csr.fstat }, lateFlags := e.lateFlags, pends := e.pends, flight := e.flight }) h)

theorem landFlight_landsTo (c : Ctx) (f : InFlight) : c.landsTo (c.landFlight f) := by
  unfold Ctx.landFlight
  cases f.arr with
  | x n v => rfl
  | v n w => rfl
  | none => rfl

theorem landFlights_landsTo (l : List InFlight) (c : Ctx) : c.landsTo (l.foldl Ctx.landFlight c) := by
  induction l generalizing c with
  | nil => rfl
  | cons f l ih => exact (landFlight_landsTo c f).trans (ih _)

theorem Ctx.landAll_landsTo (c : Ctx) : c.landsTo c.landAll :=
  Ctx.landsTo.trans (d := { c with pends := [] }) rfl ((landFlights_landsTo c.flight _).trans rfl)

theorem landAll_landsTo (s : State) : s.ctx.landsTo s.landAll.ctx := by
  unfold State.landAll
  have hperformed : (if s.ctx.flight.any (fun f => f.wait) = true then s.settle (dieOfPlate s.plate.id) (fun _ => true) else s).ctx =
      s.ctx := by
    split
    · exact (settle_quiet _ _ _).1
    · rfl
  simp only [State.mctx_ctx, hperformed]
  exact Ctx.landsTo.trans (d := { s.ctx with flight := _ }) rfl (Ctx.landAll_landsTo _)

/-- With nothing in flight, landing leaves the registers. -/
theorem landAll_none (s : State) (h : s.ctx.flight = []) : s.landAll.ctx.x = s.ctx.x ∧ s.landAll.ctx.lines = s.ctx.lines := by
  simp [State.landAll, h, Ctx.landAll, Ctx.joinFlags]

/-! ### Leaving a domain (R198) -/

theorem foldl_ctx {α : Type} (f : State → α → State) (h : ∀ s a, (f s a).ctx = s.ctx) (l : List α) (s : State) :
    (l.foldl f s).ctx = s.ctx := by
  induction l generalizing s with
  | nil => rfl
  | cons a l ih => exact (ih _).trans (h s a)

theorem tellRoot_ctx (s : State) (v : Domain) (m : TreeMsg) : (s.tellRoot v m).ctx = s.ctx := by
  unfold State.tellRoot
  split <;> rfl

theorem dueIfEmpty_ctx (s : State) (d : BitVec 10) : (s.dueIfEmpty d).ctx = s.ctx := by
  unfold State.dueIfEmpty
  split <;> rfl

theorem kidChange_ctx (s : State) (d : BitVec 10) (was : Bool) : (s.kidChange d was).ctx = s.ctx := by
  unfold State.kidChange
  split
  · rfl
  · split
    · rfl
    · split
      · rfl
      · split
        · rfl
        · split
          · rfl
          · split
            · rfl
            · exact dueIfEmpty_ctx _ _

theorem tellMembers_ctx (s : State) (v : Domain) (m : TreeMsg) : (s.tellMembers v m).ctx = s.ctx :=
  foldl_ctx (fun t dev => t.sendFlit (t.treeFlit dev m)) (fun _ _ => rfl) _ s

theorem tellRoster_ctx (s : State) (d : BitVec 10) (force : Bool) : (s.tellRoster d force).ctx = s.ctx := by
  unfold State.tellRoster
  split
  · split
    · exact tellMembers_ctx _ _ _
    · rfl
  · rfl

theorem memberEntry_ctx (s : State) (die : Nat) (id : BitVec 32) (d : BitVec 10) (joined : Bool) :
    (s.memberEntry die id d joined).ctx = s.ctx := rfl

theorem putDomain_ctx (s : State) (d : BitVec 10) (v : Domain) : (s.putDomain d v).ctx = s.ctx := rfl

/-- A context that withdraws keeps all but its membership. -/
theorem withdraw_ctx (s : State) : s.withdraw.ctx = s.ctx ∨
    s.withdraw.ctx = { s.ctx with joining := none, csr := { s.ctx.csr with dmr := 0, phcnt := 0 } } := by
  unfold State.withdraw
  split
  · exact .inl rfl
  · refine .inr ?_
    simp only []
    split
    · rfl
    · split
      · simp only [memberEntry_ctx, tellRoster_ctx, kidChange_ctx, tellRoot_ctx]
        split
        · simp only [dueIfEmpty_ctx, putDomain_ctx, State.mctx_ctx]
        · simp only [putDomain_ctx, State.mctx_ctx]
      · simp only [tellRoot_ctx, putDomain_ctx, State.mctx_ctx]

theorem withdraw_names (s : State) : s.withdraw.ctx.id = s.ctx.id ∧ s.withdraw.ctx.die = s.ctx.die := by
  rcases withdraw_ctx s with h | h <;> rw [h] <;> exact ⟨rfl, rfl⟩

/-! ### Vectoring (R213, R214) -/

theorem traceWrite_ctx (s : State) (t : TraceCfg) (kind : Nat) (id : BitVec 32) (dws : List Word) :
    (s.traceWrite t kind id dws).ctx = s.ctx := by
  unfold State.traceWrite
  simp only []
  split
  · rw [State.mplate_ctx]
    exact (homeWrite_quiet _ _ _ _ _ _).1
  · rfl

theorem trace_ctx (s : State) (kind : Nat) (dws : List Word) : (s.trace kind dws).ctx = s.ctx := by
  have hlost : ∀ t : TraceCfg, (if t.lost = 0 then s
      else s.traceWrite { t with lost := 0 } 6 s.ctx.id [BitVec.ofNat 64 t.lost, 0, 0, 0, 0, 0]).ctx = s.ctx := by
    intro t
    split
    · rfl
    · exact traceWrite_ctx _ _ _ _ _
  unfold State.trace State.traceAs
  split
  · rfl
  · split
    · rfl
    · simp only []
      split
      · exact hlost _
      · exact (traceWrite_ctx _ _ _ _ _).trans (hlost _)

/-- The trap ends a strand's wait in the frame as `unmark` says it, whatever else the context holds. -/
theorem unmark_eq (c : Ctx) (k : Nat) : c.unmark k = { c with strands := (c.unmark k).strands } := by
  unfold Ctx.unmark
  simp only []
  split <;> rfl

theorem unmark_strands_congr (c d : Ctx) (k : Nat) (hl : d.lockstep = c.lockstep) (hs : d.strands = c.strands) :
    (d.unmark k).strands = (c.unmark k).strands := by
  unfold Ctx.unmark
  simp only [hl, hs]
  split <;> rfl

/-- A handler takes the fault that the trap CSRs hold: ACT is set, the frame is captured, the strands stand at the handler. -/
theorem vectorTrap_ctx (s : State) (after : Option (Word × Nat)) (h : s.ctx.csr.vector ≠ 0) :
    (s.vectorTrap after).ctx = { s.ctx with
      csr := { s.ctx.csr with tcause := setBits s.ctx.csr.tcause 9 9 1 },
      frame := some { strands := s.ctx.strands.map StrandSt.frame, lockstep := s.ctx.lockstep, after := after },
      lockstep := true, hold := 9, holdFor := .trap, ported := false, ending := false,
      strands := s.ctx.strands.map (fun t =>
        { t with pc := s.ctx.csr.vector, xfer := none, joined := false, mark := false, since := none, past := false }) } := by
  unfold State.vectorTrap
  simp only [h, if_false, trace_ctx]
  rfl

/-- With no handler the task ends with the cause's status (R214 step 3). -/
theorem vectorTrap_none (s : State) (after : Option (Word × Nat)) (h : s.ctx.csr.vector = 0) :
    (s.vectorTrap after).ctx.life = .ended ∧
      (s.vectorTrap after).logged s.ctx.die 3 2 (BitVec.ofNat 32 (0x80000100 + bitsOf s.ctx.csr.tcause 7 0))
        (BitVec.ofNat 64 s.ctx.id.toNat) := by
  obtain ⟨hid, hdie⟩ := withdraw_names s
  unfold State.vectorTrap
  simp only [h, if_true]
  rw [← hid, ← hdie]
  exact endCtx_ended _ _

/-! ### Entry (R214 steps 2 to 6) -/

/-- The state in which a fault is recorded: what was in flight has landed, and the trapping word's wait is over. -/
def State.faulting (s : State) (e : Exc) : State := s.landAll.mctx (fun c => if e.eng then c else c.unmark e.strand)

/-- A fault that reaches the handler, or ends the task, is recorded with ACT clear. -/
def State.recorded (s : State) (e : Exc) : State := (s.faulting e).mcsr (fun c => c.record e)

theorem faulting_landsTo (s : State) (e : Exc) :
    ∃ q : Quad StrandSt, (s.faulting e).ctx = { s.landAll.ctx with strands := q } := by
  unfold State.faulting
  cases e.eng with
  | true => exact ⟨_, rfl⟩
  | false => exact ⟨_, unmark_eq _ _⟩

/-- What a fault finds of its context. -/
theorem faulting_keeps (s : State) (e : Exc) :
    (s.faulting e).ctx.id = s.ctx.id ∧ (s.faulting e).ctx.die = s.ctx.die ∧ (s.faulting e).ctx.lockstep = s.ctx.lockstep ∧
      (s.faulting e).ctx.spad = s.ctx.spad ∧ (s.faulting e).ctx.csr.act = s.ctx.csr.act ∧
      (s.faulting e).ctx.csr.vector = s.ctx.csr.vector ∧ (s.faulting e).ctx.x = s.landAll.ctx.x := by
  obtain ⟨q, hq⟩ := faulting_landsTo s e
  have hl := landAll_landsTo s
  rw [hq, hl]
  exact ⟨rfl, rfl, rfl, rfl, rfl, rfl, rfl⟩

/-- The strands as the frame of a word's fault holds them. -/
theorem faulting_strands (s : State) (e : Exc) (h : e.eng = false) :
    (s.faulting e).ctx.strands = (s.ctx.unmark e.strand).strands := by
  have hl := landAll_landsTo s
  simp only [State.faulting, h, State.mctx_ctx, Bool.false_eq_true, if_false]
  exact unmark_strands_congr _ _ _ ((congrArg Ctx.lockstep hl).trans rfl) ((congrArg Ctx.strands hl).trans rfl)

/-- PROT, and a fault while a trap is being handled, freeze the context (R361). -/
theorem enterTrapPast_freezes (s : State) (e : Exc) (after : Option (Word × Nat)) (h : e.cause = .prot ∨ s.ctx.csr.act = true) :
    s.enterTrapPast e after = (s.faulting e).freeze e := by
  obtain ⟨-, -, -, -, hact, -⟩ := faulting_keeps s e
  rw [← hact] at h
  exact if_pos h

/-- Every other fault is recorded and goes to the handler. -/
theorem enterTrapPast_vectors (s : State) (e : Exc) (after : Option (Word × Nat)) (hp : e.cause ≠ .prot) (ha : s.ctx.csr.act = false) :
    s.enterTrapPast e after = (s.recorded e).vectorTrap after := by
  obtain ⟨-, -, -, -, hact, -⟩ := faulting_keeps s e
  refine if_neg (fun h => ?_)
  rcases h with h | h
  · exact hp h
  · exact Bool.false_ne_true (ha.symm.trans (hact.symm.trans h))

/-- TCAUSE of a fault that is recorded with ACT clear. -/
theorem recorded_tcause (s : State) (e : Exc) (ha : s.ctx.csr.act = false) :
    (s.recorded e).ctx.csr.tcause = BitVec.ofNat 64 (e.cause.code + if e.eng then 256 else 0) := by
  obtain ⟨-, -, -, -, hact, -⟩ := faulting_keeps s e
  simp [State.recorded, Csrs.record, hact, ha]

/-- The code of a cause lies in TCAUSE's low byte, and ACT above it. -/
theorem code_lt (c : Cause) : c.code < 256 := by cases c <;> decide

theorem setBits_act_code (c : Cause) : setBits (BitVec.ofNat 64 c.code) 9 9 1 = BitVec.ofNat 64 (c.code + 512) := by
  cases c <;> rfl

theorem bitsOf_code (c : Cause) (eng : Bool) : bitsOf (BitVec.ofNat 64 (c.code + if eng then 256 else 0)) 7 0 = c.code := by
  have hc := code_lt c
  cases eng <;> simp [bitsOf] <;> omega

/-- Taking the precise fault of a word whose context has a handler, and handles no trap (R214). -/
theorem enterTrapPast_tookTrap (s : State) (k : Strand) (c : Cause) (addr tpc : Word) (word : BitVec 32) (after : Option (Word × Nat))
    (hcan : s.canTrap) (hc : c ≠ .prot) :
    s.tookTrap (s.enterTrapPast (excOf k c addr tpc word) after) c k tpc addr word ∧
      (s.enterTrapPast (excOf k c addr tpc word) after).ctx.spad = s.ctx.spad ∧
      (s.ctx.flight = [] → (s.enterTrapPast (excOf k c addr tpc word) after).ctx.x = s.ctx.x) := by
  obtain ⟨hact, hvec⟩ := hcan
  obtain ⟨-, -, hlock, hspad, -, hv, hx⟩ := faulting_keeps s (excOf k c addr tpc word)
  have hstr := faulting_strands s (excOf k c addr tpc word) rfl
  have hcause := recorded_tcause s (excOf k c addr tpc word) hact
  rw [enterTrapPast_vectors s _ after hc hact]
  have hctx := vectorTrap_ctx (s.recorded (excOf k c addr tpc word)) after (fun h => hvec (hv.symm.trans h))
  refine ⟨⟨?_, ?_, ?_, ?_, ?_, ?_, ⟨after, ?_⟩, ?_, fun j => ?_⟩, ?_, fun hf => ?_⟩
  · rw [hctx, hcause]
    exact setBits_act_code c
  · rw [hctx]; rfl
  · rw [hctx]; rfl
  · rw [hctx]; exact BitVec.ofNat_toNat _ _
  · rw [hctx]; rfl
  · rw [hctx]; rfl
  · rw [hctx, ← hlock]
    exact congrArg (fun q : Quad StrandSt => some (Frame.mk (q.map StrandSt.frame) _ after)) hstr
  · rw [hctx]
  · simp only [State.strand, hctx, Quad.get_map, and_true]
    exact hv
  · rw [hctx]; exact hspad
  · rw [hctx]; exact hx.trans (landAll_none s hf).1

end Sys2Proof.Machine
end

section
/-! PROOFS. Words that fault before their effect (R92, R93, R387), and O34: misaligned loads and stores (R118), freezes and ends. -/

namespace Sys2Proof.Machine

/-! ### Words that fault before their effect -/

/-- The strand that has the turn has taken a fault of its word: nothing is done but the trap (R93, R387). -/
def State.faulted (s t : State) (c : Cause) (addr : Word) (word : BitVec 32) : Prop :=
  s.tookTrap t c s.ctx.cur (s.addrOf s.ctx.cur) addr word ∧ t.ctx.spad = s.ctx.spad ∧ (s.ctx.flight = [] → t.ctx.x = s.ctx.x)

/-- What a trap says of the state before it reads the strands, the mode and the CSRs. -/
theorem tookTrap_congr {f g t : State} {c : Cause} {k : Strand} {tpc addr : Word} {word : BitVec 32}
    (h : f.tookTrap t c k tpc addr word) (hl : g.ctx.lockstep = f.ctx.lockstep) (hs : g.ctx.strands = f.ctx.strands)
    (hc : g.ctx.csr = f.ctx.csr) : g.tookTrap t c k tpc addr word := by
  unfold State.tookTrap at h ⊢
  rw [unmark_strands_congr f.ctx g.ctx k.num hl hs, hl, hc]
  exact h

theorem faultBefore_faulted (s : State) (w : BitVec 32) (c : Cause) (addr : Word) (hb : s.bundle = false) (hcan : s.canTrap)
    (hc : c ≠ .prot) : s.faulted (s.faultBefore w c addr) c addr w := by
  have hbundle : (s.note s.ctx.cur .trap (.trapped s.ctx.cur c addr w false)).bundle = false := hb
  obtain ⟨htook, hrest⟩ := enterTrapPast_tookTrap (s.note s.ctx.cur .trap (.trapped s.ctx.cur c addr w false)) s.ctx.cur c addr
    (s.addrOf s.ctx.cur) w _ hcan hc
  simp only [State.faultBefore, hbundle, Bool.false_eq_true, if_false]
  exact ⟨tookTrap_congr htook rfl rfl rfl, hrest⟩

/-- A word whose own check fails takes the fault that the check names (R92). -/
theorem issue_check_faulted (s : State) (i : Instr) (k : Ctl) (allowed : Strand → Bool) (ct : Bool) (checks : State → Option Cause)
    (eff : State → Res) (c : Cause) (hm : s.bump.misplaced i k.sy allowed ct = false) (hchk : checks s.bump = some c)
    (hb : s.bundle = false) (hcan : s.canTrap) (hc : c ≠ .prot) :
    s.faulted (s.issue i k allowed ct checks eff) c s.bump.anyAddr (BitVec.ofNat 32 (encodeWord i)) := by
  rw [issue_check s i k allowed ct checks eff c hm hchk]
  exact faultBefore_faulted s.bump _ _ _ hb hcan hc

/-- A ready word whose effect is a fault takes it, with no other effect (R387). -/
theorem issue_trap_faulted (s : State) (i : Instr) (k : Ctl) (allowed : Strand → Bool) (ct : Bool) (checks : State → Option Cause)
    (eff : State → Res) (c : Cause) (addr : Word) (h : s.ready i k allowed ct) (hchk : checks s.bump = none)
    (he : eff (s.operands i k) = .trap c addr) (hb : s.bundle = false) (hcan : s.canTrap) (hc : c ≠ .prot) :
    s.faulted (s.issue i k allowed ct checks eff) c addr (BitVec.ofNat 32 (encodeWord i)) := by
  rw [issue_ready s i k allowed ct checks eff h hchk, he]
  obtain ⟨htook, hrest⟩ := faultBefore_faulted (s.bump.mctx (fun c => { c with ported := false })) (BitVec.ofNat 32 (encodeWord i)) c
    addr hb hcan hc
  exact ⟨tookTrap_congr htook rfl rfl rfl, hrest⟩

/-! ### Misaligned loads and stores (R91, R118) -/

theorem ldRes_misaligned (s : State) (k : Ctl) (post : Bool) (d a : Reg) (sb : BitVec 4) (h : BitVec 2) (z : BitVec 3)
    (hz : (s.x a).toNat % szAlign z ≠ 0) : ldRes k post d a sb h z s = .trap .misalign (s.x a) :=
  if_pos hz

theorem stRes_misaligned (s : State) (post : Bool) (d a : Reg) (h : BitVec 2) (z : BitVec 3)
    (hz : (s.x a).toNat % szAlign z ≠ 0) : stRes post d a h z s = .trap .misalign (s.x a) :=
  if_pos hz

/-- The register checks of a load or a store pass where its .v forms name a register of the space (R61, R121). -/
theorem inRange_vforms (s : State) (d : Reg) (z : BitVec 3) (r : Res) (hv : z = 7 → s.vok d = true) :
    s.inRange (vforms d z) r = r := by
  refine inRange_ok s _ r (fun v hmem => ?_)
  unfold vforms at hmem
  split at hmem
  · next hz =>
    rw [List.mem_singleton.mp hmem]
    exact hv hz
  · cases hmem

/-- A ready load or store whose effect, its registers checked, is MISALIGN takes it before any effect. -/
theorem issue_misaligned (s : State) (i : Instr) (k : Ctl) (allowed : Strand → Bool) (d : Reg) (z : BitVec 3) (addr : Word)
    (eff : State → Res) (h : s.ready i k allowed false) (hb : s.bundle = false) (hcan : s.canTrap)
    (hv : z = 7 → (s.operands i k).vok d = true) (he : eff (s.operands i k) = .trap .misalign addr) :
    s.faulted (s.issue i k allowed false noCheck (fun s => s.inRange (vforms d z) (eff s))) .misalign addr
      (BitVec.ofNat 32 (encodeWord i)) :=
  issue_trap_faulted s i k allowed false noCheck _ .misalign addr h rfl ((inRange_vforms _ d z _ hv).trans he) hb hcan
    (fun hprot => nomatch hprot)

/-! ### O34 -/

/-- PROT, and a fault while a trap is being handled, freeze the context with the trap CSRs recorded (R361). -/
theorem enterTrap_frozen (s : State) (e : Exc) (h : e.cause = .prot ∨ s.ctx.csr.act = true) :
    (s.enterTrap e).ctx.life = .frozen ∧ (s.enterTrap e).ctx.csr.tpc = e.tpc ∧ (s.enterTrap e).ctx.csr.taddr = e.addr ∧
      (s.enterTrap e).logged s.ctx.die 12 2 0 (BitVec.ofNat 64 s.ctx.id.toNat) := by
  obtain ⟨hid, hdie, -⟩ := faulting_keeps s e
  rw [State.enterTrap, enterTrapPast_freezes s e _ h, ← hid, ← hdie]
  exact freeze_frozen _ e

/-- With no handler installed the task ends with the cause's status (R214 step 3). -/
theorem enterTrap_ended (s : State) (e : Exc) (hp : e.cause ≠ .prot) (ha : s.ctx.csr.act = false) (hv : s.ctx.csr.vector = 0) :
    (s.enterTrap e).ctx.life = .ended ∧
      (s.enterTrap e).logged s.ctx.die 3 2 (BitVec.ofNat 32 (0x80000100 + e.cause.code)) (BitVec.ofNat 64 s.ctx.id.toNat) := by
  obtain ⟨hid, hdie, -, -, -, hvec, -⟩ := faulting_keeps s e
  have hended := vectorTrap_none (s.recorded e) (s.ctx.pending e.strand) (hvec.trans hv)
  rw [recorded_tcause s e ha, bitsOf_code] at hended
  rw [State.enterTrap, enterTrapPast_vectors s e _ hp ha, ← hid, ← hdie]
  exact hended

/-- Settles O34: a misaligned word's fault by the fault rule of ready words, the others by the two rules of entry. -/
theorem exceptions : Obligations.Exceptions := by
  unfold Obligations.Exceptions
  refine ⟨fun k d a sb h z s hcan hb i allowed hv hi hready hz => ?_,
    fun s e => ⟨enterTrap_frozen s e, enterTrap_ended s e⟩⟩
  rcases hi with ⟨rfl | rfl, rfl⟩ | ⟨rfl | rfl, rfl⟩
  · exact ⟨_, rfl, issue_misaligned s _ k _ d z _ (ldRes k false d a sb h z) hready hb hcan hv (ldRes_misaligned _ _ _ _ _ _ _ _ hz)⟩
  · exact ⟨_, rfl, issue_misaligned s _ k _ d z _ (ldRes k true d a sb h z) hready hb hcan hv (ldRes_misaligned _ _ _ _ _ _ _ _ hz)⟩
  · exact ⟨_, rfl, issue_misaligned s _ k _ d z _ (stRes false d a h z) hready hb hcan hv (stRes_misaligned _ _ _ _ _ _ hz)⟩
  · exact ⟨_, rfl, issue_misaligned s _ k _ d z _ (stRes true d a h z) hready hb hcan hv (stRes_misaligned _ _ _ _ _ _ hz)⟩

end Sys2Proof.Machine
end

section
/-! PROOFS. Words that wait, end or leave the stream, and O33: TLBI, FENCEI, WFE, HALT, TEND and WAITC (R194, R202, R208, R217 to
R220), and PRIV in U mode (R90). -/

namespace Sys2Proof.Machine

/-! ### The state in which a word that takes its turn runs -/

theorem mstrand_clk {β : Type} (g : StrandSt → β) (hg : ∀ t clk, g { t with clk := clk } = g t) (c : Ctx) (m j : Strand)
    (f : Clock → Clock) : g ((c.mstrand m (fun t => { t with clk := f t.clk })).strands.get j.num) = g (c.strands.get j.num) := by
  by_cases h : j = m
  · subst h; simp [Ctx.mstrand, Quad.get_set_same, hg]
  · simp [Ctx.mstrand, Quad.get_set_ne _ _ _ _ h]

theorem pop_strand {β : Type} (g : StrandSt → β) (hg : ∀ t clk, g { t with clk := clk } = g t) (c : Ctx) (m j : Strand) (a b : Bool) :
    g ((c.pop m a b).1.strands.get j.num) = g (c.strands.get j.num) := by
  have hprev : ∀ c : Ctx, g ((c.popPrev m).1.strands.get j.num) = g (c.strands.get j.num) := by
    intro c
    unfold Ctx.popPrev
    split
    · rfl
    · next t ts _ => exact mstrand_clk g hg { c with tokNext := c.tokNext.set m.prev.num ts } m j (fun clk => clk.join t.clk)
  have hnext : ∀ c : Ctx, g ((c.popNext m).1.strands.get j.num) = g (c.strands.get j.num) := by
    intro c
    unfold Ctx.popNext
    split
    · rfl
    · next t ts _ => exact mstrand_clk g hg { c with tokPrev := c.tokPrev.set m.next.num ts } m j (fun clk => clk.join t.clk)
  unfold Ctx.pop
  cases a <;> cases b <;> simp [hprev, hnext]

/-- The count and the pops of a word change nothing of a strand but its clock (R73, R96). -/
theorem operands_strand {β : Type} (g : StrandSt → β) (hg : ∀ t clk, g { t with clk := clk } = g t) (s : State) (i : Instr) (k : Ctl)
    (j : Strand) : g ((s.operands i k).strand j) = g (s.strand j) := by
  have htick := mstrand_clk g hg s.ctx s.ctx.cur j (fun clk => clk.put s.ctx.cur (clk.of s.ctx.cur + 1))
  unfold State.operands State.begin State.popTokens State.cureRegs State.strand
  simp only []
  split
  · simp only [acquire_strands]
    exact (pop_strand g hg _ _ _ _ _).trans htick
  · exact (pop_strand g hg _ _ _ _ _).trans htick

theorem begun_strand {β : Type} (g : StrandSt → β) (hg : ∀ t clk, g { t with clk := clk } = g t) (s : State) (i : Instr) (k : Ctl)
    (j : Strand) : g ((s.begun i k).strand j) = g (s.strand j) := by
  unfold State.begun
  split
  · rfl
  · exact operands_strand g hg s i k j

/-- What the issue of a word leaves of its context for its effect. -/
theorem begun_keeps (s : State) (i : Instr) (k : Ctl) :
    (s.begun i k).ctx.id = s.ctx.id ∧ (s.begun i k).ctx.die = s.ctx.die ∧ (s.begun i k).ctx.cur = s.ctx.cur ∧
      (s.begun i k).ctx.x = s.ctx.x ∧ (s.begun i k).ctx.lines = s.ctx.lines ∧ (s.begun i k).bundle = s.bundle := by
  unfold State.begun
  split
  · exact ⟨rfl, rfl, rfl, rfl, rfl, rfl⟩
  · simp

theorem begun_mark (s : State) (i : Instr) (k : Ctl) :
    ((s.begun i k).strand (s.begun i k).ctx.cur).mark = (s.strand s.ctx.cur).mark := by
  obtain ⟨-, -, hcur, -⟩ := begun_keeps s i k
  rw [hcur]
  exact begun_strand StrandSt.mark (fun _ _ => rfl) s i k _

/-- Of the strand that a join word of the leaving context would start at, nothing has changed (R55). -/
theorem takes_joinBad {s : State} {i : Instr} {k : Ctl} {allowed : Strand → Bool} {ct : Bool} (h : s.takes i k allowed ct) :
    s.joinBad k = false :=
  h.elim (fun h => h.2.2.2.2.2) (fun h => h.2.2)

/-! ### Words that wait -/

/-- A word whose effect is to wait leaves the effect behind and stays at its address, when the effect leaves the strands (R194). -/
theorem issue_waitsIn (s : State) (i : Instr) (k : Ctl) (allowed : Strand → Bool) (ct : Bool) (checks : State → Option Cause)
    (eff : State → Res) (e : State) (c : Slot) (hold : Bool) (h : s.takes i k allowed ct) (hc : checks s.bump = none)
    (he : eff (s.begun i k) = .wait e c hold) (hcur : e.ctx.cur = (s.begun i k).ctx.cur)
    (hs : e.ctx.strands = (s.begun i k).ctx.strands) :
    e.closes (s.issue i k allowed ct checks eff) ∧ ((s.issue i k allowed ct checks eff).strand s.ctx.cur).mark = true ∧
      ((s.issue i k allowed ct checks eff).strand s.ctx.cur).pc = (s.strand s.ctx.cur).pc ∧
      ∃ hold, (s.issue i k allowed ct checks eff).event = .waiting s.ctx.cur c hold := by
  obtain ⟨-, -, hbcur, -⟩ := begun_keeps s i k
  have hstr : e.strand s.ctx.cur = (s.begun i k).strand s.ctx.cur := by simp only [State.strand, hs]
  have hw := issue_waits s i k allowed ct checks eff e c hold h hc he (hcur.trans hbcur)
    (by rw [hstr]; exact begun_strand StrandSt.pc (fun _ _ => rfl) s i k _)
    (by rw [hstr]; exact begun_strand StrandSt.mark (fun _ _ => rfl) s i k _)
  obtain ⟨hclose, hmark, hpc, hev⟩ := hw
  exact ⟨hclose, hmark, hpc, hold, hev⟩

/-! ### Words that leave the stream (R202, R208, R220) -/

theorem leaveFor_eq (s : State) (k : Ctl) (marked : Bool) (why : Slot) (what : Leave) :
    (s.pushTokens k marked 1).leaveFor k marked why what =
      if (s.closed k marked why 1 (.left s.ctx.cur what)).bundle then s.closed k marked why 1 (.left s.ctx.cur what)
      else ((s.closed k marked why 1 (.left s.ctx.cur what)).moveOn none k.sy).finishLeave what := by
  cases marked <;> rfl

theorem closed_closed (s : State) (k : Ctl) (marked : Bool) (why : Slot) (n : Nat) (ev : Event) :
    Closed s (s.closed k marked why n ev) :=
  ((pushTokens_closed s k marked n).trans (ageFor_closed _ _)).trans (note_closed _ _ _ _)

/-- A word that stands alone and leaves the stream does so from its effect, closed. -/
theorem issue_leaves (s : State) (i : Instr) (k : Ctl) (allowed : Strand → Bool) (ct : Bool) (checks : State → Option Cause)
    (eff : State → Res) (e : State) (what : Leave) (h : s.takes i k allowed ct) (hc : checks s.bump = none)
    (he : eff (s.begun i k) = .leave e what) (hs : Steady (s.begun i k) e) (hb : e.bundle = false) :
    ∃ v, s.issue i k allowed ct checks eff = v.finishLeave what ∧ Closed e v := by
  have hj : e.joinBad k = false := by
    have hbegun := begun_joinBad s i k
    rw [takes_joinBad h] at hbegun
    rw [← hbegun]
    simp only [State.joinBad, hs.cur, hs.lockstep, hs.b .c]
  have key : ∀ (s0 : State) (marked : Bool) (why : Slot),
      ∃ v, s0.close (BitVec.ofNat 32 (encodeWord i)) k marked why (.leave e what) = v.finishLeave what ∧ Closed e v := by
    intro s0 marked why
    refine ⟨_, ?_, (closed_closed e k marked why 1 (.left e.ctx.cur what)).trans (moveOn_closed _ none k.sy)⟩
    simp only [State.close, hj, Bool.false_eq_true, if_false, leaveFor_eq, closed_bundle, hb]
  rcases h with h | ⟨hm, hplace, -⟩
  · have hbegun : s.begun i k = s.operands i k := by simp only [State.begun, h.2.1, Bool.false_eq_true, if_false]
    rw [issue_ready s i k allowed ct checks eff h hc, ← hbegun, he]
    exact key _ _ _
  · have hbegun : s.begun i k = s.bump := by simp only [State.begun, hm, if_true]
    rw [issue_again s i k allowed ct checks eff hm hplace hc, ← hbegun, he]
    exact key _ _ _

/-- A context that leaves lands what is in flight, withdraws from its domain and releases its writes (R208). -/
def State.lastRelease (s : State) : State := ((s.mctx (fun c => { c with cur := .c })).landAll.withdraw).release 2

theorem finishLeave_tend (s : State) (status : BitVec 32) : s.finishLeave (.tend status) = s.lastRelease.endCtx status := rfl

theorem finishLeave_waitc (s : State) (kind pa : Nat) (mask next : Word) :
    s.finishLeave (.waitc kind pa mask next) = s.lastRelease.continueLater kind pa mask next := rfl

theorem lastRelease_names (s : State) : s.lastRelease.ctx.id = s.ctx.id ∧ s.lastRelease.ctx.die = s.ctx.die := by
  have hrelease := (release_quiet ((s.mctx (fun c => { c with cur := .c })).landAll.withdraw) 2).1
  obtain ⟨hid, hdie⟩ := withdraw_names (s.mctx (fun c => { c with cur := .c })).landAll
  have hland := landAll_landsTo (s.mctx (fun c => { c with cur := .c }))
  exact ⟨((congrArg Ctx.id hrelease).trans hid).trans ((congrArg Ctx.id hland).trans rfl),
    ((congrArg Ctx.die hrelease).trans hdie).trans ((congrArg Ctx.die hland).trans rfl)⟩

/-- The context that leaves is the one that issued the word. -/
theorem closed_names {u v : State} (h : Closed u v) : v.ctx.id = u.ctx.id ∧ v.ctx.die = u.ctx.die :=
  ⟨(congrArg Ctx.id h.kept.2).trans rfl, (congrArg Ctx.die h.kept.2).trans rfl⟩

/-- A continuation record is left behind (R202, R337). -/
theorem continueLater_record (s : State) (kind pa : Nat) (mask next : Word) :
    ∃ q ∈ (s.continueLater kind pa mask next).contins, q.kind = kind ∧ q.addr = pa ∧ q.die = s.ctx.die ∧
      q.task.cmask = setBits mask 0 0 0 ∧ q.task.code = next := by
  unfold State.continueLater
  simp only [endCtx_contins]
  exact ⟨_, List.mem_append_right _ (List.mem_singleton.mpr rfl), rfl, rfl, rfl, rfl, rfl⟩

/-- The context that leaves it ends CONTINUED (R339). -/
theorem continueLater_ended (s : State) (kind pa : Nat) (mask next : Word) :
    (s.continueLater kind pa mask next).ctx.life = .ended ∧
      (s.continueLater kind pa mask next).logged s.ctx.die 3 2 0x80000001 (BitVec.ofNat 64 s.ctx.id.toNat) := by
  unfold State.continueLater
  exact endCtx_ended _ _

/-! ### TLBI (R217) -/

theorem flushPlate_ctx (s : State) (p : Plate) (pick : L1Line → Bool) : (s.flushPlate p pick).ctx = s.ctx := by
  unfold State.flushPlate
  simp only []
  rw [(putPlate_frame _ _).1, (settle_quiet _ _ _).1]
  exact foldl_ctx _ (fun t l => (writeBack_quiet t _ l).1) _ _

theorem flushAll_ctx (s : State) (pick : Nat → L1Line → Bool) : (s.flushAll pick).ctx = s.ctx :=
  foldl_ctx _ (fun _ _ => flushPlate_ctx _ _ _) _ _

theorem loseRetn_ctx (s : State) (d n : Nat) : (s.loseRetn d n).ctx = s.ctx := by
  unfold State.loseRetn
  simp only [journal_ctx, State.mdie_ctx]
  exact foldl_ctx _ (fun t e => (l2Out_quiet t d e).1) _ _

/-- A TLBI leaves the context that issues it. -/
theorem shootdown_ctx (s : State) (asid : BitVec 12) (va n : Nat) : (s.shootdown asid va n).ctx = s.ctx := by
  unfold State.shootdown
  simp only []
  refine (foldl_ctx _ (fun t d => foldl_ctx _ (fun t i => ?_) _ t) _ _).trans ((flushAll_ctx _ _).trans rfl)
  split
  · exact loseRetn_ctx _ _ _
  · rfl

/-- The state in which a TLBI looks for translations that are still held: its messages are sent once, at its issue. -/
def State.shotDown (s : State) (sent : Bool) (asid : BitVec 12) (va n : Nat) : State := if sent then s else s.shootdown asid va n

theorem shotDown_ctx (s : State) (sent : Bool) (asid : BitVec 12) (va n : Nat) : (s.shotDown sent asid va n).ctx = s.ctx := by
  unfold State.shotDown
  split
  · rfl
  · exact shootdown_ctx _ _ _ _

/-- The effect of TLBI. -/
def tlbiRes (a b : Reg) (s : State) : Res :=
  let m := s.shotDown (s.strand s.ctx.cur).mark s.ctx.space.asid (s.x a).toNat (s.x b).toNat
  if (s.x b).toNat = 0 then .done s 1
  else if m.spanHeld s.ctx.space.asid (s.x a).toNat (s.x b).toNat then .wait m .dmem false else .done m 1

theorem exec_tlbi (k : Ctl) (a b : Reg) (s : State) :
    exec (.tlbi k a b) s = .next (s.issue (.tlbi k a b) k onlyC false privOnly (tlbiRes a b)) := rfl

theorem privOnly_none (s : State) (h : s.ctx.space.priv ≠ .u) : privOnly s.bump = none := if_neg h

theorem privOnly_priv (s : State) (h : s.ctx.space.priv = .u) : privOnly s.bump = some .priv := if_pos h

/-- TLBI of nothing ends; of a range it ends when no command holds a translation of it, and waits otherwise. -/
theorem tlbi_ends (k : Ctl) (a b : Reg) (s : State) (hp : s.ctx.space.priv ≠ .u) :
    let i : Instr := .tlbi k a b
    let u := s.begun i k
    let m := u.shotDown (s.strand s.ctx.cur).mark u.ctx.space.asid (u.x a).toNat (u.x b).toNat
    ((u.x b).toNat = 0 → endsIn s i k onlyC u) ∧
    ((u.x b).toNat ≠ 0 → m.spanHeld u.ctx.space.asid (u.x a).toNat (u.x b).toNat = false → endsIn s i k onlyC m) ∧
    ((u.x b).toNat ≠ 0 → m.spanHeld u.ctx.space.asid (u.x a).toNat (u.x b).toNat = true → waitsIn s i k onlyC m .dmem) := by
  have hchk := privOnly_none s hp
  have hctx := shotDown_ctx (s.begun (.tlbi k a b) k) (s.strand s.ctx.cur).mark (s.begun (.tlbi k a b) k).ctx.space.asid
    ((s.begun (.tlbi k a b) k).x a).toNat ((s.begun (.tlbi k a b) k).x b).toNat
  refine ⟨fun hn htakes => ⟨_, exec_tlbi k a b s, ?_⟩, fun hn hheld htakes => ⟨_, exec_tlbi k a b s, ?_⟩,
    fun hn hheld htakes => ⟨_, exec_tlbi k a b s, ?_⟩⟩
  · exact issue_ends s _ k onlyC false privOnly _ _ 1 htakes hchk (if_pos hn) (.of_ctx rfl)
  · refine issue_ends s _ k onlyC false privOnly _ _ 1 htakes hchk ?_ (.of_ctx hctx)
    simp only [tlbiRes, begun_mark, hn, hheld, Bool.false_eq_true, if_false]
  · refine issue_waitsIn s _ k onlyC false privOnly _ _ .dmem false htakes hchk ?_ (congrArg Ctx.cur hctx) (congrArg Ctx.strands hctx)
    simp only [tlbiRes, begun_mark, hn, hheld, if_false, if_true]

/-! ### FENCEI, WFE and HALT (R218 to R220) -/

theorem fencei_goesTo (k : Ctl) (s : State) :
    goesTo s (.fencei k) k onlyC false ((s.operands (.fencei k) k).mplate (fun p => { p with icache := [] })) :=
  fun hready => ⟨_, rfl, issue_closes s (.fencei k) k onlyC false noCheck _ _ 1 hready rfl rfl (.of_ctx rfl)⟩

/-- The effect of WFE. -/
def wfeRes (s : State) : Res :=
  if s.ctx.latch then .done (s.mctx (fun c => { c with latch := false })) 1 else .wait s .idle false

theorem exec_wfe (k : Ctl) (s : State) : exec (.wfe k) s = .next (s.issue (.wfe k) k onlyC false noCheck wfeRes) := rfl

theorem wfe_ends (k : Ctl) (s : State) (h : (s.begun (.wfe k) k).ctx.latch = true) :
    endsIn s (.wfe k) k onlyC ((s.begun (.wfe k) k).mctx (fun c => { c with latch := false })) :=
  fun htakes => ⟨_, exec_wfe k s, issue_ends s _ k onlyC false noCheck _ _ 1 htakes rfl (if_pos h) (.mctx _ _ rfl rfl rfl rfl)⟩

theorem wfe_waits (k : Ctl) (s : State) (h : (s.begun (.wfe k) k).ctx.latch = false) :
    waitsIn s (.wfe k) k onlyC (s.begun (.wfe k) k) .idle :=
  fun htakes => ⟨_, exec_wfe k s, issue_waitsIn s _ k onlyC false noCheck _ _ .idle false htakes rfl
    (if_neg (fun hl => Bool.false_ne_true (h.symm.trans hl))) rfl rfl⟩

theorem halt_halts (k : Ctl) (s : State) (htakes : s.takes (.halt k) k onlyC false) (hp : s.ctx.space.priv ≠ .u)
    (hb : s.bundle = false) :
    ∃ t, exec (.halt k) s = .next t ∧ t.ctx.life = .halted ∧ t.logged s.ctx.die 11 2 0 (BitVec.ofNat 64 s.ctx.id.toNat) ∧
      t.ctx.x = s.ctx.x ∧ t.ctx.lines = s.ctx.lines := by
  obtain ⟨hid, hdie, -, hx, hlines, hbundle⟩ := begun_keeps s (.halt k) k
  obtain ⟨v, hv, hclosed⟩ := issue_leaves s (.halt k) k onlyC false privOnly (fun s => .leave s (.halt [0, 0, 0, 0])) _ _ htakes
    (privOnly_none s hp) rfl (.of_ctx rfl) (hbundle.trans hb)
  obtain ⟨hvid, hvdie⟩ := closed_names hclosed
  refine ⟨_, congrArg Host.Outcome.next hv, ?_⟩
  rw [← hid, ← hdie, ← hx, ← hlines, ← hvid, ← hvdie, ← hclosed.x, ← hclosed.lines]
  exact haltCtx_halted (v.mctx (fun c => { c with cur := .c })) [0, 0, 0, 0]

/-! ### TEND (R208) -/

/-- A context that is about to leave: no later word of another strand issues (R202, R208). -/
def State.endingNow (s : State) : State := s.mctx (fun c => { c with ending := true })

/-- The effect of TEND. -/
def tendRes (a : Reg) (s : State) : Res :=
  if s.endingNow.drained then .leave s.endingNow (.tend (BitVec.ofNat 32 (bitsOf (s.endingNow.x a) 31 0)))
  else .wait s.endingNow .dep false

theorem exec_tend (k : Ctl) (a : Reg) (s : State) :
    exec (.tend k a) s = .next (s.issue (.tend k a) k onlyC false noCheck (tendRes a)) := rfl

theorem steady_endingNow (s : State) : Steady s s.endingNow := .mctx _ _ rfl rfl rfl rfl

theorem tend_waits (k : Ctl) (a : Reg) (s : State) (h : (s.begun (.tend k a) k).endingNow.drained = false) :
    waitsIn s (.tend k a) k onlyC (s.begun (.tend k a) k).endingNow .dep :=
  fun htakes => ⟨_, exec_tend k a s, issue_waitsIn s _ k onlyC false noCheck _ _ .dep false htakes rfl
    (if_neg (fun hd => Bool.false_ne_true (h.symm.trans hd))) rfl rfl⟩

/-- The status of TEND is the low half of its register. -/
theorem ofNat_low_half (w : Word) : BitVec.ofNat 32 (bitsOf w 31 0) = BitVec.ofNat 32 w.toNat := by
  apply BitVec.eq_of_toNat_eq
  simp [bitsOf]

theorem tend_ends (k : Ctl) (a : Reg) (s : State) (htakes : s.takes (.tend k a) k onlyC false)
    (hd : (s.begun (.tend k a) k).endingNow.drained = true) (hb : s.bundle = false) :
    ∃ t, exec (.tend k a) s = .next t ∧ t.ctx.life = .ended ∧
      t.logged s.ctx.die 3 2 (BitVec.ofNat 32 ((s.begun (.tend k a) k).endingNow.x a).toNat) (BitVec.ofNat 64 s.ctx.id.toNat) := by
  obtain ⟨hid, hdie, -, -, -, hbundle⟩ := begun_keeps s (.tend k a) k
  obtain ⟨v, hv, hclosed⟩ := issue_leaves s (.tend k a) k onlyC false noCheck (tendRes a) _ _ htakes rfl (if_pos hd)
    (steady_endingNow _) (hbundle.trans hb)
  obtain ⟨hvid, hvdie⟩ := closed_names hclosed
  obtain ⟨hrid, hrdie⟩ := lastRelease_names v
  refine ⟨_, congrArg Host.Outcome.next hv, ?_⟩
  rw [← hid, ← hdie, finishLeave_tend, ofNat_low_half]
  have hended := endCtx_ended v.lastRelease (BitVec.ofNat 32 ((s.begun (.tend k a) k).endingNow.x a).toNat)
  rw [hrid, hrdie, hvid, hvdie] at hended
  exact hended

/-! ### WAITC (R202) -/

/-- The effect of WAITC once its event's address is resolved. -/
theorem waitcRes_resolved (a b : Reg) (u t : State) (x : Xlat) (p : Piece) (hkind : (u.x a).toNat % 16 ≤ 1)
    (hmask : (popcOp (setBits (u.x b) 0 0 0)).toNat ≤ 16)
    (hres : u.resolve (setBits (u.x a) 3 0 0).toNat 8 .atomic atomicTarget = .ok (t, [p])) (hp : p.tgt = .mem x) :
    waitcRes a b u = if t.drained then .leave t (.waitc ((u.x a).toNat % 16) x.pa (setBits (u.x b) 0 0 0)
      (nextPc (t.strand .c).pc 16 (t.strand .c).xfer none).1) else .wait t.endingNow .dep false := by
  obtain ⟨va, len, tgt⟩ := p
  subst hp
  have hk : bitsOf (u.x a) 3 0 = (u.x a).toNat % 16 := by simp [bitsOf]
  have hok : ¬ (1 < (u.x a).toNat % 16 ∨ 16 < (popcOp (setBits (u.x b) 0 0 0)).toNat) := by omega
  simp only [waitcRes, hk, hok, if_false, hres]
  rfl

theorem waitcPlace_none (s : State) (hl : s.ctx.lockstep = true) (hm : s.ctx.task.mode ≠ 0) : waitcPlace s.bump = none := by
  refine if_neg (fun h => ?_)
  rcases h with h | h
  · exact Bool.false_ne_true (h.symm.trans hl)
  · exact hm h

/-- A mask without bit 0 keeps its other bits. -/
theorem setBits_zero_zero (w : Word) : setBits (setBits w 0 0 0) 0 0 0 = setBits w 0 0 0 := by
  apply BitVec.eq_of_toNat_eq
  simp [setBits]
  omega

/-- Where a continuation goes on: past the bundle of its WAITC, which resolving its event's address leaves in place (R202). -/
theorem waitc_next (s t : State) (i : Instr) (k : Ctl) (h : t.ctx = (s.begun i k).ctx) :
    (nextPc (t.strand .c).pc 16 (t.strand .c).xfer none).1 = (nextPc (s.strand .c).pc 16 (s.strand .c).xfer none).1 := by
  have hstr : t.strand .c = (s.begun i k).strand .c := by simp only [State.strand, h]
  rw [hstr, begun_strand StrandSt.pc (fun _ _ => rfl), begun_strand StrandSt.xfer (fun _ _ => rfl)]

section
variable (k : Ctl) (a b : Reg) (s t : State) (x : Xlat) (p : Piece)
  (hl : s.ctx.lockstep = true) (hm : s.ctx.task.mode ≠ 0) (hkind : ((s.begun (.waitc k a b) k).x a).toNat % 16 ≤ 1)
  (hmask : (popcOp (setBits ((s.begun (.waitc k a b) k).x b) 0 0 0)).toNat ≤ 16)
  (hres : (s.begun (.waitc k a b) k).resolve (setBits ((s.begun (.waitc k a b) k).x a) 3 0 0).toNat 8 .atomic atomicTarget =
    .ok (t, [p])) (hp : p.tgt = .mem x)
include hl hm hkind hmask hres hp

theorem waitc_waits (hd : t.drained = false) : waitsIn s (.waitc k a b) k onlyC t.endingNow .dep := by
  have hctx := (resolve_quiet _ _ _ _ _ _ _ hres).1
  have heff := waitcRes_resolved a b _ t x p hkind hmask hres hp
  rw [if_neg (fun h => Bool.false_ne_true (hd.symm.trans h))] at heff
  refine fun htakes => ⟨_, rfl, issue_waitsIn s _ k onlyC false waitcPlace (waitcRes a b) _ .dep false htakes (waitcPlace_none s hl hm)
    heff ?_ ?_⟩
  · rw [← hctx]; rfl
  · rw [← hctx]; rfl

theorem waitc_ends (htakes : s.takes (.waitc k a b) k onlyC false) (hb : s.bundle = false) (hd : t.drained = true) :
    ∃ r, exec (.waitc k a b) s = .next r ∧ r.ctx.life = .ended ∧
      r.logged s.ctx.die 3 2 0x80000001 (BitVec.ofNat 64 s.ctx.id.toNat) ∧
      ∃ q ∈ r.contins, q.kind = ((s.begun (.waitc k a b) k).x a).toNat % 16 ∧ q.addr = x.pa ∧ q.die = s.ctx.die ∧
        q.task.cmask = setBits ((s.begun (.waitc k a b) k).x b) 0 0 0 ∧
        q.task.code = (nextPc (s.strand .c).pc 16 (s.strand .c).xfer none).1 := by
  obtain ⟨hid, hdie, -, -, -, hbundle⟩ := begun_keeps s (.waitc k a b) k
  have htb := (resolve_recorded _ _ _ _ _ _ _ hres).bundle.trans (hbundle.trans hb)
  have hctx := (resolve_quiet _ _ _ _ _ _ _ hres).1
  have heff := waitcRes_resolved a b _ t x p hkind hmask hres hp
  rw [if_pos hd, waitc_next s t _ k hctx] at heff
  obtain ⟨v, hv, hclosed⟩ := issue_leaves s _ k onlyC false waitcPlace (waitcRes a b) t _ htakes (waitcPlace_none s hl hm) heff
    (.of_ctx hctx) htb
  obtain ⟨hvid, hvdie⟩ := closed_names hclosed
  obtain ⟨hrid, hrdie⟩ := lastRelease_names v
  refine ⟨_, congrArg Host.Outcome.next hv, ?_⟩
  rw [← hid, ← hdie, ← congrArg Ctx.id hctx, ← congrArg Ctx.die hctx, ← hvid, ← hvdie, ← hrid, ← hrdie, finishLeave_waitc]
  obtain ⟨hlife, hlog⟩ := continueLater_ended v.lastRelease (((s.begun (.waitc k a b) k).x a).toNat % 16) x.pa
    (setBits ((s.begun (.waitc k a b) k).x b) 0 0 0) (nextPc (s.strand .c).pc 16 (s.strand .c).xfer none).1
  obtain ⟨q, hq, hqkind, hqaddr, hqdie, hqmask, hqcode⟩ := continueLater_record v.lastRelease
    (((s.begun (.waitc k a b) k).x a).toNat % 16) x.pa (setBits ((s.begun (.waitc k a b) k).x b) 0 0 0)
    (nextPc (s.strand .c).pc 16 (s.strand .c).xfer none).1
  exact ⟨hlife, hlog, q, hq, hqkind, hqaddr, hqdie, hqmask.trans (setBits_zero_zero _), hqcode⟩

end

/-! ### PRIV (R90) -/

/-- A word that its own check turns away for privilege traps in place of its effect. -/
theorem priv_traps (s : State) (i : Instr) (k : Ctl) (allowed : Strand → Bool) (checks : State → Option Cause) (eff : State → Res)
    (hcan : s.canTrap) (hb : s.bundle = false) (hexec : exec i s = .next (s.issue i k allowed false checks eff))
    (hchk : checks s.bump = some .priv) (hm : s.bump.misplaced i k.sy allowed false = false) :
    ∃ t, exec i s = .next t ∧ ∃ addr,
      s.tookTrap t .priv s.ctx.cur (s.addrOf s.ctx.cur) addr (BitVec.ofNat 32 (encodeWord i)) ∧
        t.ctx.spad = s.ctx.spad ∧ (s.ctx.flight = [] → t.ctx.x = s.ctx.x) :=
  ⟨_, hexec, _, issue_check_faulted s i k allowed false checks eff .priv hm hchk hb hcan (fun hprot => nomatch hprot)⟩

/-- A write of ACCBASE or ACCCTL is privileged (R90). -/
theorem csrCheck_priv (s : State) (c : BitVec 9) (hu : s.ctx.space.priv = .u) (hc : c = 0x040 ∨ c = 0x041) :
    csrCheck c.toNat true s.bump = some .priv := by
  rcases hc with rfl | rfl
  · simp [csrCheck, csrListed, hu]
  · simp [csrCheck, csrListed, hu]

/-- Settles O33, word by word. -/
theorem systemWords : Obligations.SystemWords := by
  unfold Obligations.SystemWords
  refine ⟨fun k a b s => ⟨fun hp => tlbi_ends k a b s hp, fencei_goesTo k s, ⟨wfe_ends k s, wfe_waits k s⟩,
    fun htakes hp hb => halt_halts k s htakes hp hb, ⟨tend_waits k a s, fun htakes hd hb => tend_ends k a s htakes hd hb⟩,
    fun t x p hl hm hkind hmask hres hp => ⟨waitc_waits k a b s t x p hl hm hkind hmask hres hp,
      fun htakes hb hd => waitc_ends k a b s t x p hl hm hkind hmask hres hp htakes hb hd⟩⟩,
    fun k a b c s hu hcan hb i hi hm => ?_⟩
  rcases hi with rfl | rfl | ⟨hc, rfl | rfl | rfl⟩
  · exact priv_traps s _ k onlyC privOnly _ hcan hb rfl (privOnly_priv s hu) hm
  · exact priv_traps s _ k onlyC privOnly _ hcan hb rfl (privOnly_priv s hu) hm
  · exact priv_traps s _ k anyStrand _ _ hcan hb rfl (csrCheck_priv s c hu hc) hm
  · exact priv_traps s _ k anyStrand _ _ hcan hb rfl (csrCheck_priv s c hu hc) hm
  · exact priv_traps s _ k anyStrand _ _ hcan hb rfl (csrCheck_priv s c hu hc) hm

end Sys2Proof.Machine
end

section
/-! PROOFS. CSR words (R211) in a state whose table of contexts keeps, under another number, a context with the focus's CTXID:
turning a register-cache bank off (R67) then puts that context into focus. -/

namespace Sys2Proof.Machine

/-- A word whose effect leaves strand C with a resume address that is not aligned faults in place of it (R55, R387). -/
theorem issue_joinBad (s : State) (i : Instr) (k : Ctl) (allowed : Strand → Bool) (ct : Bool) (checks : State → Option Cause)
    (eff : State → Res) (e : State) (n : Nat) (h : s.ready i k allowed ct) (hc : checks s.bump = none)
    (he : eff (s.operands i k) = .done e n) (hj : e.joinBad k = true) :
    s.issue i k allowed ct checks eff =
      (s.bump.mctx (fun c => { c with ported := false })).faultBefore (BitVec.ofNat 32 (encodeWord i)) .misalign (e.strand .c).b.q0 := by
  rw [issue_ready s i k allowed ct checks eff h hc, he]
  simp only [State.close, hj, if_true, Bool.false_eq_true, if_false]

/-- A fault of a word in a bundle leaves the context's control alone but for its slot: the bundle takes it (R387). -/
theorem faultBefore_bundle_esn (s : State) (w : BitVec 32) (c : Cause) (addr : Word) (hb : s.bundle = true) :
    (s.faultBefore w c addr).ctx.esn = s.ctx.esn := by
  have hn : ∀ k e, (s.note k .trap e).bundle = true := fun _ _ => hb
  simp only [State.faultBefore, hn, if_true]
  rfl

/-- A context in lock-step whose x1, written to RBPM, turns bank 2 of the register cache off (R67). -/
def bankWriter : Ctx := { Ctx.blank with id := 5, life := .resident, x := [(1, Cell.init 0x20)] }

/-- Another context with the same CTXID, apart, and with a b0 that no bundle stands at (R55). -/
def bankDouble : Ctx := { Ctx.blank with
  id := 5, esn := 1, lockstep := false, strands := Quad.all { StrandSt.init 0 with b := Quad.all 4 } }

/-- `bankWriter` in focus, `bankDouble` kept under the number 7, and a dirty line of context 7 in bank 2. -/
def doubled : State := { State.reset with
  ctx := bankWriter, ctxs := [(7, some bankDouble)], bundle := true,
  plate := { Plate.init 0 with rcache := [{ ctx := 7, line := 2, dirty := true }] } }

/-- CSRW RBPM, x1 in slot 0 of a bundle that stays in lock-step. -/
def rbpmCtl : Ctl := ⟨0, true⟩
def rbpmWord : Instr := .csrw rbpmCtl 1 0x030

/-- The CSRs that it leaves. -/
def rbpmCsrs : Csrs := { Csrs.init with rbpm := 0x20 }

/-- Its effect: the write-back of bank 2 stores `bankDouble` under its own CTXID, which is the focus. -/
def doubledEffect : State :=
  (((doubled.operands rbpmWord rbpmCtl).noteCsr 0x030 0 1).mcsr (fun _ => rbpmCsrs)).banksOff Csrs.init

theorem doubled_ready : doubled.ready rbpmWord rbpmCtl anyStrand false := by
  unfold State.ready
  decide +kernel

theorem doubledEffect_done :
    csrPut 0x030 ((doubled.operands rbpmWord rbpmCtl).x 1) (doubled.operands rbpmWord rbpmCtl) = .done doubledEffect 1 := rfl

theorem doubledEffect_joinBad : doubledEffect.joinBad rbpmCtl = true := by decide +kernel

theorem doubledEffect_esn : doubledEffect.ctx.esn = 1 := by decide +kernel

/-- The word faults, and the context it leaves is not the one that its effect leaves. -/
theorem exec_rbpmWord : ∃ t, exec rbpmWord doubled = .next t ∧ t.ctx.esn = 0 := by
  have hfault := issue_joinBad doubled rbpmWord rbpmCtl anyStrand false (csrCheck 0x030 true) (fun s => csrPut 0x030 (s.x 1) s)
    doubledEffect 1 doubled_ready rfl doubledEffect_done doubledEffect_joinBad
  refine ⟨_, congrArg Host.Outcome.next hfault, ?_⟩
  rw [faultBefore_bundle_esn _ _ _ _ rfl]
  rfl

/-- Refutes O31: in `doubled` a CSRW of RBPM is ready and its value is one that the CSR can hold, but it faults at its join, while the
statement has it go on to its effect. The statement lacks the premise that a context is kept under its own CTXID (R336). -/
theorem not_csrWords : ¬ Obligations.CsrWords := by
  unfold Obligations.CsrWords
  rintro ⟨words, -⟩
  obtain ⟨-, -, ⟨write, -⟩, -⟩ := words rbpmCtl 0 1 0x030 0 doubled
  have hgoes : goesTo doubled rbpmWord rbpmCtl anyStrand false doubledEffect := write rbpmCsrs rfl rfl (fun _ => by decide)
  obtain ⟨t, ht, -, ⟨-, hkept⟩, -⟩ := hgoes doubled_ready
  obtain ⟨t', ht', hesn⟩ := exec_rbpmWord
  obtain rfl : t = t' := by simpa [ht] using ht'
  have hsame : t.ctx.esn = doubledEffect.ctx.esn := (congrArg Ctx.esn hkept).trans rfl
  rw [hesn, doubledEffect_esn] at hsame
  exact absurd hsame (by decide)

end Sys2Proof.Machine
end

section
/-! PROOFS. The layouts F-R (R81) and PLOG (R106): each field of a word is where the decoder reads it. -/

namespace Sys2Proof.Machine

/-- A field whose bits are those of v reads as v. -/
theorem fld_eq {n : Nat} (w lo : Nat) (v : BitVec n) (h : w / 2 ^ lo % 2 ^ n = v.toNat) : fld w lo n = v :=
  BitVec.eq_of_toNat_eq h

/-- TK and SY of a word, from their bits (R49). -/
theorem ctl_eq (w : Nat) (k : Ctl) (htk : w / 2 ^ 22 % 2 ^ 4 = k.tk.toNat) (hsy : w / 2 ^ 21 % 2 = k.sy.toNat) : ctl w = k := by
  have hflag : flag w 21 = k.sy := by
    unfold flag
    rw [hsy]
    cases k.sy <;> rfl
  rw [ctl, fld_eq w 22 k.tk htk, hflag]

/-- A word whose top two bits are not 0b11 is read by its major (R49, R81). -/
theorem decodeWord_major (w major : Nat) (hm : major < 48) (h : w / 2 ^ 26 = major) : decodeWord w = decodeMajor major w := by
  have hstamp : w / 2 ^ 30 % 4 ≠ 3 := by omega
  have hmajor : w / 2 ^ 26 % 64 = major := by omega
  rw [decodeWord, if_neg hstamp, hmajor]

/-! ### F-R -/

section
variable {major f : Nat} {k : Ctl} {d a b : Reg}

theorem frWord_bounds : k.tk.toNat < 2 ^ 4 ∧ k.sy.toNat < 2 ∧ d.toNat < 2 ^ 6 ∧ a.toNat < 2 ^ 6 ∧ b.toNat < 2 ^ 6 :=
  ⟨k.tk.isLt, Bool.toNat_lt k.sy, d.isLt, a.isLt, b.isLt⟩

theorem decodeWord_frWord (hm : major < 48) (hf : f < 8) :
    decodeWord (frWord major f k d a b) = decodeMajor major (frWord major f k d a b) := by
  obtain ⟨htk, hsy, hd, ha, hb⟩ := frWord_bounds (k := k) (d := d) (a := a) (b := b)
  exact decodeWord_major _ _ hm (by unfold frWord; omega)

theorem frWord_minor (hf : f < 8) : frWord major f k d a b % 8 = f := by unfold frWord; omega

theorem frWord_ctl (hf : f < 8) : ctl (frWord major f k d a b) = k := by
  obtain ⟨htk, hsy, hd, ha, hb⟩ := frWord_bounds (k := k) (d := d) (a := a) (b := b)
  exact ctl_eq _ _ (by unfold frWord; omega) (by unfold frWord; omega)

theorem frWord_d (hf : f < 8) : fld (frWord major f k d a b) 15 6 = d := by
  obtain ⟨htk, hsy, hd, ha, hb⟩ := frWord_bounds (k := k) (d := d) (a := a) (b := b)
  exact fld_eq _ _ _ (by unfold frWord; omega)

theorem frWord_a (hf : f < 8) : fld (frWord major f k d a b) 9 6 = a := by
  obtain ⟨htk, hsy, hd, ha, hb⟩ := frWord_bounds (k := k) (d := d) (a := a) (b := b)
  exact fld_eq _ _ _ (by unfold frWord; omega)

theorem frWord_low (hf : f < 8) : frWord major f k d a b / 8 % 64 = b.toNat := by
  have hb := b.isLt
  unfold frWord
  omega

theorem frWord_b (hf : f < 8) : fld (frWord major f k d a b) 3 6 = b := fld_eq _ _ _ (frWord_low hf)

theorem frWord_f (n : BitVec 3) : fld (frWord major n.toNat k d a b) 0 3 = n :=
  fld_eq _ _ _ (by have hn := n.isLt; unfold frWord; omega)

end

/-! ### PLOG -/

section
variable {f : Nat} {k : Ctl} {p q r : BitVec 4}

theorem plogWord_bounds : k.tk.toNat < 2 ^ 4 ∧ k.sy.toNat < 2 ∧ p.toNat < 2 ^ 4 ∧ q.toNat < 2 ^ 4 ∧ r.toNat < 2 ^ 4 :=
  ⟨k.tk.isLt, Bool.toNat_lt k.sy, p.isLt, q.isLt, r.isLt⟩

theorem decodeWord_plogWord (hf : f < 8) : decodeWord (plogWord f k p q r) = decodeMajor 0x11 (plogWord f k p q r) := by
  obtain ⟨htk, hsy, hp, hq, hr⟩ := plogWord_bounds (k := k) (p := p) (q := q) (r := r)
  exact decodeWord_major _ _ (by decide) (by unfold plogWord; omega)

theorem plogWord_minor (hf : f < 8) : plogWord f k p q r % 8 = f := by unfold plogWord; omega

theorem plogWord_zeros (hf : f < 8) : plogWord f k p q r / 8 % 64 = 0 := by unfold plogWord; omega

theorem plogWord_ctl (hf : f < 8) : ctl (plogWord f k p q r) = k := by
  obtain ⟨htk, hsy, hp, hq, hr⟩ := plogWord_bounds (k := k) (p := p) (q := q) (r := r)
  exact ctl_eq _ _ (by unfold plogWord; omega) (by unfold plogWord; omega)

theorem plogWord_p (hf : f < 8) : fld (plogWord f k p q r) 17 4 = p := by
  obtain ⟨htk, hsy, hp, hq, hr⟩ := plogWord_bounds (k := k) (p := p) (q := q) (r := r)
  exact fld_eq _ _ _ (by unfold plogWord; omega)

theorem plogWord_q (hf : f < 8) : fld (plogWord f k p q r) 13 4 = q := by
  obtain ⟨htk, hsy, hp, hq, hr⟩ := plogWord_bounds (k := k) (p := p) (q := q) (r := r)
  exact fld_eq _ _ _ (by unfold plogWord; omega)

theorem plogWord_r (hf : f < 8) : fld (plogWord f k p q r) 9 4 = r := by
  obtain ⟨htk, hsy, hp, hq, hr⟩ := plogWord_bounds (k := k) (p := p) (q := q) (r := r)
  exact fld_eq _ _ _ (by unfold plogWord; omega)

end

end Sys2Proof.Machine
end

section
/-! PROOFS. The values of the scalar words as the spec states them (R97 to R102), and O2 and O3: each word is its value written to
x[d]. -/

namespace Sys2Proof.Machine

/-- A word whose meaning is the write of one register completes with what its meaning writes. -/
theorem completesX_of_exec {s : State} {i : Instr} {k : Ctl} {d : Reg} {n : Nat} {v : State → Word}
    (hexec : exec i s = xWord i k d n v s) : completesX s i k d n v := fun hready => by
  obtain ⟨t, ht, hwrote⟩ := xWord_wrote s i k d n v hready
  exact ⟨t, hexec.trans ht, hwrote⟩

/-- The same, for a value that the spec writes in another way. -/
theorem completesX_of_value {s : State} {i : Instr} {k : Ctl} {d : Reg} {n : Nat} {f v : State → Word}
    (hexec : exec i s = xWord i k d n f s) (hvalue : ∀ u, f u = v u) : completesX s i k d n v :=
  funext hvalue ▸ completesX_of_exec hexec

/-! ### R97 -/

theorem wordOfBool_decide (c : Prop) [Decidable c] : wordOfBool (decide c) = if c then 1 else 0 := by
  simp [wordOfBool]

theorem ite_int_le (a b : Int) (x y : Word) : (if a ≤ b then x else y) = if b < a then y else x := by
  simp only [← Int.not_lt, ite_not]

theorem ite_nat_le (a b : Nat) (x y : Word) : (if a ≤ b then x else y) = if b < a then y else x := by
  simp only [← Nat.not_lt, ite_not]

theorem mul_eq_ofNat (a b : Word) : a * b = BitVec.ofNat 64 (a.toNat * b.toNat) := by
  simp [BitVec.ofNat_mul]

/-- A divisor of zero, as the spec names it. -/
theorem ite_eq_zero {α : Type} (b : Word) (x y : α) : (if b = 0 then x else y) = if b.toNat = 0 then x else y :=
  ite_congr (propext BitVec.toNat_eq) (fun _ => rfl) (fun _ => rfl)

theorem divOp_eq (a b : Word) : divOp a b =
    if b.toNat = 0 then BitVec.allOnes 64 else BitVec.ofInt 64 (a.toInt.tdiv b.toInt) := ite_eq_zero b _ _

theorem divuOp_eq (a b : Word) : divuOp a b =
    if b.toNat = 0 then BitVec.allOnes 64 else BitVec.ofNat 64 (a.toNat / b.toNat) := by
  rw [divuOp, ite_eq_zero, BitVec.udiv_def]

theorem remOp_eq (a b : Word) : remOp a b = if b.toNat = 0 then a else BitVec.ofInt 64 (a.toInt.tmod b.toInt) :=
  ite_eq_zero b _ _

theorem remuOp_eq (a b : Word) : remuOp a b = if b.toNat = 0 then a else BitVec.ofNat 64 (a.toNat % b.toNat) := by
  rw [remuOp, ite_eq_zero, BitVec.umod_def]

/-- Settles O2: each word's meaning is one register write, and each word of the table is read field by field. -/
theorem scalarResults : Obligations.ScalarResults := by
  unfold Obligations.ScalarResults
  refine ⟨fun k d a b s => ?_, fun k d a b s => ?_, fun k d a b => ?_⟩
  · exact ⟨completesX_of_exec rfl, completesX_of_exec rfl, completesX_of_exec rfl, completesX_of_exec rfl,
      completesX_of_exec rfl, completesX_of_exec rfl, completesX_of_exec rfl, completesX_of_exec rfl,
      completesX_of_value rfl (fun _ => ite_int_le _ _ _ _), completesX_of_value rfl (fun _ => ite_int_le _ _ _ _),
      completesX_of_value rfl (fun _ => ite_nat_le _ _ _ _), completesX_of_value rfl (fun _ => ite_nat_le _ _ _ _),
      completesX_of_exec rfl, completesX_of_value rfl (fun _ => wordOfBool_decide _),
      completesX_of_value rfl (fun _ => wordOfBool_decide _), completesX_of_exec rfl⟩
  · exact ⟨completesX_of_value rfl (fun _ => mul_eq_ofNat _ _), completesX_of_exec rfl, completesX_of_exec rfl,
      completesX_of_value rfl (fun _ => divOp_eq _ _), completesX_of_value rfl (fun _ => divuOp_eq _ _),
      completesX_of_value rfl (fun _ => remOp_eq _ _), completesX_of_value rfl (fun _ => remuOp_eq _ _)⟩
  · simp [decodeWord_frWord, decodeMajor, decodeAlu, decodeMulx, decodeDivx, frWord_minor, frWord_ctl, frWord_d, frWord_a,
      frWord_b, wellFormedOr, Instr.wellFormed]

/-! ### R98 -/

theorem clzOp_toNat (w : Word) : (clzOp w).toNat = if w = 0 then 64 else 63 - Nat.log2 w.toNat := by
  unfold clzOp
  rw [BitVec.toNat_ofNat]
  split <;> omega

/-- The leading one of a word that is not zero stands at bit 63 − CLZ (R98). -/
theorem clzOp_spec (w : Word) : (clzOp w).toNat ≤ 64 ∧ w.toNat < 2 ^ (64 - (clzOp w).toNat) ∧
    (w ≠ 0 → 2 ^ (63 - (clzOp w).toNat) ≤ w.toNat) ∧ (w = 0 → clzOp w = 64) := by
  rw [clzOp_toNat]
  by_cases hw : w = 0
  · subst hw
    exact ⟨by decide, by decide, fun h => absurd rfl h, fun _ => rfl⟩
  · have hnat : w.toNat ≠ 0 := fun h => hw (BitVec.eq_of_toNat_eq h)
    have hlog : Nat.log2 w.toNat < 64 := (Nat.log2_lt hnat).mpr w.isLt
    have hbelow : 64 - (63 - Nat.log2 w.toNat) = Nat.log2 w.toNat + 1 := by omega
    have hat : 63 - (63 - Nat.log2 w.toNat) = Nat.log2 w.toNat := by omega
    rw [if_neg hw, hbelow, hat]
    exact ⟨by omega, Nat.lt_log2_self, fun _ => Nat.log2_self_le hnat, fun h => absurd h hw⟩

/-- CTZ finds the lowest one (R98). -/
theorem ctzOp_spec (w : Word) : (w = 0 → ctzOp w = 64) ∧
    (w ≠ 0 → w.getLsbD (ctzOp w).toNat = true ∧ ∀ i < (ctzOp w).toNat, w.getLsbD i = false) := by
  refine ⟨fun h => ?_, fun hw => ?_⟩
  · subst h; rfl
  · cases hfind : (List.range 64).find? (fun i => w.getLsbD i) with
    | none =>
      have hzero := List.find?_range_eq_none.mp hfind
      exact absurd (BitVec.eq_of_getLsbD_eq (fun i hi => by simpa using hzero i hi)) hw
    | some j =>
      obtain ⟨hone, hmem, hbelow⟩ := List.find?_range_eq_some.mp hfind
      have hj : j < 64 := List.mem_range.mp hmem
      have hat : (ctzOp w).toNat = j := by
        simp only [ctzOp, hfind, Option.getD_some, BitVec.toNat_ofNat]
        omega
      rw [hat]
      exact ⟨hone, fun i hi => by simpa using hbelow i hi⟩

theorem brevOp_spec (w : Word) (i : Nat) (hi : i < 64) : (brevOp w).getLsbD (63 - i) = w.getLsbD i := by
  have hlt : 63 - i < 64 := by omega
  have hmirror : 64 - 1 - (63 - i) = i := by omega
  rw [brevOp, BitVec.getLsbD_reverse, BitVec.getMsbD_eq_getLsbD, hmirror, decide_eq_true hlt, Bool.true_and]

theorem absOp_eq (w : Word) : absOp w = BitVec.ofNat 64 w.toInt.natAbs := by
  rw [absOp, ← BitVec.ofInt_natCast]
  split
  · next h => rw [Int.ofNat_natAbs_of_nonpos (by omega), BitVec.ofInt_neg, BitVec.ofInt_toInt]
  · next h => rw [Int.natAbs_of_nonneg (by omega), BitVec.ofInt_toInt]

/-! ### R99 to R102 -/

theorem zimm_shift (n : BitVec 6) : (zimm n : Word).toNat % 64 = n.toNat := by
  have hn := n.isLt
  rw [zimm, BitVec.toNat_setWidth]
  omega

theorem slti_value (x : Word) (i : BitVec 9) :
    wordOfBool (decide (x.toInt < (simm i).toInt)) = if x.toInt < i.toInt then 1 else 0 := by
  rw [wordOfBool_decide, simm, BitVec.toInt_signExtend_of_le (by decide)]

theorem lsi_value (x : Word) (j : BitVec 15) : x * 32768 + zimm j = BitVec.ofNat 64 (x.toNat * 2 ^ 15 + j.toNat) := by
  simp [zimm, BitVec.ofNat_add, BitVec.ofNat_mul]

/-- a + b × m as the spec computes it, modulo 2^64 (R101). -/
theorem adds_value (x y : Word) (m : Nat) : x + y * BitVec.ofNat 64 m = BitVec.ofNat 64 (x.toNat + y.toNat * m) := by
  simp [BitVec.ofNat_add, BitVec.ofNat_mul]

/-- The position and the length that BFX and BFI read from x[b] (R102). -/
theorem field_bits (y : Word) : bitsOf y 5 0 = y.toNat % 64 ∧ bitsOf y 13 8 = y.toNat / 256 % 64 := by
  simp [bitsOf]

theorem bfxOp_eq (x y : Word) :
    bfxOp x y = BitVec.ofNat 64 (x.toNat / 2 ^ (y.toNat % 64) % 2 ^ (y.toNat / 256 % 64)) := by
  rw [bfxOp, (field_bits y).1, (field_bits y).2]

theorem bfiOp_eq (z x y : Word) : bfiOp z x y =
    let pos := y.toNat % 64
    let mask : Word := BitVec.ofNat 64 ((2 ^ (y.toNat / 256 % 64) - 1) * 2 ^ pos)
    (z &&& ~~~mask) ||| (BitVec.ofNat 64 (x.toNat * 2 ^ pos) &&& mask) := by
  rw [bfiOp, (field_bits y).1, (field_bits y).2]

/-- Settles O3: the unary words by their defining properties, the others by their values, and the encodings field by field. -/
theorem unaryAndImmediate : Obligations.UnaryAndImmediate := by
  unfold Obligations.UnaryAndImmediate
  refine ⟨fun k d a s => ?_, fun k d a i n j s => ?_, fun k d a b p n s => ?_, fun k d a => ?_, fun k d a b => ?_, fun k d a b n => ?_⟩
  · exact ⟨⟨clzOp, completesX_of_exec rfl, clzOp_spec⟩, ⟨ctzOp, completesX_of_exec rfl, ctzOp_spec⟩, completesX_of_exec rfl,
      ⟨brevOp, completesX_of_exec rfl, brevOp_spec⟩, completesX_of_value rfl (fun _ => absOp_eq _), completesX_of_exec rfl,
      completesX_of_exec rfl, completesX_of_exec rfl⟩
  · exact ⟨completesX_of_exec rfl, completesX_of_exec rfl, completesX_of_exec rfl,
      completesX_of_exec rfl, completesX_of_value rfl (fun _ => slti_value _ _),
      completesX_of_value rfl (fun _ => wordOfBool_decide _),
      completesX_of_value rfl (fun u => congrArg (u.x a <<< ·) (zimm_shift n)),
      completesX_of_value rfl (fun u => congrArg (u.x a >>> ·) (zimm_shift n)),
      completesX_of_value rfl (fun u => congrArg (u.x a).sshiftRight (zimm_shift n)),
      completesX_of_exec rfl, completesX_of_value rfl (fun _ => lsi_value _ _)⟩
  · exact ⟨completesX_of_value rfl (fun _ => adds_value _ _ 2), completesX_of_value rfl (fun _ => adds_value _ _ 4),
      completesX_of_value rfl (fun _ => adds_value _ _ 8), completesX_of_value rfl (fun _ => adds_value _ _ 16),
      completesX_of_value rfl (fun _ => bfxOp_eq _ _), completesX_of_value rfl (fun _ => bfiOp_eq _ _ _), completesX_of_exec rfl,
      completesX_of_exec rfl⟩
  · simp [decodeWord_frWord, decodeMajor, decodeUnx, frWord_minor, frWord_low, frWord_ctl, frWord_d, frWord_a, wellFormedOr,
      Instr.wellFormed]
  · simp [decodeWord_frWord, decodeMajor, decodeAdrx, frWord_minor, frWord_ctl, frWord_d, frWord_a, frWord_b,
      wellFormedOr, Instr.wellFormed]
  · simp [decodeWord_frWord _ n.isLt, decodeMajor, decodeSel, frWord_ctl n.isLt, frWord_d n.isLt, frWord_a n.isLt,
      frWord_b n.isLt, frWord_f, wellFormedOr, Instr.wellFormed]

end Sys2Proof.Machine
end

section
/-! PROOFS. O4: a word that writes one predicate completes with its value (R103, R105, R106, R116). -/

namespace Sys2Proof.Machine

/-- A word whose meaning is the write of one predicate completes with what its meaning writes. -/
theorem completesP_of_exec {s : State} {i : Instr} {k : Ctl} {allowed : Strand → Bool} {d : BitVec 4} {v : State → Bool}
    (hexec : exec i s = pWord i k allowed d v s) : completesP s i k allowed d v := fun hready => by
  obtain ⟨t, ht, hwrote⟩ := pWord_wrote s i k allowed d v hready
  exact ⟨t, hexec.trans ht, hwrote⟩

/-- The same, for a value that the spec writes in another way. -/
theorem completesP_of_value {s : State} {i : Instr} {k : Ctl} {allowed : Strand → Bool} {d : BitVec 4} {f v : State → Bool}
    (hexec : exec i s = pWord i k allowed d f s) (hvalue : ∀ u, f u = v u) : completesP s i k allowed d v :=
  funext hvalue ▸ completesP_of_exec hexec

theorem word_beq_eq_decide (x y : Word) : (x == y) = decide (x = y) := rfl

theorem not_beq_eq_decide (x y : Word) : (!(x == y)) = decide (x ≠ y) := by
  rw [word_beq_eq_decide, decide_not]

/-- Settles O4: each word's meaning is one predicate write; the conditions and modes are the branches of their tables. -/
theorem predicateResults : Obligations.PredicateResults := by
  unfold Obligations.PredicateResults
  intro k p q r a b i c m v s
  refine ⟨completesP_of_value rfl (fun _ => not_beq_eq_decide _ _), completesP_of_exec rfl, completesP_of_exec rfl,
    completesP_of_exec rfl, completesP_of_exec rfl, completesP_of_exec rfl, completesP_of_exec rfl, completesP_of_exec rfl,
    completesP_of_exec rfl, completesP_of_exec rfl, completesP_of_exec rfl,
    completesP_of_value rfl (fun _ => not_beq_eq_decide _ _), completesP_of_value rfl (fun _ => word_beq_eq_decide _ _),
    completesP_of_value rfl (fun _ => word_beq_eq_decide _ _), ?_, fun x y old c => ?_⟩
  · simp [decodeWord_plogWord, decodeMajor, decodePlog, plogWord_minor, plogWord_zeros, plogWord_ctl, plogWord_p, plogWord_q, plogWord_r,
      wellFormedOr, Instr.wellFormed]
  · exact ⟨word_beq_eq_decide x y, not_beq_eq_decide x y, rfl, rfl, rfl, rfl, rfl, rfl, rfl⟩

end Sys2Proof.Machine
end

section
/-! PROOFS. Words whose effect leaves the strands, transfers, and O6: JD (R52 to R55, R109, R110, R369). -/

namespace Sys2Proof.Machine

/-! ### Where a ready word stands (R52 to R55) -/

/-- A ready word stands in a strand that its row of R81 allows. -/
theorem ready_allowed {s : State} {i : Instr} {k : Ctl} {allowed : Strand → Bool} {ct : Bool} (h : s.ready i k allowed ct) :
    allowed s.ctx.cur = true := by
  have hplace : s.bump.misplaced i k.sy allowed ct = false := h.1
  simp only [State.misplaced, Bool.or_eq_false_iff, Bool.not_eq_false'] at hplace
  obtain ⟨⟨⟨⟨⟨-, hallowed⟩, -⟩, -⟩, -⟩, -⟩ := hplace
  exact hallowed

theorem ready_onlyC {s : State} {i : Instr} {k : Ctl} {ct : Bool} (h : s.ready i k onlyC ct) : s.ctx.cur = .c :=
  eq_of_beq (ready_allowed h)

/-- A control transfer of a lock-step context stands in slot 0 of a bundle that does not split. -/
theorem ready_transfer_lock {s : State} {i : Instr} {k : Ctl} {allowed : Strand → Bool} (h : s.ready i k allowed true)
    (hl : s.ctx.lockstep = true) : s.ctx.cur = .c ∧ k.sy = true := by
  have hplace : s.bump.misplaced i k.sy allowed true = false := h.1
  have hlock : s.bump.ctx.lockstep = true := hl
  simp only [State.misplaced, hlock, Bool.or_true, Bool.true_or, Bool.and_true, Bool.true_and, Bool.or_eq_false_iff,
    Bool.not_eq_false'] at hplace
  obtain ⟨⟨⟨⟨-, hslot⟩, hsplit⟩, -⟩, -⟩ := hplace
  have hcur : s.ctx.cur = .c := eq_of_beq hslot
  exact ⟨hcur, by simpa [hcur] using hsplit⟩

/-! ### Effects that leave the strands -/

/-- The issuing strand, the mode, every strand's state and whether a bundle is being issued are the same. -/
structure Unmoved (u e : State) : Prop where
  cur : e.ctx.cur = u.ctx.cur
  lockstep : e.ctx.lockstep = u.ctx.lockstep
  strands : e.ctx.strands = u.ctx.strands
  bundle : e.bundle = u.bundle

theorem Unmoved.refl (s : State) : Unmoved s s := ⟨rfl, rfl, rfl, rfl⟩

theorem Unmoved.trans {s t u : State} (h : Unmoved s t) (g : Unmoved t u) : Unmoved s u :=
  ⟨g.cur.trans h.cur, g.lockstep.trans h.lockstep, g.strands.trans h.strands, g.bundle.trans h.bundle⟩

theorem Unmoved.setX (s : State) (d : Reg) (v : Word) (n : Nat) : Unmoved s (s.setX d v n) := by
  unfold State.setX
  split
  · exact .refl s
  · exact ⟨rfl, rfl, rfl, rfl⟩

theorem Unmoved.mloop (s : State) (f : LoopSt → LoopSt) : Unmoved s (s.mloop f) := ⟨rfl, rfl, rfl, rfl⟩

/-- An effect that is done and moves no strand is closed by its word, which notes that it issued. -/
theorem issue_done_unmoved (s : State) (i : Instr) (k : Ctl) (allowed : Strand → Bool) (ct : Bool) (eff : State → Res) (e : State)
    (n : Nat) (h : s.ready i k allowed ct) (he : eff (s.operands i k) = .done e n) (hu : Unmoved (s.operands i k) e) :
    (s.issue i k allowed ct noCheck eff).event = .issued s.ctx.cur ∧ e.closes (s.issue i k allowed ct noCheck eff) := by
  obtain ⟨hissue, hclosed⟩ := issue_done s i k allowed ct noCheck eff e n h rfl he hu.cur hu.lockstep
    (by simp only [State.strand, hu.strands])
  rw [hissue]
  refine ⟨?_, hclosed.closes⟩
  rw [finish_event, State.doneEvent, hu.cur, operands_cur]

/-- A transfer whose effect moves no strand is closed by its word, which moves its strand (R110). -/
theorem issue_jumpedTo (s : State) (i : Instr) (k : Ctl) (allowed : Strand → Bool) (eff : State → Res) (e : State) (dest : Word)
    (n : Nat) (h : s.ready i k allowed true) (he : eff (s.operands i k) = .jump e dest n) (hu : Unmoved (s.operands i k) e) :
    s.jumpedTo (s.issue i k allowed true noCheck eff) dest n ∧ e.closes (s.issue i k allowed true noCheck eff) := by
  have hpc : (e.strand s.ctx.cur).pc = (s.strand s.ctx.cur).pc := by
    rw [State.strand, hu.strands]
    exact (operands_pc s i k s.ctx.cur).1
  rw [issue_jump s i k allowed true noCheck eff e dest n h rfl he]
  exact ⟨finish_jumpedTo s e k dest n (hu.cur.trans (operands_cur s i k)) (hu.bundle.trans (operands_s_bundle s i k)) hpc
    (hu.lockstep.trans (operands_lockstep s i k)) (ready_transfer_lock h), (finish_closed _ _ _ _ _ _).closes⟩

/-! ### The trace of a transfer (R368, R369) -/

theorem traceWrite_recorded (s : State) (t : TraceCfg) (kind : Nat) (id : BitVec 32) (dws : List Word) :
    Recorded s (s.traceWrite t kind id dws) := by
  unfold State.traceWrite
  simp only []
  split
  · exact (homeWrite_recorded _ _ _ _ _ _).trans (mplate_recorded _ _)
  · exact (mplate_recorded s _).trans (post_recorded _ _ _ _ _ _ _)

theorem trace_recorded (s : State) (kind : Nat) (dws : List Word) : Recorded s (s.trace kind dws) := by
  have hlost : ∀ t : TraceCfg, Recorded s (if t.lost = 0 then s
      else s.traceWrite { t with lost := 0 } 6 s.ctx.id [BitVec.ofNat 64 t.lost, 0, 0, 0, 0, 0]) := by
    intro t
    split
    · exact .refl s
    · exact traceWrite_recorded _ _ _ _ _
  unfold State.trace State.traceAs
  split
  · exact .refl s
  · split
    · exact .refl s
    · simp only []
      split
      · exact hlost _
      · exact (hlost _).trans (traceWrite_recorded _ _ _ _ _)

theorem Unmoved.traceJump (s : State) (dest : Word) : Unmoved s (s.traceJump dest) := by
  have hctx : (s.traceJump dest).ctx = s.ctx := trace_ctx _ _ _
  exact ⟨congrArg Ctx.cur hctx, congrArg Ctx.lockstep hctx, congrArg Ctx.strands hctx, (trace_recorded _ _ _).bundle⟩

/-! ### JD (R109, R110) -/

/-- Where JD's delay slots end, which is also its link. -/
def State.pastSlots (s : State) (e : BitVec 2) : Word :=
  s.addrOf s.ctx.cur + BitVec.ofNat 64 (s.ctx.stepOf * (e.toNat + 1))

/-- What JD leaves before it closes when it is taken: with L its link in x63. -/
def State.linked (s : State) (e : BitVec 2) (l : Bool) : State := if l then s.setX 63 (s.pastSlots e) 1 else s

theorem Unmoved.linked (s : State) (e : BitVec 2) (l : Bool) : Unmoved s (s.linked e l) := by
  unfold State.linked
  split
  · exact .setX _ _ _ _
  · exact .refl s

theorem jdRes_taken (n : BitVec 2) (p : BitVec 4) (g : Bool) (e : BitVec 2) (l : Bool) (s : State) (ht : (s.p p.toNat != g) = true)
    (ha : (s.b n).toNat % s.ctx.stepOf = 0) :
    jdRes n p g e l s = .jump ((s.linked e l).traceJump (s.b n)) (s.b n) e.toNat := by
  have htaken : (s.p p.toNat ^^ g) = true := ht
  have hoff : s.offStep (s.b n) = false := by simp [State.offStep, ha]
  simp only [jdRes, htaken, hoff, Bool.and_false, Bool.false_eq_true, if_false, if_true]
  rfl

theorem jdRes_untaken (n : BitVec 2) (p : BitVec 4) (g : Bool) (e : BitVec 2) (l : Bool) (s : State) (ht : (s.p p.toNat != g) = false) :
    jdRes n p g e l s = .jump s (s.pastSlots e) e.toNat := by
  have htaken : (s.p p.toNat ^^ g) = false := ht
  simp only [jdRes, htaken, Bool.false_and, Bool.false_eq_true, if_false]
  rfl

theorem exec_jd (k : Ctl) (n : BitVec 2) (p : BitVec 4) (g : Bool) (e : BitVec 2) (l : Bool) (s : State) :
    exec (.jd k n p g e l) s = .next (s.issue (.jd k n p g e l) k anyStrand true noCheck (jdRes n p g e l)) := rfl

/-- Settles O6: both ways JD makes a transfer that moves no strand, and its word moves it. -/
theorem delayedJump : Obligations.DelayedJump := by
  unfold Obligations.DelayedJump
  intro k n p g e l s hready u taken target past haligned
  refine ⟨_, exec_jd k n p g e l s, ?_⟩
  cases htaken : taken with
  | true =>
    exact issue_jumpedTo s _ k anyStrand _ _ _ _ hready (jdRes_taken n p g e l u htaken (haligned htaken))
      ((Unmoved.linked u e l).trans (.traceJump _ _))
  | false => exact issue_jumpedTo s _ k anyStrand _ _ _ _ hready (jdRes_untaken n p g e l u htaken) (.refl u)

end Sys2Proof.Machine
end

section
/-! PROOFS. The hardware loop (R112 to R115): the window of p8 to p15 after a loop word, the matrix snapshot at its end (R346), and O7. -/

namespace Sys2Proof.Machine

/-! ### One window predicate (R115) -/

/-- Predicate j as the context holds it. -/
def Ctx.pcell (c : Ctx) (j : Nat) : Cell Bool := SMap.get (Cell.init false) c.p j

/-- The context's table of predicates is in canonical form. -/
def Ctx.pWf (c : Ctx) : Prop := SMap.wf (Cell.init false) c.p = true

/-- t is s but for the predicates, with the bounds and landings that writing them ends (R68). -/
def State.sameButP (s t : State) : Prop :=
  t = { s with ctx := { s.ctx with p := t.ctx.p, pends := t.ctx.pends, flight := t.ctx.flight } }

theorem State.sameButP.trans {s t u : State} (h : s.sameButP t) (g : t.sameButP u) : s.sameButP u :=
  Eq.trans g (congrArg (fun z : State =>
    { z with ctx := { z.ctx with p := u.ctx.p, pends := u.ctx.pends, flight := u.ctx.flight } }) h)

theorem setLoopP_sameButP (s : State) (n : Nat) (v : Bool) : s.sameButP (s.setLoopP n v) := by
  unfold State.setLoopP State.setP
  split
  · rfl
  · split <;> rfl

/-- A loop word writes one window predicate: in lock-step for every slot at once, apart as a write of strand C. -/
theorem setLoopP_p (s : State) (n : Nat) (v : Bool) (hn : n ≠ 0) :
    ∃ x : Cell Bool, x.val = v ∧ (s.setLoopP n v).ctx.p = SMap.set (Cell.init false) s.ctx.p n x := by
  unfold State.setLoopP State.setP
  rw [if_neg hn]
  split
  · exact ⟨_, rfl, rfl⟩
  · exact ⟨_, rfl, rfl⟩

theorem operands_pWf {s u : State} {i : Instr} {k : Ctl} (hu : s.operands i k = u) (h : s.ctx.pWf) : u.ctx.pWf := by
  rw [Ctx.pWf, ← hu, operands_p]
  exact h

/-! ### The window after a loop word -/

/-- e is u with its first n window predicates written: they hold w, and every other predicate stays. -/
structure Windowed (u e : State) (w : Nat → Bool) (n : Nat) : Prop where
  rest : u.sameButP e
  wf : e.ctx.pWf
  inside : ∀ j < n, (e.ctx.pcell (8 + j)).val = w j
  low : ∀ j < 8, e.ctx.pcell j = u.ctx.pcell j

/-- The window predicates written one after another. -/
def State.writeWindow (s : State) (w : Nat → Bool) (n : Nat) : State :=
  (List.range n).foldl (fun t i => t.setLoopP (8 + i) (w i)) s

theorem writeWindow_succ (s : State) (w : Nat → Bool) (n : Nat) :
    s.writeWindow w (n + 1) = (s.writeWindow w n).setLoopP (8 + n) (w n) := by
  simp only [State.writeWindow, List.range_succ, List.foldl_append, List.foldl_cons, List.foldl_nil]

theorem writeWindow_windowed (s : State) (w : Nat → Bool) (hwf : s.ctx.pWf) (n : Nat) : Windowed s (s.writeWindow w n) w n := by
  induction n with
  | zero => exact ⟨rfl, hwf, fun j hj => absurd hj (Nat.not_lt_zero j), fun _ _ => rfl⟩
  | succ n ih =>
    obtain ⟨x, hx, hp⟩ := setLoopP_p (s.writeWindow w n) (8 + n) (w n) (by omega)
    have hcell : ∀ j, ((s.writeWindow w n).setLoopP (8 + n) (w n)).ctx.pcell j =
        if j = 8 + n then x else (s.writeWindow w n).ctx.pcell j := by
      intro j
      rw [Ctx.pcell, hp, SMap.get_set _ _ _ _ ih.wf]
      rfl
    rw [writeWindow_succ]
    refine ⟨ih.rest.trans (setLoopP_sameButP _ _ _), ?_, fun j hj => ?_, fun j hj => ?_⟩
    · rw [Ctx.pWf, hp]
      exact SMap.set_wf _ _ _ _ ih.wf
    · rw [hcell]
      split
      · next h => rw [hx, show j = n by omega]
      · exact ih.inside j (by omega)
    · rw [hcell, if_neg (by omega)]
      exact ih.low j hj

/-- Writing the window moves no strand. -/
theorem Windowed.unmoved {u e : State} {w : Nat → Bool} {n : Nat} (h : Windowed u e w n) : Unmoved u e := by
  have hrest := h.rest
  exact ⟨(congrArg (fun z : State => z.ctx.cur) hrest).trans rfl, (congrArg (fun z : State => z.ctx.lockstep) hrest).trans rfl,
    (congrArg (fun z : State => z.ctx.strands) hrest).trans rfl, (congrArg State.bundle hrest).trans rfl⟩

/-- What a loop word leaves of its context: the loop, a new window, and the rest but for what writing predicates changes. -/
def State.turned (u e : State) (loop : LoopSt) (w : Nat → Bool) : Prop :=
  e.ctx.loop = loop ∧ (∀ j < 8, (e.ctx.pcell (8 + j)).val = w j) ∧ (∀ j < 8, e.ctx.pcell j = u.ctx.pcell j) ∧
    e = { u with ctx := { u.ctx with loop := loop, p := e.ctx.p, pends := e.ctx.pends, flight := e.ctx.flight } }

/-- The window is written in the state whose loop has changed. -/
theorem Windowed.turned {u e : State} {w : Nat → Bool} {f : LoopSt → LoopSt} (h : Windowed (u.mloop f) e w 8) :
    u.turned e (f u.ctx.loop) w :=
  ⟨(congrArg (fun z : State => z.ctx.loop) h.rest).trans rfl, h.inside, h.low, h.rest⟩

/-- The loop changes in the state whose window has been written. -/
theorem Windowed.turned_mloop {u e : State} {w : Nat → Bool} (h : Windowed u e w 8) (f : LoopSt → LoopSt) :
    u.turned (e.mloop f) (f e.ctx.loop) w :=
  ⟨rfl, h.inside, h.low, congrArg (fun z : State => { z with ctx := { z.ctx with loop := f e.ctx.loop } }) h.rest⟩

/-! ### LPS (R112) -/

/-- How LPS's effect ends. -/
def lpsRes (a : Reg) (n : BitVec 3) (s : State) : Res :=
  if s.ctx.loop.active then .trap .illegal 0
  else .done ((s.writeWindow (fun j => j == 0 && !(s.x a == 0)) 8).mloop (fun _ =>
    { lc := s.x a, ls := n.toNat + 1, ldc := if s.x a = 0 then 0 else n.toNat, active := true })) 1

theorem exec_lps (k : Ctl) (a : Reg) (n : BitVec 3) (s : State) :
    exec (.lps k a n) s = .next (s.issue (.lps k a n) k onlyC false noCheck (lpsRes a n)) := rfl

/-- The window of a loop that starts: p8 says that a first pass is due. -/
def startWindow (v : Word) (j : Nat) : Bool := decide (j = 0) && decide (v ≠ 0)

/-- The loop that LPS starts. -/
def startLoop (v : Word) (n : BitVec 3) : LoopSt :=
  { lc := v, ls := n.toNat + 1, ldc := if v = 0 then 0 else n.toNat, active := true }

theorem startWindow_eq (v : Word) : (fun j : Nat => j == 0 && !(v == 0)) = startWindow v := by
  funext j
  rw [startWindow, not_beq_eq_decide]
  rfl

theorem lpsRes_idle (a : Reg) (n : BitVec 3) (s : State) (hidle : s.ctx.loop.active = false) :
    lpsRes a n s = .done ((s.writeWindow (startWindow (s.x a)) 8).mloop (fun _ => startLoop (s.x a) n)) 1 := by
  rw [lpsRes, hidle, startWindow_eq]
  rfl

theorem lpsRes_active (a : Reg) (n : BitVec 3) (s : State) (hactive : s.ctx.loop.active = true) :
    lpsRes a n s = .trap .illegal 0 := if_pos hactive

theorem lps_starts (k : Ctl) (a : Reg) (n : BitVec 3) (s u : State) (hu : s.operands (.lps k a n) k = u) (hwf : s.ctx.pWf)
    (hready : s.ready (.lps k a n) k onlyC false) (hidle : s.ctx.loop.active = false) :
    ∃ e t : State, exec (.lps k a n) s = .next t ∧ e.closes t ∧ u.turned e (startLoop (u.x a) n) (startWindow (u.x a)) := by
  have he : lpsRes a n u = _ := lpsRes_idle a n u (by rw [← hu, operands_loop, hidle])
  have hwindowed := writeWindow_windowed u (startWindow (u.x a)) (operands_pWf hu hwf) 8
  subst hu
  obtain ⟨-, hcloses⟩ := issue_done_unmoved s _ k onlyC false (lpsRes a n) _ 1 hready he (hwindowed.unmoved.trans (.mloop _ _))
  exact ⟨_, _, exec_lps k a n s, hcloses, hwindowed.turned_mloop _⟩

/-- A trap that reaches the handler leaves the loop as it was. -/
theorem enterTrapPast_loop (s : State) (e : Exc) (after : Option (Word × Nat)) (hp : e.cause ≠ .prot) (hcan : s.canTrap) :
    (s.enterTrapPast e after).ctx.loop = s.ctx.loop := by
  obtain ⟨hact, hvec⟩ := hcan
  obtain ⟨-, -, -, -, -, hv, -⟩ := faulting_keeps s e
  obtain ⟨q, hq⟩ := faulting_landsTo s e
  have hvector : (s.recorded e).ctx.csr.vector ≠ 0 := fun h => hvec (hv.symm.trans h)
  rw [enterTrapPast_vectors s e after hp hact, vectorTrap_ctx _ _ hvector]
  show (s.faulting e).ctx.loop = s.ctx.loop
  rw [hq]
  exact (congrArg Ctx.loop (landAll_landsTo s)).trans rfl

/-- A ready word that faults leaves the loop as it was (R387). -/
theorem issue_trap_loop (s : State) (i : Instr) (k : Ctl) (allowed : Strand → Bool) (ct : Bool) (eff : State → Res) (c : Cause)
    (addr : Word) (h : s.ready i k allowed ct) (he : eff (s.operands i k) = .trap c addr) (hb : s.bundle = false) (hcan : s.canTrap)
    (hc : c ≠ .prot) : (s.issue i k allowed ct noCheck eff).ctx.loop = s.ctx.loop := by
  have hbundle : ∀ (j : Strand) (ev : Event), (((s.bump.mctx (fun c => { c with ported := false })).note j .trap ev).bundle) = false :=
    fun _ _ => hb
  rw [issue_ready s i k allowed ct noCheck eff h rfl, he]
  simp only [State.close, State.faultBefore, hbundle, Bool.false_eq_true, if_false]
  exact enterTrapPast_loop _ (excOf _ c _ _ _) _ hc hcan

theorem lps_illegal (k : Ctl) (a : Reg) (n : BitVec 3) (s : State) (hready : s.ready (.lps k a n) k onlyC false)
    (hactive : s.ctx.loop.active = true) (hcan : s.canTrap) (hb : s.bundle = false) :
    ∃ t, exec (.lps k a n) s = .next t ∧
      s.tookTrap t .illegal .c (s.addrOf .c) 0 (BitVec.ofNat 32 (encodeWord (.lps k a n))) ∧ t.ctx.loop = s.ctx.loop := by
  have he : lpsRes a n (s.operands (.lps k a n) k) = .trap .illegal 0 :=
    lpsRes_active a n _ (by rw [operands_loop, hactive])
  have hprot : Cause.illegal ≠ .prot := fun h => nomatch h
  obtain ⟨htook, -⟩ := issue_trap_faulted s _ k onlyC false noCheck _ .illegal 0 hready rfl he hb hcan hprot
  rw [ready_onlyC hready] at htook
  exact ⟨_, exec_lps k a n s, htook, issue_trap_loop s _ k onlyC false _ .illegal 0 hready he hb hcan hprot⟩

/-! ### LBR (R113, R346) -/

/-- The window after shift(v), from the predicates as strand C sees them. -/
def State.shifted (s : State) (v : Bool) (j : Nat) : Bool := if j = 0 then v else s.p (8 + (j - 1))

/-- A pass of the loop that goes on: the loop changes and the window shifts. -/
def State.nextPass (s : State) (f : LoopSt → LoopSt) (v : Bool) : State := (s.mloop f).writeWindow (s.shifted v) 8

theorem shiftWindow_mloop (s : State) (f : LoopSt → LoopSt) (v : Bool) : (s.mloop f).shiftWindow v = s.nextPass f v := by
  have hwindow : (fun i => if i = 0 then v else (s.mloop f).p (7 + i)) = s.shifted v := by
    funext j
    unfold State.shifted
    split
    · rfl
    · rw [show 7 + j = 8 + (j - 1) by omega]
      rfl
  rw [State.nextPass, State.writeWindow, ← hwindow]
  rfl

section
variable (m : BitVec 2) (s : State) (hactive : s.ctx.loop.active = true)
include hactive

theorem lbrRes_repeats (hlc : 1 < s.ctx.loop.lc.toNat) (ha : (s.b m).toNat % s.ctx.stepOf = 0) :
    lbrRes m s = .jump ((s.nextPass (fun l => { l with lc := l.lc - 1 }) true).traceJump (s.b m)) (s.b m) 0 := by
  have hoff : s.offStep (s.b m) = false := by simp [State.offStep, ha]
  simp only [lbrRes, hactive, hlc, hoff, shiftWindow_mloop, Bool.not_true, Bool.and_false, Bool.false_eq_true, if_false, if_true]

theorem lbrRes_drains (hlc : s.ctx.loop.lc.toNat ≤ 1) (hldc : 0 < s.ctx.loop.ldc) (ha : (s.b m).toNat % s.ctx.stepOf = 0) :
    lbrRes m s = .jump ((s.nextPass (fun l => { l with lc := 0, ldc := l.ldc - 1 }) false).traceJump (s.b m)) (s.b m) 0 := by
  have hoff : s.offStep (s.b m) = false := by simp [State.offStep, ha]
  simp only [lbrRes, hactive, Nat.not_lt.mpr hlc, hldc, hoff, shiftWindow_mloop, Bool.not_true, Bool.and_false, Bool.false_eq_true,
    if_false, if_true]

theorem lbrRes_ends (hlc : s.ctx.loop.lc.toNat ≤ 1) (hldc : s.ctx.loop.ldc = 0) :
    lbrRes m s = .done ((s.mloop (fun l => { l with lc := 0, active := false })).bankSnapshot (s.addrOf .c)) 1 := by
  simp [lbrRes, hactive, Nat.not_lt.mpr hlc, hldc]

end

/-- The matrix snapshot is written where BANK and EN ask for it. -/
theorem bankSnapshot_off (s : State) (pc : Word) (h : (bitOf s.ctx.csr.accctl 2 && bitOf s.ctx.csr.accctl 0) = false) :
    s.bankSnapshot pc = s := by
  simp only [State.bankSnapshot, h, Bool.false_eq_true, if_false]

theorem bankSnapshot_accounted (s : State) (pc : Word) : Accounted s (s.bankSnapshot pc) := by
  unfold State.bankSnapshot
  split
  · exact ((streamRecord_accounted s _ _).trans (Accounted.foldl _ (fun t _ => streamRecord_accounted t _ _) _ _)).trans
      (.of_ctx rfl (mplate_recorded _ _))
  · exact .refl s

theorem Accounted.unmoved {s t : State} (h : Accounted s t) : Unmoved s t := by
  obtain ⟨hctx, hrecorded⟩ := h
  exact ⟨(congrArg Ctx.cur hctx).trans rfl, (congrArg Ctx.lockstep hctx).trans rfl, (congrArg Ctx.strands hctx).trans rfl,
    hrecorded.bundle⟩

theorem exec_lbr (k : Ctl) (m : BitVec 2) (s : State) :
    exec (.lbr k m) s = .next (s.issue (.lbr k m) k onlyC true noCheck (lbrRes m)) := rfl

section
variable (k : Ctl) (m : BitVec 2) (s u : State) (hu : s.operands (.lbr k m) k = u) (hready : s.ready (.lbr k m) k onlyC true)
include hu hready

/-- A pass that goes on: the loop and the window change, and the word makes its transfer. -/
theorem lbr_goes (hwf : s.ctx.pWf) (f : LoopSt → LoopSt) (v : Bool)
    (he : lbrRes m u = .jump ((u.nextPass f v).traceJump (u.b m)) (u.b m) 0) :
    ∃ e t : State, exec (.lbr k m) s = .next t ∧ s.jumpedTo t (u.b m) 0 ∧ (e.traceJump (u.b m)).closes t ∧
      u.turned e (f u.ctx.loop) (u.shifted v) := by
  have hp : u.ctx.pWf := operands_pWf hu hwf
  have hwindowed : Windowed (u.mloop f) (u.nextPass f v) (u.shifted v) 8 := writeWindow_windowed (u.mloop f) (u.shifted v) hp 8
  subst hu
  obtain ⟨hjumped, hcloses⟩ := issue_jumpedTo s _ k onlyC (lbrRes m) _ _ _ hready he
    (((Unmoved.mloop _ f).trans hwindowed.unmoved).trans (.traceJump _ _))
  exact ⟨_, _, exec_lbr k m s, hjumped, hcloses, hwindowed.turned⟩

/-- The last pass goes on behind its word, once the snapshot has been written where it is asked for. -/
theorem lbr_ends (ended : State) (he : lbrRes m u = .done (ended.bankSnapshot (u.addrOf .c)) 1) (hmoved : Unmoved u ended) :
    ∃ t : State, exec (.lbr k m) s = .next t ∧ t.event = .issued s.ctx.cur ∧ (ended.bankSnapshot (u.addrOf .c)).closes t := by
  subst hu
  exact ⟨_, exec_lbr k m s, issue_done_unmoved s _ k onlyC true (lbrRes m) _ 1 hready he
    (hmoved.trans (bankSnapshot_accounted _ _).unmoved)⟩

end

/-- The snapshot leaves the loop and every register. -/
theorem bankSnapshot_registers (s : State) (pc : Word) :
    (s.bankSnapshot pc).ctx.loop = s.ctx.loop ∧ (∀ j, (s.bankSnapshot pc).ctx.pcell j = s.ctx.pcell j) ∧
      (s.bankSnapshot pc).ctx.x = s.ctx.x ∧ (s.bankSnapshot pc).ctx.vp = s.ctx.vp ∧ (s.bankSnapshot pc).ctx.lines = s.ctx.lines := by
  obtain ⟨hctx, -⟩ := bankSnapshot_accounted s pc
  exact ⟨(congrArg Ctx.loop hctx).trans rfl, fun j => (congrArg (Ctx.pcell · j) hctx).trans rfl, (congrArg Ctx.x hctx).trans rfl,
    (congrArg Ctx.vp hctx).trans rfl, (congrArg Ctx.lines hctx).trans rfl⟩

/-! ### LCW and LCR (R114), and O7 -/

theorem lcw_completes (k : Ctl) (a : Reg) (s : State) :
    completes s (.lcw k a) k onlyC false (fun u => u.mctx (fun c => { c with loop := { c.loop with lc := u.x a } })) := by
  intro hready
  exact ⟨_, rfl, issue_closes s _ k onlyC false noCheck _ _ 1 hready rfl rfl (.mctx _ _ rfl rfl rfl rfl)⟩

theorem lcr_wrote (k : Ctl) (d : Reg) (s : State) (hready : s.ready (.lcr k d) k onlyC false) :
    ∃ t, exec (.lcr k d) s = .next t ∧ (s.operands (.lcr k d) k).wroteX t d s.ctx.loop.lc 1 := by
  rw [← operands_loop s (.lcr k d) k]
  exact ⟨_, rfl, issue_setX s _ k onlyC false noCheck _ d _ 1 hready rfl rfl⟩

/-- Settles O7: LPS and a pass that goes on by the window they write, the last pass by the snapshot it may write. -/
theorem hardwareLoop : Obligations.HardwareLoop := by
  unfold Obligations.HardwareLoop
  intro k a d n m s hwf pcell seen turned
  refine ⟨fun hready => ⟨fun hidle => lps_starts k a n s _ rfl hwf hready hidle, fun hactive hcan hb =>
    lps_illegal k a n s hready hactive hcan hb⟩, lcw_completes k a s, lcr_wrote k d s, ?_⟩
  intro i u l target shift goes hready hactive
  have hloop : u.ctx.loop = l := operands_loop s i k
  have hstep : u.ctx.stepOf = s.ctx.stepOf := by simp only [Ctx.stepOf, u, operands_lockstep]
  have hcsr : u.ctx.csr = s.ctx.csr := operands_csr s i k
  have hrunning : u.ctx.loop.active = true := hloop ▸ hactive
  refine ⟨fun hlc haligned => ?repeats, fun hlc hldc haligned => ?drains, fun hlc hldc => ?ends⟩
  case repeats =>
    have he := lbrRes_repeats m u hrunning (hloop ▸ hlc) (hstep ▸ haligned)
    exact hloop ▸ lbr_goes k m s u rfl hready hwf _ true he
  case drains =>
    have he := lbrRes_drains m u hrunning (hloop ▸ hlc) (hloop ▸ hldc) (hstep ▸ haligned)
    exact hloop ▸ lbr_goes k m s u rfl hready hwf _ false he
  case ends =>
    intro counts ended
    have he := lbrRes_ends m u hrunning (hloop ▸ hlc) (hloop ▸ hldc)
    have hended : u.mloop (fun l => { l with lc := 0, active := false }) = ended := by simp only [ended, State.mloop, hloop, State.mctx]
    rw [hended] at he
    obtain ⟨t, hexec, hevent, hcloses⟩ := lbr_ends k m s u rfl hready ended he ⟨rfl, rfl, rfl, rfl⟩
    refine ⟨fun hcounts => ⟨t, hexec, hevent, ?_⟩, fun _ => ⟨_, t, hexec, hevent, hcloses, bankSnapshot_registers ended _⟩⟩
    have hoff : (bitOf ended.ctx.csr.accctl 2 && bitOf ended.ctx.csr.accctl 0) = false := hcsr ▸ hcounts
    rwa [bankSnapshot_off _ _ hoff] at hcloses

end Sys2Proof.Machine
end

section
/-! PROOFS. Vector words whose effect is the write of a vector register: what their effects leave, and the elements they read
(R61, R139, R141). -/

namespace Sys2Proof.Machine

/-! ### Effects that leave the strands and the predicates -/

theorem Steady.raiseIn (s : State) (f : BitVec 6) (n : Nat) : Steady s (s.raiseIn f n) := by
  rw [s.raiseIn_frame f n]
  exact ⟨rfl, rfl, fun _ => rfl, rfl⟩

theorem Steady.vsteps (s : State) (rounded : Bool) : Steady s (s.vsteps rounded) := .of_ctx (s.vsteps_ctx rounded)

/-- A register's write, its flags and the generator's steps. -/
theorem Steady.setRounded (s : State) (d : Reg) (w : VReg) (f : BitVec 6) (rounded : Bool) (n : Nat) :
    Steady s (((s.setV d w n).raiseIn f n).vsteps rounded) :=
  ((Steady.setLine s _ w n).trans (.raiseIn _ f n)).trans (.vsteps _ rounded)

theorem Steady.setElems (s : State) (d : Reg) (w : Nat) (l : List (Nat × BitVec 6)) (rounded : Bool) (n : Nat) :
    Steady s (s.setElems d w l rounded n) := .setRounded s d _ _ rounded n

/-! ### Words of strand X -/

theorem ready_onlyX {s : State} {i : Instr} {k : Ctl} {ct : Bool} (h : s.ready i k onlyX ct) : s.ctx.cur = .x :=
  eq_of_beq (ready_allowed h)

section
variable {s : State} {i : Instr} {k : Ctl} {regs : List Reg}

/-- A word of strand X whose vector registers lie in the register space goes on to its effect, when that is done and steady. -/
theorem goesTo_of_done {res : State → Res} {e : State} {n : Nat}
    (hexec : exec i s = .next (s.issue i k onlyX false noCheck (fun u => u.inRange regs (res u))))
    (hregs : ∀ r ∈ regs, (s.operands i k).vok r = true) (hres : res (s.operands i k) = .done e n)
    (hsteady : Steady (s.operands i k) e) : goesTo s i k onlyX false e :=
  fun hready => ⟨_, hexec, issue_closes s i k onlyX false noCheck _ e n hready rfl ((inRange_ok _ _ _ hregs).trans hres) hsteady⟩

/-- The same, for a word whose effect is the write of x[d]. -/
theorem goesToX_of_done {res : State → Res} {d : Reg} {v : Word} {n : Nat}
    (hexec : exec i s = .next (s.issue i k onlyX false noCheck (fun u => u.inRange regs (res u))))
    (hregs : ∀ r ∈ regs, (s.operands i k).vok r = true)
    (hres : res (s.operands i k) = .done ((s.operands i k).setX d v n) n) : goesToX s i k onlyX (s.operands i k) d v n :=
  fun hready => ⟨_, hexec, issue_setX s i k onlyX false noCheck _ d v n hready rfl ((inRange_ok _ _ _ hregs).trans hres)⟩

/-- The same, for a word whose effect is the write of v[d]. -/
theorem completesV_of_done {res : State → Res} {d : Reg} {v : State → VReg} {n : Nat}
    (hexec : exec i s = .next (s.issue i k onlyX false noCheck (fun u => u.inRange regs (res u))))
    (hres : res (s.operands i k) = .done ((s.operands i k).setV d (v (s.operands i k)) n) n) : completesV s i k d regs n v :=
  fun hready hregs =>
    ⟨_, hexec, issue_setLine s i k onlyX false noCheck _ _ _ n hready rfl ((inRange_ok _ _ _ hregs).trans hres)⟩

/-- A word whose meaning is the write of one vector register completes with what its meaning writes. -/
theorem completesV_of_exec {d : Reg} {n : Nat} {v : State → VReg} (hexec : exec i s = vWord i k d regs n v s) :
    completesV s i k d regs n v := fun hready hregs => by
  obtain ⟨t, ht, hwrote⟩ := vWord_wrote s i k d regs n v hready hregs
  exact ⟨t, hexec.trans ht, hwrote⟩

/-- The same, for a value that the spec writes in another way. -/
theorem completesV_of_value {d : Reg} {n : Nat} {f v : State → VReg} (hexec : exec i s = vWord i k d regs n f s)
    (hvalue : ∀ u, f u = v u) : completesV s i k d regs n v :=
  funext hvalue ▸ completesV_of_exec hexec

end

/-! ### Elements (R139) -/

theorem getD_map_range {α : Type} (f : Nat → α) (d : α) {n i : Nat} (hi : i < n) : ((List.range n).map f).getD i d = f i := by
  rw [List.getD_eq_getElem?_getD, List.getElem?_map, List.getElem?_range hi]
  rfl

theorem getD_elemsOf (w : Nat) (v : VReg) {n i : Nat} (hi : i < n) : (elemsOf w n v).getD i 0 = v.toNat / 2 ^ (w * i) % 2 ^ w :=
  getD_map_range _ 0 hi

/-- Lists over the same lanes are equal when they agree at every lane. -/
theorem map_range_congr {α : Type} {f g : Nat → α} {n : Nat} (h : ∀ i < n, f i = g i) : (List.range n).map f = (List.range n).map g :=
  List.map_congr_left (fun i hi => h i (List.mem_range.mp hi))

/-- A function of each element. -/
theorem map_elemsOf {α : Type} (f : Nat → α) (w n : Nat) (v : VReg) :
    (elemsOf w n v).map f = (List.range n).map (fun i => f (v.toNat / 2 ^ (w * i) % 2 ^ w)) := List.map_map

/-- Element n of a register under VTYPE (R139, R140). -/
def State.elem (s : State) (r : Reg) (n : Nat) : Nat := (s.v r).toNat / 2 ^ (fmtWidth s.vt * n) % 2 ^ fmtWidth s.vt

theorem getD_elems (s : State) (r : Reg) {n : Nat} (hn : n < 64) : (elemsOf (fmtWidth s.vt) 64 (s.v r)).getD n 0 = s.elem r n :=
  getD_elemsOf _ _ hn

end Sys2Proof.Machine
end

section
/-! PROOFS. O18: the floating words by lanes (R142). -/

namespace Sys2Proof.Machine

/-- The lanes of a VF word. -/
def State.vfLanes (s : State) (op : VfOp) (d a b : Reg) : List (Nat × BitVec 6) :=
  (List.range 64).map (fun n => vfLane op s.vt s.mode (s.laneRnd n) (s.elem a n) (s.elem b n) (s.elem d n))

/-- Where VTYPE is not 10 a VF word writes its lanes. -/
theorem vfRes_done (op : VfOp) (d a b : Reg) (s : State) (h : s.vt ≠ 10) :
    vfRes op d a b s = .done (s.setElems d (fmtWidth s.vt) (s.vfLanes op d a b) (op ≠ .max ∧ op ≠ .min) 4) 4 := by
  have hlanes := map_range_congr (n := 64)
    (f := fun n => vfLane op s.vt s.mode (s.laneRnd n) ((elemsOf (fmtWidth s.vt) 64 (s.v a)).getD n 0)
      ((elemsOf (fmtWidth s.vt) 64 (s.v b)).getD n 0) ((elemsOf (fmtWidth s.vt) 64 (s.v d)).getD n 0))
    (g := fun n => vfLane op s.vt s.mode (s.laneRnd n) (s.elem a n) (s.elem b n) (s.elem d n))
    (fun n hn => by simp only [getD_elems s _ hn])
  simp only [vfRes, h, if_false, hlanes, State.vfLanes]

theorem vfWord_goesTo {s : State} {i : Instr} {k : Ctl} {op : VfOp} {d a b : Reg} (hexec : exec i s = vfWord i k op d a b s)
    (ht : (s.operands i k).vt ≠ 10) (hregs : ∀ r ∈ [d, a, b], (s.operands i k).vok r = true) :
    goesTo s i k onlyX false ((s.operands i k).setElems d (fmtWidth (s.operands i k).vt) ((s.operands i k).vfLanes op d a b)
      (op ≠ .max ∧ op ≠ .min) 4) :=
  goesTo_of_done hexec hregs (vfRes_done op d a b _ ht) (.setElems _ _ _ _ _ _)

/-- Settles O18: each word writes its lanes, and a lane of each operation is the statement's. -/
theorem vectorFloat : Obligations.VectorFloat := by
  unfold Obligations.VectorFloat
  intro k d a b s
  exact ⟨fun ht hregs => vfWord_goesTo (op := .add) rfl ht hregs, fun ht hregs => vfWord_goesTo (op := .sub) rfl ht hregs,
    fun ht hregs => vfWord_goesTo (op := .mul) rfl ht hregs, fun ht hregs => vfWord_goesTo (op := .fma) rfl ht hregs,
    fun ht hregs => vfWord_goesTo (op := .fms) rfl ht hregs, fun ht hregs => vfWord_goesTo (op := .abd) rfl ht hregs,
    fun ht hregs => vfWord_goesTo (op := .max) rfl ht hregs, fun ht hregs => vfWord_goesTo (op := .min) rfl ht hregs⟩

end Sys2Proof.Machine
end

section
/-! PROOFS. O19: the integer lanes and the permutations (R143, R148). -/

namespace Sys2Proof.Machine

/-- Two registers combined lane by lane. -/
theorem lanes2_eq (f : BitVec 32 → BitVec 32 → BitVec 32) (a b : VReg) :
    lanes2 f a b = vregLanes (fun n => (f (BitVec.ofNat 32 (lane32 a n)) (BitVec.ofNat 32 (lane32 b n))).toNat) := by
  have hlane (v : VReg) (n : Nat) : BitVec.ofNat 32 (lane32 v n) = BitVec.ofNat 32 (v.toNat / 2 ^ (32 * n)) := by
    apply BitVec.eq_of_toNat_eq
    rw [BitVec.toNat_ofNat, BitVec.toNat_ofNat, lane32, Nat.mod_mod]
  simp only [lanes2, vregLanes, hlane]

/-- A VI word combines two registers lane by lane. -/
theorem viWord_completes {s : State} {i : Instr} {k : Ctl} {d a b : Reg} {n : Nat} (f : BitVec 32 → BitVec 32 → BitVec 32)
    (hexec : exec i s = viWord i k d a b n f s) :
    completesV s i k d [d, a, b] n (fun u => vregLanes (fun n =>
      (f (BitVec.ofNat 32 (lane32 (u.v a) n)) (BitVec.ofNat 32 (lane32 (u.v b) n))).toNat)) :=
  completesV_of_value hexec (fun _ => lanes2_eq f _ _)

/-- The lane that x[b] names (R148). -/
theorem bitsOf_lane (w : Word) : bitsOf w 5 0 = w.toNat % 64 := by simp [bitsOf]

/-- The bytes by which x[b] turns a register (R148). -/
theorem bitsOf_byte (w : Word) : bitsOf w 7 0 = w.toNat % 256 := by simp [bitsOf]

theorem vext_goesToX (k : Ctl) (d a b : Reg) (s : State) (hregs : ∀ r ∈ [a], (s.operands (.vext k d a b) k).vok r = true) :
    goesToX s (.vext k d a b) k onlyX (s.operands (.vext k d a b) k) d
      (BitVec.ofNat 64 (lane32 ((s.operands (.vext k d a b) k).v a) (((s.operands (.vext k d a b) k).x b).toNat % 64))) 2 := by
  rw [← bitsOf_lane]
  exact goesToX_of_done rfl hregs rfl

/-- Settles O19: each word is the write of one register, and each word of the tables is read field by field. -/
theorem vectorLanes : Obligations.VectorLanes := by
  unfold Obligations.VectorLanes
  refine ⟨fun k d a b s => ?_, fun k d a b s => ?_, fun k d a b => ?_, fun k d a => ?_⟩
  · exact ⟨viWord_completes (fun x y => x + y) rfl, viWord_completes (fun x y => x - y) rfl,
      viWord_completes (fun x y => x * y) rfl, viWord_completes (fun x y => x &&& y) rfl,
      viWord_completes (fun x y => x ||| y) rfl, viWord_completes (fun x y => x ^^^ y) rfl,
      viWord_completes (fun x y => x <<< (y.toNat % 32)) rfl, viWord_completes (fun x y => x >>> (y.toNat % 32)) rfl⟩
  · exact ⟨completesV_of_exec rfl, completesV_of_exec rfl, completesV_of_exec rfl, vext_goesToX k d a b s,
      completesV_of_value rfl (fun u => by simp only [bitsOf_lane]),
      completesV_of_value rfl (fun u => congrArg (fun n => (u.v a).rotateRight (8 * n)) (bitsOf_byte _)),
      completesV_of_exec rfl, completesV_of_exec rfl⟩
  · simp [decodeWord_frWord, decodeMajor, decodeVi, decodeVperm, frWord_minor, frWord_ctl, frWord_d, frWord_a, frWord_b,
      wellFormedOr, Instr.wellFormed]
  · simp [decodeWord_frWord, decodeMajor, decodeVperm, frWord_minor, frWord_low, frWord_ctl, frWord_d, frWord_a, wellFormedOr,
      Instr.wellFormed]

end Sys2Proof.Machine
end

section
/-! PROOFS. O20: the unary words by lanes, their ILLEGAL under VTYPE 10, and the table of special operands (R144, R387). -/

namespace Sys2Proof.Machine

/-! ### ILLEGAL at execution (R91, R387) -/

/-- A trap that reaches the handler leaves the vector registers when nothing was in flight. -/
theorem enterTrapPast_lines (s : State) (e : Exc) (after : Option (Word × Nat)) (hp : e.cause ≠ .prot) (hcan : s.canTrap)
    (hf : s.ctx.flight = []) : (s.enterTrapPast e after).ctx.lines = s.ctx.lines := by
  obtain ⟨hact, hvec⟩ := hcan
  obtain ⟨-, -, -, -, -, hv, -⟩ := faulting_keeps s e
  obtain ⟨q, hq⟩ := faulting_landsTo s e
  have hvector : (s.recorded e).ctx.csr.vector ≠ 0 := fun h => hvec (hv.symm.trans h)
  rw [enterTrapPast_vectors s e after hp hact, vectorTrap_ctx _ _ hvector]
  show (s.faulting e).ctx.lines = s.ctx.lines
  rw [hq]
  exact (landAll_none s hf).2

/-- So does a fault before a word's effect, which in a bundle is the bundle's to take. -/
theorem faultBefore_lines (s : State) (w : BitVec 32) (c : Cause) (addr : Word) (hcan : s.canTrap) (hc : c ≠ .prot)
    (hf : s.ctx.flight = []) : (s.faultBefore w c addr).ctx.lines = s.ctx.lines := by
  unfold State.faultBefore
  dsimp only
  split
  · rfl
  · exact enterTrapPast_lines _ _ _ hc hcan hf

/-- ILLEGAL is what an effect that is ILLEGAL gives, whether or not its registers lie in the register space (R61). -/
theorem inRange_illegal (s : State) (l : List Reg) : s.inRange l (.trap .illegal s.anyAddr) = .trap .illegal s.anyAddr :=
  ite_self _

/-- A word of strand X that is ILLEGAL at execution takes its fault and writes no vector register. -/
theorem illegal_of_trap {s : State} {i : Instr} {k : Ctl} {regs : List Reg} {res : State → Res}
    (hexec : exec i s = .next (s.issue i k onlyX false noCheck (fun u => u.inRange regs (res u))))
    (hres : res (s.operands i k) = .trap .illegal (s.operands i k).anyAddr) (hready : s.ready i k onlyX false) (hcan : s.canTrap)
    (hb : s.bundle = false) :
    ∃ t, exec i s = .next t ∧ ∃ addr, s.tookTrap t .illegal .x (s.addrOf .x) addr (BitVec.ofNat 32 (encodeWord i)) ∧
      (s.ctx.flight = [] → t.ctx.lines = s.ctx.lines) := by
  have hprot : Cause.illegal ≠ .prot := fun h => nomatch h
  have heff : (s.operands i k).inRange regs (res (s.operands i k)) = .trap .illegal (s.operands i k).anyAddr := by
    rw [hres, inRange_illegal]
  obtain ⟨htook, -⟩ :=
    issue_trap_faulted s i k onlyX false noCheck (fun u => u.inRange regs (res u)) .illegal _ hready rfl heff hb hcan hprot
  rw [ready_onlyX hready] at htook
  refine ⟨_, hexec, _, htook, fun hf => ?_⟩
  rw [issue_ready s i k onlyX false noCheck _ hready rfl, heff]
  exact faultBefore_lines _ _ .illegal _ hcan hprot hf

/-! ### Signs (R144) -/

theorem intLanes_eq (f : BitVec 32 → BitVec 32) (v : VReg) :
    intLanes f v = vregLanes (fun n => (f (BitVec.ofNat 32 (lane32 v n))).toNat) := lanes2_eq _ _ _

/-- The elements of a register through an exact function. -/
def State.exactLanes (s : State) (f : Sys2Proof.Num → Sys2Proof.Num) (a : Reg) : VReg :=
  vregOf (fmtWidth s.vt) ((List.range 64).map (fun n => signLane s.vt f (s.elem a n)))

theorem map_signLane (s : State) (f : Sys2Proof.Num → Sys2Proof.Num) (a : Reg) :
    vregOf (fmtWidth s.vt) ((elemsOf (fmtWidth s.vt) 64 (s.v a)).map (signLane s.vt f)) = s.exactLanes f a :=
  congrArg _ (map_elemsOf _ _ _ _)

theorem vsignWord_completes {s : State} {i : Instr} {k : Ctl} {d a : Reg} (f : Sys2Proof.Num → Sys2Proof.Num)
    (g : BitVec 32 → BitVec 32) (hexec : exec i s = vsignWord i k d a f g s) :
    completesV s i k d [d, a] 1 (fun u => if u.vt = 10 then vregLanes (fun n => (g (BitVec.ofNat 32 (lane32 (u.v a) n))).toNat)
      else u.exactLanes f a) :=
  completesV_of_value hexec (fun u => by simp only [intLanes_eq, map_signLane])

/-- VFLR where VTYPE is not 10. -/
theorem vflr_completes (k : Ctl) (d a : Reg) (s : State) (ht : (s.operands (.vflr k d a) k).vt ≠ 10) :
    completesV s (.vflr k d a) k d [d, a] 4 (fun u => u.exactLanes floorNum a) :=
  completesV_of_done rfl ((if_neg ht).trans (congrArg (fun w => Res.done (State.setV _ d w 4) 4) (map_signLane _ _ _)))

/-! ### Functions that round (R144) -/

/-- The lanes of a VU word that rounds. -/
def State.vuLanes (s : State) (f : Sys2Proof.Num → NumFlag) (a : Reg) : List (Nat × BitVec 6) :=
  (List.range 64).map (fun n =>
    let e := f (decodeFmt s.vt (s.elem a n)).1
    let o := roundFmt s.vt e.1 s.mode false (s.laneRnd n)
    (o.1, o.2 ||| e.2))

/-- Some lane of a VU word is none of the special operands. -/
def State.vuRounds (s : State) (negative : Bool) (a : Reg) : Bool :=
  (List.range 64).any (fun n => roundedOperand (decodeFmt s.vt (s.elem a n)).1 negative)

/-- The values that a VU word reads. -/
def State.vuValues (s : State) (a : Reg) : List Sys2Proof.Num :=
  (elemsOf (fmtWidth s.vt) 64 (s.v a)).map (fun e => (decodeFmt s.vt e).1)

theorem vuValues_eq (s : State) (a : Reg) : s.vuValues a = (List.range 64).map (fun n => (decodeFmt s.vt (s.elem a n)).1) :=
  map_elemsOf _ _ _ _

theorem map_vuValues (s : State) (f : Sys2Proof.Num → NumFlag) (a : Reg) :
    (List.range 64).map (fun n =>
      let e := f ((s.vuValues a).getD n .nan)
      let o := roundFmt s.vt e.1 s.mode false (s.laneRnd n)
      (o.1, o.2 ||| e.2)) = s.vuLanes f a :=
  map_range_congr (fun n hn => by rw [vuValues_eq, getD_map_range _ _ hn])

theorem any_vuValues (s : State) (negative : Bool) (a : Reg) :
    (s.vuValues a).any (fun x => roundedOperand x negative) = s.vuRounds negative a := by
  rw [vuValues_eq, List.any_map]
  rfl

section
variable {s : State} {i : Instr} {k : Ctl} {d a : Reg} {f : Sys2Proof.Num → NumFlag} {negative : Bool}

/-- Where VTYPE is not 10 a VU word that rounds writes its lanes. -/
theorem vuWord_goesTo (hexec : exec i s = vuWord i k d a f negative s) (ht : (s.operands i k).vt ≠ 10)
    (hregs : ∀ r ∈ [d, a], (s.operands i k).vok r = true) :
    goesTo s i k onlyX false ((s.operands i k).setElems d (fmtWidth (s.operands i k).vt) ((s.operands i k).vuLanes f a)
      ((s.operands i k).vuRounds negative a) 8) := by
  rw [← map_vuValues, ← any_vuValues]
  exact goesTo_of_done hexec hregs (if_neg ht) (.setElems _ _ _ _ _ _)

theorem vuWord_illegal (hexec : exec i s = vuWord i k d a f negative s) (hready : s.ready i k onlyX false)
    (ht : (s.operands i k).vt = 10) (hcan : s.canTrap) (hb : s.bundle = false) :
    ∃ t, exec i s = .next t ∧ ∃ addr, s.tookTrap t .illegal .x (s.addrOf .x) addr (BitVec.ofNat 32 (encodeWord i)) ∧
      (s.ctx.flight = [] → t.ctx.lines = s.ctx.lines) :=
  illegal_of_trap hexec (if_pos ht) hready hcan hb

end

/-! ### Operands below zero (R144) -/

theorem rsqNum_negative (m : Nat) (x : Int) (st : Bool) (hm : m ≠ 0) : rsqNum (.fin true m x st) = (.nan, fNV) := by
  obtain ⟨n, rfl⟩ := Nat.exists_eq_succ_of_ne_zero hm
  rfl

theorem lg2Num_negative (m : Nat) (x : Int) (st : Bool) (hm : m ≠ 0) : lg2Num (.fin true m x st) = (.nan, fNV) := by
  obtain ⟨n, rfl⟩ := Nat.exists_eq_succ_of_ne_zero hm
  rfl

/-- Settles O20: the words by their lanes and by their fault; the table of special operands is a closed one, of three formats. -/
theorem vectorUnary : Obligations.VectorUnary := by
  unfold Obligations.VectorUnary
  refine ⟨fun k d a s => ?words, ?table, fun m x st hm => ⟨rsqNum_negative m x st hm, lg2Num_negative m x st hm⟩⟩
  case words =>
    refine ⟨vsignWord_completes Sys2Proof.Num.neg (fun x => -x) rfl,
      vsignWord_completes Sys2Proof.Num.abs (fun x => if x.toInt < 0 then -x else x) rfl, completesV_of_exec rfl,
      vflr_completes k d a s, vuWord_goesTo (f := rcpNum) (negative := true) rfl, vuWord_goesTo (f := rsqNum) (negative := false) rfl,
      vuWord_goesTo (f := ex2Num) (negative := true) rfl, vuWord_goesTo (f := lg2Num) (negative := false) rfl,
      fun i hi hready ht hcan hb => ?_⟩
    rcases hi with rfl | rfl | rfl | rfl | rfl
    · exact vuWord_illegal (f := rcpNum) (negative := true) rfl hready ht hcan hb
    · exact vuWord_illegal (f := rsqNum) (negative := false) rfl hready ht hcan hb
    · exact vuWord_illegal (f := ex2Num) (negative := true) rfl hready ht hcan hb
    · exact vuWord_illegal (f := lg2Num) (negative := false) rfl hready ht hcan hb
    · exact illegal_of_trap rfl (if_pos ht) hready hcan hb
  case table => decide

end Sys2Proof.Machine
end

section
/-! PROOFS. O21: conversions by lanes, and compares by the bits of a predicate (R145 to R147). -/

namespace Sys2Proof.Machine

/-! ### Flags that no element has (R38) -/

theorem foldl_or_and (m : BitVec 6) (l : List (Nat × BitVec 6)) (f : BitVec 6) (hf : f &&& m = 0) (hl : ∀ e ∈ l, e.2 &&& m = 0) :
    l.foldl (fun f e => f ||| e.2) f &&& m = 0 := by
  induction l generalizing f with
  | nil => exact hf
  | cons e l ih =>
    obtain ⟨he, hl⟩ := List.forall_mem_cons.mp hl
    exact ih _ (by rw [BitVec.and_or_distrib_right, hf, he, BitVec.or_self]) hl

/-- A flag that no element has is none of the word. -/
theorem flagsOf_and (m : BitVec 6) (l : List (Nat × BitVec 6)) (hl : ∀ e ∈ l, e.2 &&& m = 0) : flagsOf l &&& m = 0 :=
  foldl_or_and m l 0 BitVec.zero_and hl

/-! ### VCVT (R145, R146) -/

/-- The number of elements that VCVT converts. -/
def cvtCount (dst src : BitVec 4) : Nat := if dst = 11 ∨ src = 11 then 32 else 64

theorem cvtCount_eq (dst src : BitVec 4) : (if dst.toNat = 11 ∨ src.toNat = 11 then 32 else 64) = cvtCount dst src := by
  simp only [cvtCount, BitVec.toNat_eq]
  rfl

/-- The elements that VCVT writes. -/
def State.cvtLanes (s : State) (a : Reg) (dst src : BitVec 4) (sat : Bool) : List (Nat × BitVec 6) :=
  (List.range (cvtCount dst src)).map (fun j => cvtLane dst.toNat src.toNat s.mode sat (s.laneRnd j)
    ((s.v a).toNat / 2 ^ (fmtWidth src.toNat * j) % 2 ^ fmtWidth src.toNat))

theorem map_cvtLane (s : State) (a : Reg) (dst src : BitVec 4) (sat : Bool) :
    (List.range (cvtCount dst src)).map (fun j => cvtLane dst.toNat src.toNat s.mode sat (s.laneRnd j)
      ((elemsOf (fmtWidth src.toNat) (cvtCount dst src) (s.v a)).getD j 0)) = s.cvtLanes a dst src sat :=
  map_range_congr (fun j hj => by rw [getD_elemsOf _ _ hj])

/-- VCVT goes on to its elements where no scale was invalid. -/
theorem vcvt_goesTo (k : Ctl) (d a : Reg) (dst src : BitVec 4) (sat : Bool) (s u : State)
    (hu : s.operands (.vcvt k d a dst src sat) k = u) (hregs : ∀ r ∈ [d, a], u.vok r = true)
    (hscale : ∀ e ∈ u.cvtLanes a dst src sat, e.2 &&& fSINV = 0) :
    goesTo s (.vcvt k d a dst src sat) k onlyX false
      (u.setElems d (fmtWidth dst.toNat) (u.cvtLanes a dst src sat) (cvtSteps dst.toNat src.toNat) 3) := by
  subst hu
  have hflags := flagsOf_and fSINV _ hscale
  refine goesTo_of_done (n := 3) rfl hregs ?_ (.setElems _ _ _ _ _ _)
  simp only [cvtCount_eq, map_cvtLane, hflags, ne_eq, not_true_eq_false, if_false]

/-! ### VCMP (R147) -/

/-- Bit i of a word of bits. -/
theorem testBit_foldr_bits (l : List Bool) (i : Nat) :
    (l.foldr (fun (b : Bool) n => (if b then 1 else 0) + 2 * n) 0).testBit i = l.getD i false := by
  induction l generalizing i with
  | nil => exact Nat.zero_testBit i
  | cons b l ih =>
    rw [List.foldr_cons]
    cases i with
    | zero => cases b <;> simp [Nat.testBit_zero]
    | succ i =>
      have hhalf : ((if b then 1 else 0) + 2 * l.foldr (fun (b : Bool) n => (if b then 1 else 0) + 2 * n) 0) / 2 =
          l.foldr (fun (b : Bool) n => (if b then 1 else 0) + 2 * n) 0 := by
        split <;> omega
      rw [Nat.testBit_succ, hhalf, ih]
      rfl

theorem getLsbD_wordOfBits (l : List Bool) (i : Nat) (hi : i < 64) : (wordOfBits l).getLsbD i = l.getD i false := by
  rw [wordOfBits, BitVec.getLsbD_ofNat, testBit_foldr_bits, decide_eq_true hi, Bool.true_and]

/-- The predicate that VCMP writes. -/
def State.cmpWord (s : State) (a b : Reg) (c : BitVec 3) : Word :=
  let va := elemsOf (fmtWidth s.vt) 64 (s.v a)
  let vb := elemsOf (fmtWidth s.vt) 64 (s.v b)
  wordOfBits ((List.range 64).map (fun n =>
    vcond c.toNat (decodeFmt s.vt (va.getD n 0)).1 (decodeFmt s.vt (vb.getD n 0)).1))

/-- Bit n of it is the condition on element n. -/
theorem getLsbD_cmpWord (s : State) (a b : Reg) (c : BitVec 3) (n : Nat) (hn : n < 64) :
    (s.cmpWord a b c).getLsbD n = vcond c.toNat (decodeFmt s.vt (s.elem a n)).1 (decodeFmt s.vt (s.elem b n)).1 := by
  rw [State.cmpWord, getLsbD_wordOfBits _ n hn, getD_map_range _ _ hn, getD_elems s a hn, getD_elems s b hn]

theorem vcmp_goesTo (k : Ctl) (p : BitVec 3) (a b : Reg) (c : BitVec 3) (s u : State) (hu : s.operands (.vcmp k p a b c) k = u)
    (hregs : ∀ r ∈ [a, b], u.vok r = true) :
    goesTo s (.vcmp k p a b c) k onlyX false (u.setVp p.toNat (u.cmpWord a b c) 2) := by
  subst hu
  exact goesTo_of_done rfl hregs rfl (.setVp _ _ _ _)

/-- Settles O21: VCVT by its elements, VCMP by the bits of its predicate. -/
theorem convertAndCompare : Obligations.ConvertAndCompare := by
  unfold Obligations.ConvertAndCompare
  exact fun k d a b dst src sat p c s => ⟨fun hregs hscale => vcvt_goesTo k d a dst src sat s _ rfl hregs hscale,
    fun hregs => ⟨_, vcmp_goesTo k p a b c s _ rfl hregs, fun n hn => getLsbD_cmpWord _ a b c n hn⟩⟩

end Sys2Proof.Machine
end

section
/-! PROOFS. O22: the reductions by their leaves (R149). -/

namespace Sys2Proof.Machine

/-- A VRED word writes the result of its tree to element 0. -/
theorem vredWord_goesTo {s : State} {i : Instr} {k : Ctl} {d : Reg} {regs : List Reg} {rounds : Bool} {f : State → List Nat × BitVec 6}
    (r : List Nat × BitVec 6) (hexec : exec i s = vredWord i k d regs rounds f s) (hr : f (s.operands i k) = r)
    (hregs : ∀ r ∈ regs, (s.operands i k).vok r = true) :
    goesTo s i k onlyX false
      ((((s.operands i k).setV d (vregOf (fmtWidth (s.operands i k).vt) (r.1.take 1)) 6).raiseIn r.2 6).vsteps
        (rounds && !((s.operands i k).vt == 10))) := by
  subst hr
  exact goesTo_of_done hexec hregs rfl (.setRounded _ _ _ _ _ _)

theorem getD_leaves (s : State) (a : Reg) {n : Nat} (hn : n < 64) : (s.leaves a).getD n 0 = s.elem a n := getD_elems s a hn

/-- Leaves of two registers combined are their elements combined. -/
theorem map_leaves_pair {α : Type} (s : State) (a b : Reg) (f : Nat → Nat → α) :
    (List.range 64).map (fun n => f ((s.leaves a).getD n 0) ((s.leaves b).getD n 0)) =
      (List.range 64).map (fun n => f (s.elem a n) (s.elem b n)) :=
  map_range_congr (fun n hn => by rw [getD_leaves s a hn, getD_leaves s b hn])

/-- Settles O22: each word by its tree; VDOT's leaves are read element by element. -/
theorem vectorReduce : Obligations.VectorReduce := by
  unfold Obligations.VectorReduce
  intro k d a b s
  refine ⟨fun hregs => vredWord_goesTo (rounds := true) _ rfl rfl hregs,
    fun hregs => vredWord_goesTo (rounds := true) _ rfl (ite_congr rfl (fun _ => ?wrapped) (fun _ => ?products)) hregs,
    fun hregs => vredWord_goesTo (rounds := false) _ rfl rfl hregs, fun hregs => vredWord_goesTo (rounds := false) _ rfl rfl hregs,
    fun hregs => vredWord_goesTo (rounds := false) _ rfl rfl hregs⟩
  case wrapped => exact congrArg (fun l => ([wrapSum l], 0)) (map_leaves_pair _ a b (fun x y => x * y % 2 ^ 32))
  case products =>
    exact congrArg (State.sumTree _)
      (map_leaves_pair _ a b (fun x y => Sys2Proof.Num.mul (decodeFmt _ x).1 (decodeFmt _ y).1))

end Sys2Proof.Machine
end

section
/-! PROOFS. O23: the scaled words under a bound and usable record (R151 to R157). -/

namespace Sys2Proof.Machine

/-! ### Effects on a state that has read its record -/

theorem Steady.setVersel (s : State) (ver : BitVec 16) (n : Nat) : Steady s (s.setVersel ver n) := ⟨rfl, rfl, fun _ => rfl, rfl⟩

theorem Steady.sendContrib (s : State) (c : Contrib) : Steady s (s.sendContrib c) := .of_ctx rfl

theorem Steady.touchRecord (s : State) (pa : Nat) : Steady s (s.touchRecord pa) := .of_ctx rfl

/-- A VSCL word whose handle names a record goes on to its effect on that record, when that is done and steady (R151). -/
theorem vsclWord_goesTo {s : State} {i : Instr} {k : Ctl} {h : BitVec 5} {regs : List Reg} {eff : Nat → List Word → State → Res}
    {pa n : Nat} {r : List Word} {e : State} (hexec : exec i s = vsclWord i k h regs eff s)
    (hfound : (∀ v ∈ regs, (s.operands i k).vok v = true) ∧ (s.operands i k).resolveHandle h.toNat = some (pa, r))
    (heff : eff pa r ((s.operands i k).touchRecord pa) = .done e n) (hsteady : Steady ((s.operands i k).touchRecord pa) e) :
    goesTo s i k onlyX false e := by
  obtain ⟨hregs, hrecord⟩ := hfound
  refine goesTo_of_done (n := n) hexec hregs ?_ ((Steady.touchRecord _ pa).trans hsteady)
  simp only [hrecord, heff]

/-! ### Quantising stores (R152, R157) -/

theorem setVersel_id (s : State) (ver : BitVec 16) (n : Nat) : (s.setVersel ver n).ctx.id = s.ctx.id := rfl

theorem setVersel_policy (s : State) (ver : BitVec 16) (n : Nat) : (s.setVersel ver n).policy = s.policy := rfl

theorem vsteps_policy (s : State) (rounded : Bool) : (s.vsteps rounded).policy = s.policy := by
  unfold State.vsteps
  split <;> rfl

/-- The result, the flags, the generator's steps and VERSEL of a quantising store. -/
def State.storeElems (u : State) (d : Reg) (ent : ScaleEnt) (q : Quant) (flags : BitVec 6) : State :=
  (((u.setV d (q.reg ent.fmt.toNat) 6).raiseIn (q.flags ||| flags) 6).vsteps (takesStep ent.fmt.toNat)).setVersel ent.ver 6

section
variable (u : State) (d : Reg) (ent : ScaleEnt) (q : Quant) (flags : BitVec 6)

theorem Steady.storeElems : Steady u (u.storeElems d ent q flags) := (Steady.setRounded _ _ _ _ _ _).trans (.setVersel _ _ _)

theorem storeElems_id : (u.storeElems d ent q flags).ctx.id = u.ctx.id := by
  rw [State.storeElems, setVersel_id, State.vsteps_ctx, State.raiseIn_frame]
  rfl

theorem storeElems_policy : (u.storeElems d ent q flags).policy = u.policy := by
  rw [State.storeElems, setVersel_policy, vsteps_policy, State.raiseIn_frame]
  rfl

end

/-- The saturations tolerated are those of the record's policy (R233). -/
theorem tolerance_congr {s t : State} (h : t.policy = s.policy) (r : List Word) : t.tolerance r = s.tolerance r := by
  have hentry : t.policyOf (recPolicy r) = s.policyOf (recPolicy r) := congrArg (fun m => SMap.get 0 m _) h
  rw [State.tolerance, State.tolerance, hentry]

/-- A store that saturates no more than is tolerated, and met no invalid scale, leaves its elements and sends its counts. -/
theorem storeQuant_done (d : Reg) (pa : Nat) (r : List Word) (xs : List Sys2Proof.Num) (flags : BitVec 6) (u : State)
    (hsat : ∀ n, u.tolerance r = some n → (u.quantWord (recCur r) xs).sat ≤ n) (hscale : flags &&& fSINV = 0) :
    storeQuant d pa r xs flags u = .done ((u.storeElems d (recCur r) (u.quantWord (recCur r) xs) flags).sendContrib
      ((u.quantWord (recCur r) xs).contrib u.ctx.id pa)) 6 := by
  let q := u.quantWord (recCur r) xs
  let e := u.storeElems d (recCur r) q flags
  have htol : (e.sendContrib (q.contrib e.ctx.id pa)).tolerance r = u.tolerance r := tolerance_congr (storeElems_policy u d _ q flags) r
  have hdone : storeQuant d pa r xs flags u = .done (e.sendContrib (q.contrib e.ctx.id pa)) 6 := by
    show (match (e.sendContrib (q.contrib e.ctx.id pa)).tolerance r with | some t => _ | none => _) = _
    rw [htol]
    cases h : u.tolerance r with
    | none => exact if_neg (not_not_intro hscale)
    | some n => exact (if_neg (Nat.not_lt.mpr (hsat n h))).trans (if_neg (not_not_intro hscale))
  rw [hdone, storeElems_id]

/-- The elements that VDQ writes. -/
def State.dqLanes (u : State) (a : Reg) (ent : ScaleEnt) : List (Nat × BitVec 6) :=
  (List.range 64).map (fun n =>
    let x := (scaledElems ent.fmt.toNat (u.v a)).getD n (.nan, 0)
    let o := roundFmt 0 (x.1.scale ent.e) u.mode false (u.laneRnd n)
    (o.1, o.2 ||| x.2))

section
variable (k : Ctl) (d a : Reg) (h : BitVec 5) (s : State) (pa : Nat) (r : List Word)

/-- A VSCL word that is a quantising store goes on to what it stores. -/
theorem storeWord_goesTo {i : Instr} {eff : Nat → List Word → State → Res} (xs : List Sys2Proof.Num) (flags : BitVec 6) (u : State)
    (hu : (s.operands i k).touchRecord pa = u) (hexec : exec i s = vsclWord i k h [d, a] eff s)
    (heff : eff pa r u = storeQuant d pa r xs flags u)
    (hfound : (∀ v ∈ [d, a], (s.operands i k).vok v = true) ∧ (s.operands i k).resolveHandle h.toNat = some (pa, r))
    (hsat : ∀ n, u.tolerance r = some n → (u.quantWord (recCur r) xs).sat ≤ n) (hscale : flags &&& fSINV = 0) :
    goesTo s i k onlyX false ((u.storeElems d (recCur r) (u.quantWord (recCur r) xs) flags).sendContrib
      ((u.quantWord (recCur r) xs).contrib u.ctx.id pa)) := by
  subst hu
  exact vsclWord_goesTo hexec hfound (heff.trans (storeQuant_done d pa r xs flags _ hsat hscale))
    ((Steady.storeElems _ _ _ _ _).trans (.sendContrib _ _))

/-- The effect of VQNT. -/
def vqntRes (u : State) : Res := storeQuant d pa r (fp32Elems (u.v a)) 0 u

theorem exec_vqnt : exec (.vqnt k d a h) s = vsclWord (.vqnt k d a h) k h [d, a] (vqntRes d a) s := rfl

/-- The effect of VSCX. -/
def vscxRes (u : State) : Res :=
  match recVersion r u.versel with
  | none => .trap .postmarkStale (u.versel.setWidth 64)
  | some old =>
    if old.admitted = false then .trap .illegal u.anyAddr
    else storeQuant d pa r ((scaledElems old.fmt.toNat (u.v a)).map (fun x => x.1.scale old.e))
      ((scaledElems old.fmt.toNat (u.v a)).foldl (fun f x => f ||| x.2) 0) u

theorem exec_vscx : exec (.vscx k d a h) s = vsclWord (.vscx k d a h) k h [d, a] (vscxRes d a) s := rfl

/-- When VERSEL names an entry of an admitted format, VSCX is a quantising store of what it decodes under that entry (R151, R157). -/
theorem vscxRes_stores {u : State} {old : ScaleEnt} (hver : recVersion r u.versel = some old) (hadm : old.admitted = true) :
    vscxRes d a pa r u = storeQuant d pa r ((scaledElems old.fmt.toNat (u.v a)).map (fun x => x.1.scale old.e))
      ((scaledElems old.fmt.toNat (u.v a)).foldl (fun f x => f ||| x.2) 0) u := by
  simp only [vscxRes, hver, hadm, Bool.true_eq_false, if_false]

/-! ### VHIST and VDQ (R155, R156) -/

/-- The effect of VHIST. -/
def vhistRes (u : State) : Res :=
  let e := u.vsteps (takesStep (recCur r).fmt.toNat)
  .done (e.sendContrib ((u.quantWord (recCur r) (fp32Elems (u.v a))).contrib e.ctx.id pa)) 6

theorem exec_vhist : exec (.vhist k a h) s = vsclWord (.vhist k a h) k h [a] (vhistRes a) s := rfl

/-- VHIST sends the counts of the store that it does not make (R156). -/
theorem vhistRes_done (u : State) : vhistRes a pa r u = .done ((u.vsteps (takesStep (recCur r).fmt.toNat)).sendContrib
    ((u.quantWord (recCur r) (fp32Elems (u.v a))).contrib u.ctx.id pa)) 6 := by
  simp only [vhistRes, State.vsteps_ctx]

/-- The effect of VDQ. -/
def vdqRes (u : State) : Res :=
  match recVersion r u.versel with
  | none => .trap .postmarkStale (u.versel.setWidth 64)
  | some ent =>
    if ent.admitted = false then .trap .illegal u.anyAddr
    else if flagsOf (u.dqLanes a ent) &&& fSINV ≠ 0 then .after (u.setElems d 32 (u.dqLanes a ent) true 6) .scaleInv 0
    else .done (u.setElems d 32 (u.dqLanes a ent) true 6) 6

theorem exec_vdq : exec (.vdq k d a h) s = vsclWord (.vdq k d a h) k h [d, a] (fun _ => vdqRes d a) s := rfl

/-- VDQ writes its elements when VERSEL names an entry of an admitted format and no scale was invalid (R151, R155). -/
theorem vdqRes_done {u : State} {ent : ScaleEnt} (hver : recVersion r u.versel = some ent) (hadm : ent.admitted = true)
    (hscale : ∀ e ∈ u.dqLanes a ent, e.2 &&& fSINV = 0) :
    vdqRes d a r u = .done (u.setElems d 32 (u.dqLanes a ent) true 6) 6 := by
  simp only [vdqRes, hver, hadm, Bool.true_eq_false, flagsOf_and fSINV _ hscale, ne_eq, not_true_eq_false, if_false]

end

/-- Settles O23: VQNT and VSCX by what they store, VHIST by what it sends, VDQ by its elements. -/
theorem scaledVectors : Obligations.ScaledVectors := by
  unfold Obligations.ScaledVectors
  intro k d a h s pa r
  refine ⟨fun hfound hsat => ?vqnt, fun hfound => ?vhist, fun old hver hadm hfound hsat hscale => ?vscx,
    fun ent hver hadm hfound hscale => ?vdq, fun u c => ⟨u.fresh, rfl, rfl⟩⟩
  case vqnt => exact storeWord_goesTo k d a h s pa r _ 0 _ rfl (exec_vqnt k d a h s) rfl hfound hsat BitVec.zero_and
  case vhist =>
    exact vsclWord_goesTo (exec_vhist k a h s) hfound (vhistRes_done a pa r _) ((Steady.vsteps _ _).trans (.sendContrib _ _))
  case vscx =>
    exact storeWord_goesTo k d a h s pa r _ _ _ rfl (exec_vscx k d a h s) (vscxRes_stores d a pa r hver hadm) hfound hsat hscale
  case vdq => exact vsclWord_goesTo (exec_vdq k d a h s) hfound (vdqRes_done d a r hver hadm hscale) (.setElems _ _ _ _ _ _)

end Sys2Proof.Machine
end

section
/-! PROOFS. What the memory side of the machine leaves: a release changes memory, caches, links and the plate, and nothing else
(R119, R245, R298). -/

namespace Sys2Proof.Machine

/-- Nothing has changed but memory with its records, the regions' pushes, caches, links and the plate in focus. -/
def MemorySide (s t : State) : Prop :=
  t = { s with plate := t.plate, dies := t.dies, mem := t.mem, poison := t.poison, bad := t.bad, soft := t.soft,
               writers := t.writers, regions := t.regions, net := t.net }

theorem MemorySide.refl (s : State) : MemorySide s s := rfl

theorem MemorySide.trans {s t u : State} (h : MemorySide s t) (g : MemorySide t u) : MemorySide s u :=
  Eq.trans g (congrArg (fun z : State => { z with
    plate := u.plate, dies := u.dies, mem := u.mem, poison := u.poison, bad := u.bad, soft := u.soft, writers := u.writers,
    regions := u.regions, net := u.net }) h)

theorem MemorySide.foldl {α : Type} (f : State → α → State) (h : ∀ s a, MemorySide s (f s a)) (l : List α) (s : State) :
    MemorySide s (l.foldl f s) := by
  induction l generalizing s with
  | nil => exact .refl s
  | cons a l ih => exact (h s a).trans (ih _)

theorem MemorySide.ite {s t u : State} {c : Prop} [Decidable c] (h : MemorySide s t) (g : MemorySide s u) :
    MemorySide s (if c then t else u) := by
  split
  · exact h
  · exact g

theorem MemorySide.mdie (s : State) (d : Nat) (f : Die → Die) : MemorySide s (s.mdie d f) := rfl
theorem MemorySide.mem (s : State) (m : SMap Byte) : MemorySide s { s with mem := m } := rfl
theorem MemorySide.poison (s : State) (m : SMap Bool) : MemorySide s { s with poison := m } := rfl
theorem MemorySide.mplate (s : State) (f : Plate → Plate) : MemorySide s (s.mplate f) := rfl
theorem MemorySide.send (s : State) (a b : Nat) (m : Msg) : MemorySide s (s.send a b m) := rfl
theorem MemorySide.rawMask (s : State) (line : Nat) (data : Line) (mask : BitVec 128) : MemorySide s (s.rawMask line data mask) :=
  .mem s _
theorem MemorySide.rawBytes (s : State) (pa : Nat) (bs : List Byte) : MemorySide s (s.rawBytes pa bs) := rfl
theorem MemorySide.clearWriters (s : State) (pa n : Nat) : MemorySide s (s.clearWriters pa n) := rfl
theorem MemorySide.noteDirty (s : State) (line : Nat) (mask : BitVec 128) : MemorySide s (s.noteDirty line mask) := rfl
theorem MemorySide.markPoison (s : State) (line : Nat) (mask : BitVec 128) (q : BitVec 2) :
    MemorySide s (s.markPoison line mask q) := .poison s _

/-! ### Writes at the coherent point (R290, R292, R298) -/

theorem MemorySide.homeByte (s : State) (p r pa : Nat) (b : Byte) : MemorySide s (s.homeByte p r pa b) :=
  .ite (.refl s) rfl

theorem MemorySide.homeMask (p r line : Nat) (data : Line) (mask : BitVec 128) (is : List Nat) (s : State) :
    MemorySide s (s.homeMask p r line data mask is) := by
  induction is generalizing s with
  | nil => exact .refl s
  | cons i is ih =>
    unfold State.homeMask
    split
    · exact (homeByte s _ _ _ _).trans (ih _)
    · exact ih _

theorem MemorySide.notePush (s : State) (r line : Nat) : MemorySide s (s.notePush r line) := by
  unfold State.notePush
  exact .ite rfl (.refl s)

theorem MemorySide.invSharers (s : State) (line : Nat) : MemorySide s (s.invSharers line) :=
  .ite (.refl s) (trans (foldl _ (fun t _ => .ite (send t _ _ _) (.refl t)) _ s) (mdie _ _ _))

theorem MemorySide.mergeWr (s : State) (line : Nat) (data : Line) (mask : BitVec 128) (q : BitVec 2) (p r : Nat) :
    MemorySide s (s.mergeWr line data mask q p r) := by
  have hbytes := MemorySide.ite (c := p < 512) (homeMask p r line data mask (List.range 128) s)
    ((rawMask s line data mask).trans (foldl (fun t i => if mask.getLsbD i then t.clearWriters (line * 128 + i) 1 else t)
      (fun t i => .ite (clearWriters t _ _) (.refl t)) (List.range 128) _))
  exact (((hbytes.trans (markPoison _ line mask q)).trans (notePush _ _ _)).trans (noteDirty _ _ _)).trans (invSharers _ _)

theorem MemorySide.homeLine (s : State) (d p r line : Nat) (data : Line) (mask : BitVec 128) (q : BitVec 2) :
    MemorySide s (s.homeLine d p r line data mask q) := .ite (mergeWr _ _ _ _ _ _ _) (send _ _ _ _)

/-! ### The L2 (R245, R294, R297) -/

theorem MemorySide.l2Out (s : State) (d : Nat) (e : L2Line) : MemorySide s (s.l2Out d e) :=
  .ite (rawMask _ _ _ _) (.ite (invSharers _ _) (.refl s))

theorem MemorySide.l2Insert (s : State) (d : Nat) (e : L2Line) : MemorySide s ((s.l2Insert d e).getD s) := by
  unfold State.l2Insert
  split
  · exact .refl s
  · simp only [Option.getD_some]
    split
    · exact (mdie _ _ _).trans (l2Out _ _ _)
    · exact mdie _ _ _

theorem MemorySide.l2Touch (s : State) (d line rh : Nat) (swm : Bool) (r : Nat) : MemorySide s (s.l2Touch d line rh swm r) := by
  unfold State.l2Touch
  simp only []
  split
  · exact mdie _ _ _
  · exact (mdie _ _ _).trans (.ite (.ite (.refl _) (l2Insert _ _ _)) (.ite (.refl _) (send _ _ _ _)))

theorem MemorySide.l2Merge (s : State) (d line r : Nat) (data : Line) (mask : BitVec 128) (tags : List (Nat × Nat × Nat)) :
    MemorySide s (s.l2Merge d line r data mask tags) :=
  trans (.ite (.refl s) (l2Insert _ _ _)) (.ite (mdie _ _ _) (rawMask _ _ _ _))

/-! ### Requests performed at the home (R137, R298, R300) -/

theorem MemorySide.bankStep (s : State) (pa n r : Nat) (f : Nat → Nat) : MemorySide s (s.bankStep pa n r f).1 :=
  ((((MemorySide.ite (.refl s) ((l2Touch _ _ _ _ _ _).trans (invSharers _ _))).trans (rawBytes _ _ _)).trans (clearWriters _ _ _)).trans
    (notePush _ _ _)).trans (noteDirty _ _ _)

theorem MemorySide.atomStep (s : State) (pa op r : Nat) (a e : Word) : MemorySide s (s.atomStep pa op r a e).1 := by
  unfold State.atomStep State.barrierAdd
  simp only []
  split
  · exact (bankStep _ _ _ _ _).trans (.ite (rawBytes _ _ _) (.refl _))
  · exact bankStep _ _ _ _ _

theorem MemorySide.perform (s : State) (m : Msg) : MemorySide s (s.perform m).1 := by
  unfold State.perform
  split
  · exact mergeWr _ _ _ _ _ _ _
  · exact atomStep _ _ _ _ _ _
  · exact .refl s

theorem MemorySide.restate (s : State) (a b : Nat) (m n : Msg) : MemorySide s (s.restate a b m n) := rfl

theorem MemorySide.settle (s : State) (d : Nat) (pick : Nat → Bool) : MemorySide s (s.settle d pick) :=
  foldl _ (fun _ _ => foldl _ (fun u m => (perform u m).trans (restate _ _ _ _ _)) _ _) _ _

/-! ### Write-back and release (R119, R245) -/

theorem MemorySide.writeBack (s : State) (p : Nat) (l : L1Line) : MemorySide s (s.writeBack p l) :=
  .ite (.refl s) (.ite ((l2Merge _ _ _ _ _ _ _).trans (markPoison _ _ _ _)) (foldl _ (fun _ _ => homeLine _ _ _ _ _ _ _ _) _ _))

theorem MemorySide.wbLines (set : RelSet) (l : List L1Line) (s : State) : MemorySide s (s.wbLines set l) := by
  induction l generalizing s with
  | nil => exact .refl s
  | cons a l ih => exact trans (.ite ((writeBack _ _ _).trans (mplate _ _)) (.refl s)) (ih _)

theorem MemorySide.swmHome (d : Nat) (set : RelSet) (l : List L2Line) (s : State) : MemorySide s (s.swmHome d set l) := by
  induction l generalizing s with
  | nil => exact .refl s
  | cons a l ih => exact trans (.ite ((rawMask _ _ _ _).trans (mdie _ _ _)) (.refl s)) (ih _)

theorem MemorySide.releaseSet (s : State) (scope : Nat) (set : RelSet) : MemorySide s (s.releaseSet scope set) :=
  .ite (.refl s) (.ite ((wbLines _ _ _).trans (settle _ _ _)) (((wbLines _ _ _).trans (settle _ _ _)).trans (swmHome _ _ _ _)))

/-- A release changes the memory side alone. -/
theorem MemorySide.release (s : State) (scope : Nat) : MemorySide s (s.release scope) := releaseSet _ _ _

theorem release_ctxs (s : State) (scope : Nat) : (s.release scope).ctxs = s.ctxs :=
  (congrArg State.ctxs (MemorySide.release s scope) :)

theorem release_bundle (s : State) (scope : Nat) : (s.release scope).bundle = s.bundle :=
  (congrArg State.bundle (MemorySide.release s scope) :)

end Sys2Proof.Machine
end

section
/-! PROOFS. Words of strand C that end or wait, and O27: phases and domain membership (R194, R196 to R198). -/

namespace Sys2Proof.Machine

/-! ### Words of strand C by how their effect ends (R194) -/

section
variable {s e : State} {i : Instr} {k : Ctl} {eff : State → Res}
  (hexec : exec i s = .next (s.issue i k onlyC false noCheck eff))
include hexec

theorem endsIn_of_done {n : Nat} (he : eff (s.begun i k) = .done e n) (hs : Steady (s.begun i k) e) : endsIn s i k onlyC e :=
  fun htakes => ⟨_, hexec, issue_ends s i k onlyC false noCheck eff e n htakes rfl he hs⟩

theorem waitsIn_of_wait {c : Slot} {hold : Bool} (he : eff (s.begun i k) = .wait e c hold) (hcur : e.ctx.cur = (s.begun i k).ctx.cur)
    (hstrands : e.ctx.strands = (s.begun i k).ctx.strands) : waitsIn s i k onlyC e c :=
  fun htakes => ⟨_, hexec, issue_waitsIn s i k onlyC false noCheck eff e c hold htakes rfl he hcur hstrands⟩

/-- As `waitsIn_of_wait`, for an effect that leaves the whole context. -/
theorem waitsIn_of_ctx {c : Slot} {hold : Bool} (he : eff (s.begun i k) = .wait e c hold) (hctx : e.ctx = (s.begun i k).ctx) :
    waitsIn s i k onlyC e c :=
  waitsIn_of_wait hexec he (congrArg Ctx.cur hctx) (congrArg Ctx.strands hctx)

end

/-- An acquire leaves the issuing strand, the mode, b0 to b3 and the predicates. -/
theorem steady_acquire (s : State) (n : Nat) : Steady s (s.acquire n) :=
  ⟨acquire_cur s n, acquire_lockstep s n, fun j => by simp only [State.strand, acquire_strands], acquire_p s n⟩

theorem steady_mcsr (s : State) (f : Csrs → Csrs) : Steady s (s.mcsr f) := ⟨rfl, rfl, fun _ => rfl, rfl⟩

theorem release_ctx (s : State) (n : Nat) : (s.release n).ctx = s.ctx := (release_quiet s n).1

/-! ### Arrivals, joins and withdrawals leave the context's control (R196 to R198) -/

theorem arrive_ctx (s : State) (d : BitVec 10) (id : BitVec 32) : (s.arrive d id).ctx = s.ctx := by
  unfold State.arrive
  split
  · rfl
  · exact tellRoot_ctx _ _ _

theorem registerJoin_ctx (s : State) (d : BitVec 10) (id : BitVec 32) : (s.registerJoin d id).ctx = s.ctx := by
  unfold State.registerJoin
  split
  · rfl
  · split
    · rw [kidChange_ctx, memberEntry_ctx, putDomain_ctx]
    · rw [tellRoot_ctx, putDomain_ctx]

theorem steady_takeJoin (s : State) (d : BitVec 10) : Steady s (s.takeJoin d) := by
  unfold State.takeJoin
  split
  · exact (steady_mcsr _ _).trans (.mctx _ _ rfl rfl rfl rfl)
  · exact .of_ctx rfl

theorem steady_withdraw (s : State) : Steady s s.withdraw := by
  rcases withdraw_ctx s with h | h
  · exact .of_ctx h
  · exact (Steady.mctx s (fun c => { c with joining := none, csr := { c.csr with dmr := 0, phcnt := 0 } }) rfl rfl rfl rfl).trans
      (.of_ctx h)

/-! ### PHASE and PHWT (R196) -/

/-- A member as it waits for its boundary: it arrives once, after release(device). -/
def State.arrivedOnce (s : State) : State :=
  if s.ctx.csr.dmrArr then s else
    ((s.release 2).arrive s.ctx.csr.dmrDom s.ctx.id).mcsr (fun c => { c with dmr := setBits c.dmr 14 14 1 })

theorem arrivedOnce_eq (s : State) : s.arrivedOnce = if s.ctx.csr.dmrArr then s else s.arriveNow := by
  simp only [State.arrivedOnce, State.arriveNow, release_ctx]

theorem arrivedOnce_control (s : State) : s.arrivedOnce.ctx.cur = s.ctx.cur ∧ s.arrivedOnce.ctx.strands = s.ctx.strands ∧
    s.arrivedOnce.ctx.lockstep = s.ctx.lockstep ∧ s.arrivedOnce.ctx.p = s.ctx.p := by
  unfold State.arrivedOnce
  split
  · exact ⟨rfl, rfl, rfl, rfl⟩
  · simp only [State.mcsr_ctx, arrive_ctx, release_ctx, and_self]

theorem steady_arrivedOnce (s : State) : Steady s s.arrivedOnce := by
  obtain ⟨hcur, hstrands, hlock, hp⟩ := arrivedOnce_control s
  exact ⟨hcur, hlock, fun j => by simp only [State.strand, hstrands], hp⟩

theorem steady_phaseDone (s : State) : Steady s s.phaseDone := (steady_mcsr _ _).trans (steady_acquire _ _)

/-- A member whose commands still run waits for them before it arrives. -/
theorem phaseRes_busy (limit : State → Option Nat) (res : State → Nat → State) (s : State) (hv : s.ctx.csr.dmrV = true)
    (ha : s.ctx.csr.dmrArr = false) (hb : s.phaseBusy s.before = true) : phaseRes limit res s = .wait s .barrier false := by
  simp only [phaseRes, hv, ha, hb, Bool.true_eq_false, and_self, if_false, if_true]

/-- A member that waits for no command arrives, and ends when its boundary has reached it, or by the word's limit. -/
theorem phaseRes_arrived (limit : State → Option Nat) (res : State → Nat → State) (s : State) (hv : s.ctx.csr.dmrV = true)
    (hready : s.ctx.csr.dmrArr = false → s.phaseBusy s.before = false) :
    phaseRes limit res s =
      if s.arrivedOnce.boundarySeen then .done (res s.arrivedOnce.phaseDone 0) 1
      else match limit s with
        | some n => if n ≤ s.waited then .done (res s.arrivedOnce 1) 1 else .wait s.arrivedOnce .barrier false
        | none => .wait s.arrivedOnce .barrier false := by
  have hbusy : ¬ (s.ctx.csr.dmrArr = false ∧ s.phaseBusy s.before = true) :=
    fun ⟨ha, hb⟩ => Bool.false_ne_true ((hready ha).symm.trans hb)
  simp only [phaseRes, hv, Bool.true_eq_false, if_false, hbusy, ← arrivedOnce_eq] <;> rfl

section
variable (k : Ctl) (d a : Reg) (s : State)

theorem exec_phase : exec (.phase k) s = .next (s.issue (.phase k) k onlyC false noCheck (phaseRes (fun _ => none) (fun s _ => s))) :=
  rfl

theorem exec_phwt : exec (.phwt k d a) s = .next (s.issue (.phwt k d a) k onlyC false noCheck
    (phaseRes (fun s => some (s.x a).toNat) (fun s v => s.setX d (BitVec.ofNat 64 v) 1))) := rfl

/-- What a member that waits for no command does at its turn: PHASE and PHWT go the same way but for the limit. -/
theorem phaseWord_arrived {i : Instr} {limit : State → Option Nat} {res : State → Nat → State}
    (hexec : exec i s = .next (s.issue i k onlyC false noCheck (phaseRes limit res)))
    (hv : (s.begun i k).ctx.csr.dmrV = true)
    (hready : (s.begun i k).ctx.csr.dmrArr = false → (s.begun i k).phaseBusy (s.begun i k).before = false)
    (hres : ∀ t v, Steady t (res t v)) :
    let u := s.begun i k
    (u.arrivedOnce.boundarySeen = true → endsIn s i k onlyC (res u.arrivedOnce.phaseDone 0)) ∧
    (u.arrivedOnce.boundarySeen = false →
      (∀ n, limit u = some n → n ≤ u.waited → endsIn s i k onlyC (res u.arrivedOnce 1)) ∧
      ((∀ n, limit u = some n → u.waited < n) → waitsIn s i k onlyC u.arrivedOnce .barrier)) := by
  have heff := phaseRes_arrived limit res _ hv hready
  have harrived := steady_arrivedOnce (s.begun i k)
  obtain ⟨hcur, hstrands, -, -⟩ := arrivedOnce_control (s.begun i k)
  refine ⟨fun hseen => ?_, fun hseen => ⟨fun n hn hle => ?_, fun hlimit => ?_⟩⟩
  · rw [hseen] at heff
    exact endsIn_of_done hexec heff ((harrived.trans (steady_phaseDone _)).trans (hres _ _))
  · simp only [hseen, hn, hle, Bool.false_eq_true, if_false, if_true] at heff
    exact endsIn_of_done hexec heff (harrived.trans (hres _ _))
  · have hwait : phaseRes limit res (s.begun i k) = .wait (s.begun i k).arrivedOnce .barrier false := by
      rw [heff, hseen]
      cases hn : limit (s.begun i k) with
      | none => rfl
      | some n => simp [Nat.not_le.mpr (hlimit n hn)]
    exact waitsIn_of_wait hexec hwait hcur hstrands

end

/-! ### DMJOIN and DMLEAVE (R197, R198) -/

/-- A join that is registered, once: the context remembers the domain it waits for. -/
def State.joinsOnce (s : State) (d : BitVec 10) : State :=
  if s.ctx.joining.isSome then s else (s.registerJoin d s.ctx.id).mctx (fun c => { c with joining := some d })

theorem steady_joinsOnce (s : State) (d : BitVec 10) : Steady s (s.joinsOnce d) ∧ (s.joinsOnce d).ctx.strands = s.ctx.strands := by
  unfold State.joinsOnce
  split
  · exact ⟨.of_ctx rfl, rfl⟩
  · exact ⟨(Steady.of_ctx (registerJoin_ctx s d s.ctx.id)).trans (.mctx _ _ rfl rfl rfl rfl),
      (congrArg Ctx.strands (registerJoin_ctx s d s.ctx.id) :)⟩

/-- The effect of DMJOIN. -/
def dmjoinRes (a : Reg) (s : State) : Res :=
  match s.ctx.joining with
  | some d => s.joinWait d
  | none =>
    let d := BitVec.ofNat 10 (bitsOf (s.x a) 9 0)
    if s.ctx.csr.dmrV ∨ 1024 ≤ (s.x a).toNat ∨ s.joinable d = false then .trap .illegal s.anyAddr
    else ((s.registerJoin d s.ctx.id).mctx (fun c => { c with joining := some d })).joinWait d

theorem exec_dmjoin (k : Ctl) (a : Reg) (s : State) :
    exec (.dmjoin k a) s = .next (s.issue (.dmjoin k a) k onlyC false noCheck (dmjoinRes a)) := rfl

/-- The domain that a DMJOIN names, or has named. -/
def State.joinDomain (s : State) (a : Reg) : BitVec 10 := s.ctx.joining.getD (BitVec.ofNat 10 (s.x a).toNat)

/-- A DMJOIN that is admitted, or was, waits for its join. -/
theorem dmjoinRes_admitted (a : Reg) (s : State)
    (h : s.ctx.joining = none → s.ctx.csr.dmrV = false ∧ (s.x a).toNat < 1024 ∧ s.joinable (s.joinDomain a) = true) :
    dmjoinRes a s = (s.joinsOnce (s.joinDomain a)).joinWait (s.joinDomain a) := by
  unfold dmjoinRes State.joinsOnce
  cases hj : s.ctx.joining with
  | some d => simp only [State.joinDomain, hj, Option.getD_some, Option.isSome_some, if_true]
  | none =>
    obtain ⟨hv, hlt, hjoinable⟩ := h hj
    have hdom : s.joinDomain a = BitVec.ofNat 10 (bitsOf (s.x a) 9 0) := by
      apply BitVec.eq_of_toNat_eq
      simp [State.joinDomain, hj, bitsOf]
    rw [← hdom]
    simp only [hv, hjoinable, Nat.not_le.mpr hlt, Bool.false_eq_true, Bool.true_eq_false, or_self, if_false,
      Option.isSome_none]

theorem dmjoin_ends (k : Ctl) (a : Reg) (s : State) :
    let i : Instr := .dmjoin k a
    let u := s.begun i k
    let dom := u.joinDomain a
    (u.ctx.joining = none → u.ctx.csr.dmrV = false ∧ (u.x a).toNat < 1024 ∧ u.joinable dom = true) →
    ((u.joinsOnce dom).joinSeen dom = true → endsIn s i k onlyC (((u.joinsOnce dom).takeJoin dom).acquire 2)) ∧
    ((u.joinsOnce dom).joinSeen dom = false → waitsIn s i k onlyC (u.joinsOnce dom) .barrier) := by
  intro i u dom h
  obtain ⟨hsteady, hstrands⟩ := steady_joinsOnce u dom
  have heff := dmjoinRes_admitted a u h
  unfold State.joinWait at heff
  refine ⟨fun hseen => ?_, fun hseen => ?_⟩
  · exact endsIn_of_done (exec_dmjoin k a s) (heff.trans (if_pos hseen)) ((hsteady.trans (steady_takeJoin _ _)).trans (steady_acquire _ _))
  · exact waitsIn_of_wait (exec_dmjoin k a s) (heff.trans (if_neg (by simp [dom, hseen]))) hsteady.cur hstrands

theorem dmleave_goesTo (k : Ctl) (s : State) (hv : (s.operands (.dmleave k) k).ctx.csr.dmrV = true) :
    goesTo s (.dmleave k) k onlyC false ((s.operands (.dmleave k) k).release 2).withdraw :=
  fun hready => ⟨_, rfl, issue_closes s (.dmleave k) k onlyC false noCheck _ _ 1 hready rfl
    (if_neg (fun h => Bool.false_ne_true (h.symm.trans hv))) ((Steady.of_ctx (release_ctx _ 2)).trans (steady_withdraw _))⟩

/-- Settles O27: PHASE and PHWT by the boundary that they wait for, DMJOIN by its join. -/
theorem phaseWords : Obligations.PhaseWords := by
  unfold Obligations.PhaseWords
  intro k d a s ready arrived passed
  have hphase := phaseWord_arrived k s (res := fun t _ => t) (exec_phase k s)
  have hphwt := phaseWord_arrived k s (res := fun t v => t.setX d (BitVec.ofNat 64 v) 1) (exec_phwt k d a s)
  refine ⟨⟨fun hv ha hb => ?busy, fun ⟨hv, hready⟩ hseen => ?ends, fun ⟨hv, hready⟩ hseen => ?waits⟩,
    ⟨fun ⟨hv, hready⟩ hseen => ?timedEnds, fun ⟨hv, hready⟩ hseen hle => ?limit, fun ⟨hv, hready⟩ hseen hlt => ?timedWaits⟩,
    dmjoin_ends k a s, dmleave_goesTo k s⟩
  case busy => exact waitsIn_of_ctx (exec_phase k s) (phaseRes_busy _ _ _ hv ha hb) rfl
  case ends => exact (hphase hv hready (fun _ _ => .of_ctx rfl)).1 hseen
  case waits => exact ((hphase hv hready (fun _ _ => .of_ctx rfl)).2 hseen).2 (fun _ hn => nomatch hn)
  case timedEnds => exact (hphwt hv hready (fun t _ => .setX t _ _ _)).1 hseen
  case limit => exact ((hphwt hv hready (fun t _ => .setX t _ _ _)).2 hseen).1 _ rfl hle
  case timedWaits =>
    exact ((hphwt hv hready (fun t _ => .setX t _ _ _)).2 hseen).2 (fun n hn => Option.some.inj hn ▸ hlt)

end Sys2Proof.Machine
end

section
/-! PROOFS. O28: byte barriers, and words whose fault comes after their effect (R199 to R201, R387). -/

namespace Sys2Proof.Machine

/-! ### Faults after the effect (R387) -/

/-- A word that stands alone, its effect done, before it faults. -/
def State.doneFaulting (s : State) (k : Ctl) (marked : Bool) (why : Slot) (w : BitVec 32) (c : Cause) (addr : Word) : State :=
  s.closed k marked why 1 (.trapped s.ctx.cur c addr w true)

theorem faultAfter_eq (s : State) (k : Ctl) (marked : Bool) (why : Slot) (w : BitVec 32) (c : Cause) (addr : Word)
    (hb : s.bundle = false) :
    let m := s.doneFaulting k marked why w c addr
    let moved := m.moveOn none k.sy
    (s.pushTokens k marked 1).faultAfter k marked why w c addr =
      if c.namesNext then moved.enterTrap (excOf s.ctx.cur c addr (moved.strand s.ctx.cur).pc w)
      else m.enterTrapPast (excOf s.ctx.cur c addr (m.addrOf s.ctx.cur) w) (moved.strand s.ctx.cur).xfer := by
  intro m moved
  have hm : m.bundle = false := (closed_bundle _ _ _ _ _ _).trans hb
  have hfold : (s.pushTokens k marked 1).faultAfter k marked why w c addr =
      if m.bundle then m
      else if c.namesNext then moved.enterTrap (excOf s.ctx.cur c addr (moved.strand s.ctx.cur).pc w)
      else m.enterTrapPast (excOf s.ctx.cur c addr (m.addrOf s.ctx.cur) w) (moved.strand s.ctx.cur).xfer := by
    cases marked <;> rfl
  rw [hfold, hm]
  rfl

/-- A word whose effect is done and then faults goes on to its fault from the effect, closed. -/
theorem issue_faultsAfter (s : State) (i : Instr) (k : Ctl) (allowed : Strand → Bool) (ct : Bool) (checks : State → Option Cause)
    (eff : State → Res) (e : State) (c : Cause) (addr : Word) (h : s.takes i k allowed ct) (hc : checks s.bump = none)
    (he : eff (s.begun i k) = .after e c addr) (hs : Steady (s.begun i k) e) :
    ∃ marked why, s.issue i k allowed ct checks eff =
      (e.pushTokens k marked 1).faultAfter k marked why (BitVec.ofNat 32 (encodeWord i)) c addr := by
  have hj : e.joinBad k = false := by
    have hbegun := begun_joinBad s i k
    rw [takes_joinBad h] at hbegun
    rw [← hbegun]
    simp only [State.joinBad, hs.cur, hs.lockstep, hs.b .c]
  rcases h with h | ⟨hm, hplace, -⟩
  · have hbegun : s.begun i k = s.operands i k := by simp only [State.begun, h.2.1, Bool.false_eq_true, if_false]
    rw [issue_ready s i k allowed ct checks eff h hc, ← hbegun, he]
    exact ⟨false, .issue, by simp only [State.close, hj, Bool.false_eq_true, if_false]⟩
  · have hbegun : s.begun i k = s.bump := by simp only [State.begun, hm, if_true]
    rw [hbegun] at he
    rw [issue_again s i k allowed ct checks eff hm hplace hc, he]
    exact ⟨true, waitCause s.bump i, by simp only [State.close, hj, Bool.false_eq_true, if_false]⟩

theorem doneFaulting_closed (s : State) (k : Ctl) (marked : Bool) (why : Slot) (w : BitVec 32) (c : Cause) (addr : Word) :
    Closed s (s.doneFaulting k marked why w c addr) := closed_closed _ _ _ _ _ _

/-- The address of the word that has faulted after its effect is that of the word as it stood before it. -/
theorem doneFaulting_addrOf (s e : State) (i : Instr) (k : Ctl) (marked : Bool) (why : Slot) (w : BitVec 32) (c : Cause) (addr : Word)
    (j : Strand) (hs : e.ctx.strands = (s.begun i k).ctx.strands) (hl : e.ctx.lockstep = (s.begun i k).ctx.lockstep) :
    (e.doneFaulting k marked why w c addr).addrOf j = s.addrOf j := by
  have hpc := begun_strand StrandSt.pc (fun _ _ => rfl) s i k j
  have hlock : (s.begun i k).ctx.lockstep = s.ctx.lockstep := by
    unfold State.begun
    split
    · rfl
    · exact operands_lockstep s i k
  obtain ⟨-, hmode, -⟩ := closed_ctx e k marked why 1 (.trapped e.ctx.cur c addr w true)
  simp only [State.addrOf, State.doneFaulting, closed_strand, hmode, hl, hlock]
  rw [← hpc]
  simp only [State.strand, hs]

/-- What a word leaves of the CSRs that a trap reads. -/
theorem canTrap_of_closed {u v : State} (h : Closed u v) (hcan : u.canTrap) : v.canTrap := by
  have hcsr : v.ctx.csr = u.ctx.csr := (congrArg Ctx.csr h.kept.2 :)
  simpa only [State.canTrap, hcsr] using hcan

/-- A word that stands alone, whose effect is done and whose fault names the word, takes it at its own address. -/
theorem issue_faultsAt (s : State) (i : Instr) (k : Ctl) (allowed : Strand → Bool) (ct : Bool) (checks : State → Option Cause)
    (eff : State → Res) (e : State) (c : Cause) (addr : Word) (h : s.takes i k allowed ct) (hc : checks s.bump = none)
    (he : eff (s.begun i k) = .after e c addr) (hs : Steady (s.begun i k) e) (hstrands : e.ctx.strands = (s.begun i k).ctx.strands)
    (hb : e.bundle = false) (hcan : e.canTrap) (hprot : c ≠ .prot) (hnext : c.namesNext = false) :
    ∃ m, e.closes m ∧ m.tookTrap (s.issue i k allowed ct checks eff) c s.ctx.cur (s.addrOf s.ctx.cur) addr
      (BitVec.ofNat 32 (encodeWord i)) := by
  obtain ⟨-, -, hcur, -⟩ := begun_keeps s i k
  obtain ⟨marked, why, hissue⟩ := issue_faultsAfter s i k allowed ct checks eff e c addr h hc he hs
  have hclosed := doneFaulting_closed e k marked why (BitVec.ofNat 32 (encodeWord i)) c addr
  refine ⟨_, hclosed.closes, ?_⟩
  rw [hissue, faultAfter_eq e k marked why _ c addr hb, hnext, hs.cur, hcur,
    doneFaulting_addrOf s e i k marked why _ c addr s.ctx.cur hstrands hs.lockstep]
  exact (enterTrapPast_tookTrap _ s.ctx.cur c addr _ _ _ (canTrap_of_closed hclosed hcan) hprot).1

/-! ### BBPOST (R200) -/

theorem Closed.of_closes {u t : State} (h : u.closes t) : Closed u t := by
  obtain ⟨haside, hkept, hx, hp, ⟨hvp, hlines⟩, hb⟩ := h
  exact ⟨haside, hkept, hx, hp, hvp, hlines, hb⟩

/-- Putting something in flight is closing. -/
theorem closed_flight (s : State) (l : List InFlight) : Closed s (s.mctx (fun c => { c with flight := l })) :=
  .mctx s _ ⟨rfl, rfl⟩ rfl rfl rfl rfl (fun _ => rfl)

theorem dropCopy_ctx (s : State) (line : Nat) : (s.dropCopy line).ctx = s.ctx := by
  unfold State.dropCopy
  split
  · exact (writeBack_quiet s _ _).1
  · rfl

theorem barrierUpdate_ctx (s : State) (pa region : Nat) (f : Nat → Nat) : (s.barrierUpdate pa region f).ctx = s.ctx :=
  ((bankStep_quiet _ _ _ _ _).1.trans (settle_quiet _ _ _).1).trans (dropCopy_ctx _ _)

/-- The flight that a BBPOST of strand k starts: it brings the pushes of its word. -/
def postFlight (k : Ctl) (s : State) : InFlight :=
  { strand := s.ctx.cur, atomic := false, arr := .none, qp := k.qp, qn := k.qn, clk := (s.strand s.ctx.cur).clk, left := 8 }

/-- The effect of BBPOST once its barrier's address is resolved. -/
theorem bbpostRes_resolved (k : Ctl) (a b : Reg) (u t : State) (x : Xlat) (p : Piece) (hn : (u.x b).toNat < 2 ^ 48)
    (ha : (u.x a).toNat % 16 = 0) (hres : u.resolve (u.x a).toNat 16 .atomic atomicTarget = .ok (t, [p])) (hp : p.tgt = .mem x) :
    bbpostRes k a b u =
      let m := t.barrierUpdate x.pa x.region (barrierPost (u.x b).toNat)
      .later (m.mctx (fun c => { c with flight := c.flight ++ [postFlight k m] })) := by
  obtain ⟨va, len, tgt⟩ := p
  subst hp
  have hhigh : bitsOf (u.x b) 63 48 = 0 := by simp only [bitsOf]; omega
  simp only [bbpostRes, hhigh, ha, ne_eq, not_true_eq_false, if_false, hres]
  rfl

theorem bbpost_goesLater (k : Ctl) (a b : Reg) (s t : State) (x : Xlat) (p : Piece) :
    let i : Instr := .bbpost k a b
    let u := s.operands i k
    (u.x b).toNat < 2 ^ 48 → (u.x a).toNat % 16 = 0 →
    u.resolve (u.x a).toNat 16 .atomic atomicTarget = .ok (t, [p]) → p.tgt = .mem x →
    goesLater s i k onlyC (t.barrierUpdate x.pa x.region (barrierPost (u.x b).toNat))
      { strand := .c, atomic := false, arr := .none, qp := k.qp, qn := k.qn, clk := (u.strand .c).clk, left := 7 } := by
  intro i u hn ha hres hp hready
  have hctx : (t.barrierUpdate x.pa x.region (barrierPost (u.x b).toNat)).ctx = u.ctx :=
    (barrierUpdate_ctx _ _ _ _).trans (resolve_quiet _ _ _ _ _ _ _ hres).1
  have hcur : (t.barrierUpdate x.pa x.region (barrierPost (u.x b).toNat)).ctx.cur = .c := by
    rw [hctx, operands_cur]
    exact ready_onlyC hready
  have heff := bbpostRes_resolved k a b u t x p hn ha hres hp
  generalize t.barrierUpdate x.pa x.region (barrierPost (u.x b).toNat) = m at hctx hcur heff ⊢
  obtain ⟨hcloses, hflight⟩ := issue_later s i k onlyC false noCheck (bbpostRes k a b) _ hready rfl heff
    (.trans (.of_ctx hctx) (.mctx _ _ rfl rfl rfl rfl))
  refine ⟨_, rfl, ((closed_flight m _).trans (.of_closes hcloses)).closes, ?_⟩
  rw [hflight]
  have hmem := mem_age (m.mctx (fun c => { c with flight := c.flight ++ [postFlight k m] })).ctx m.ctx.cur (postFlight k m) _ rfl rfl
  have hclk : (u.strand .c).clk = (m.strand .c).clk := by simp only [State.strand, hctx]
  have hflown : ({ strand := .c, atomic := false, arr := .none, qp := k.qp, qn := k.qn, clk := (u.strand .c).clk, left := 7 } : InFlight) =
      { postFlight k m with left := (postFlight k m).left - 1 } := by
    simp only [postFlight, hcur, hclk]
  rw [hflown]
  exact hmem

/-! ### BBWT (R201) -/

theorem bitOf_testBit (w : Word) (i : Nat) : bitOf w i = w.toNat.testBit i := by
  rw [bitOf, Nat.testBit_eq_decide_div_mod_eq]
  rfl

/-- The effect of BBWT once its barrier's address is resolved. -/
theorem bbwtRes_resolved (d a b : Reg) (u t : State) (x : Xlat) (p : Piece) (ha : (u.x a).toNat % 16 = 0)
    (hres : u.resolve (u.x a).toNat 16 .atomic atomicTarget = .ok (t, [p])) (hp : p.tgt = .mem x) :
    bbwtRes d a b u =
      let w := (t.memDw (x.pa + 8)).toNat
      if w.testBit 49 then
        if w.testBit 50 then .after ((t.setX d 2 1).acquire 2) .bbOverrun (u.x a) else .done ((t.setX d 0 1).acquire 2) 1
      else if (u.x b).toNat ≤ u.waited then .done (t.setX d 1 1) 1 else .wait t .barrier false := by
  obtain ⟨va, len, tgt⟩ := p
  subst hp
  simp only [bbwtRes, ha, ne_eq, not_true_eq_false, if_false, hres, bitOf_testBit]

theorem exec_bbwt (k : Ctl) (d a b : Reg) (s : State) :
    exec (.bbwt k d a b) s = .next (s.issue (.bbwt k d a b) k onlyC false noCheck (bbwtRes d a b)) := rfl

theorem setX_strands (s : State) (d : Reg) (v : Word) (n : Nat) : (s.setX d v n).ctx.strands = s.ctx.strands := by
  unfold State.setX
  split <;> rfl

theorem setX_csr (s : State) (d : Reg) (v : Word) (n : Nat) : (s.setX d v n).ctx.csr = s.ctx.csr := by
  unfold State.setX
  split <;> rfl

theorem setX_bundle (s : State) (d : Reg) (v : Word) (n : Nat) : (s.setX d v n).bundle = s.bundle := by
  unfold State.setX
  split <;> rfl

theorem acquire_bundle (s : State) (n : Nat) : (s.acquire n).bundle = s.bundle := by
  unfold State.acquire
  split <;> rfl

section
variable (k : Ctl) (d a b : Reg) (s t : State) (x : Xlat) (p : Piece)
  (ha : ((s.begun (.bbwt k d a b) k).x a).toNat % 16 = 0)
  (hres : (s.begun (.bbwt k d a b) k).resolve ((s.begun (.bbwt k d a b) k).x a).toNat 16 .atomic atomicTarget = .ok (t, [p]))
  (hp : p.tgt = .mem x)
include ha hres hp

theorem bbwt_done (h49 : (t.memDw (x.pa + 8)).toNat.testBit 49 = true) (h50 : (t.memDw (x.pa + 8)).toNat.testBit 50 = false) :
    endsIn s (.bbwt k d a b) k onlyC ((t.setX d 0 1).acquire 2) := by
  have hctx := (resolve_quiet _ _ _ _ _ _ _ hres).1
  have heff := bbwtRes_resolved d a b _ t x p ha hres hp
  simp only [h49, h50, if_true, Bool.false_eq_true, if_false] at heff
  exact endsIn_of_done (exec_bbwt k d a b s) heff ((Steady.of_ctx hctx).trans ((Steady.setX _ _ _ _).trans (steady_acquire _ _)))

/-- A wait for a barrier that was overrun writes 2 and acquires, and then faults. -/
theorem bbwt_overrun (h49 : (t.memDw (x.pa + 8)).toNat.testBit 49 = true) (h50 : (t.memDw (x.pa + 8)).toNat.testBit 50 = true)
    (hcan : t.canTrap) (hb : s.bundle = false) (htakes : s.takes (.bbwt k d a b) k onlyC false) :
    ∃ m r : State, exec (.bbwt k d a b) s = .next r ∧ ((t.setX d 2 1).acquire 2).closes m ∧
      m.tookTrap r .bbOverrun s.ctx.cur (s.addrOf s.ctx.cur) ((s.begun (.bbwt k d a b) k).x a)
        (BitVec.ofNat 32 (encodeWord (.bbwt k d a b))) := by
  obtain ⟨-, -, -, -, -, hbundle⟩ := begun_keeps s (.bbwt k d a b) k
  have hctx := (resolve_quiet _ _ _ _ _ _ _ hres).1
  have htb := (resolve_recorded _ _ _ _ _ _ _ hres).bundle.trans (hbundle.trans hb)
  have heff := bbwtRes_resolved d a b _ t x p ha hres hp
  simp only [h49, h50, if_true] at heff
  obtain ⟨m, hcloses, htook⟩ := issue_faultsAt s _ k onlyC false noCheck (bbwtRes d a b) _ .bbOverrun _ htakes rfl heff
    ((Steady.of_ctx hctx).trans ((Steady.setX _ _ _ _).trans (steady_acquire _ _)))
    ((acquire_strands _ _).trans ((setX_strands _ _ _ _).trans (congrArg Ctx.strands hctx)))
    ((acquire_bundle _ _).trans ((setX_bundle _ _ _ _).trans htb))
    (by simpa only [State.canTrap, acquire_csr, setX_csr] using hcan) (fun h => nomatch h) rfl
  exact ⟨m, _, exec_bbwt k d a b s, hcloses, htook⟩

theorem bbwt_limit (h49 : (t.memDw (x.pa + 8)).toNat.testBit 49 = false)
    (hle : ((s.begun (.bbwt k d a b) k).x b).toNat ≤ (s.begun (.bbwt k d a b) k).waited) :
    endsIn s (.bbwt k d a b) k onlyC (t.setX d 1 1) := by
  have hctx := (resolve_quiet _ _ _ _ _ _ _ hres).1
  have heff := bbwtRes_resolved d a b _ t x p ha hres hp
  simp only [h49, hle, Bool.false_eq_true, if_false, if_true] at heff
  exact endsIn_of_done (exec_bbwt k d a b s) heff ((Steady.of_ctx hctx).trans (Steady.setX _ _ _ _))

theorem bbwt_waits (h49 : (t.memDw (x.pa + 8)).toNat.testBit 49 = false)
    (hlt : (s.begun (.bbwt k d a b) k).waited < ((s.begun (.bbwt k d a b) k).x b).toNat) :
    waitsIn s (.bbwt k d a b) k onlyC t .barrier := by
  have hctx := (resolve_quiet _ _ _ _ _ _ _ hres).1
  have heff := bbwtRes_resolved d a b _ t x p ha hres hp
  simp only [h49, Nat.not_le.mpr hlt, Bool.false_eq_true, if_false] at heff
  exact waitsIn_of_ctx (exec_bbwt k d a b s) heff hctx

end

/-! ### The barrier's 128 bits (R199) -/

/-- A posted barrier's 128 bits: n bytes posted, m arrived, with DONE and ERR. -/
def postedWord (n m : Nat) (done err : Prop) [Decidable done] [Decidable err] : Nat :=
  2 ^ 112 + n * 2 ^ 64 + m + (if done then 2 ^ 113 else 0) + (if err then 2 ^ 114 else 0)

theorem postedWord_fields (n m : Nat) (done err : Prop) [Decidable done] [Decidable err] (hn : n < 2 ^ 48) (hm : m < 2 ^ 64) :
    let w := postedWord n m done err
    w % 2 ^ 64 = m ∧ w / 2 ^ 64 % 2 ^ 48 = n ∧ w / 2 ^ 112 % 2 = 1 ∧ w / 2 ^ 113 % 2 = (if done then 1 else 0) ∧
      w / 2 ^ 114 % 2 = (if err then 1 else 0) := by
  unfold postedWord
  by_cases hdone : done <;> by_cases herr : err <;> simp only [hdone, herr, if_true, if_false] <;> omega

/-- A byte barrier before its check at a post: POSTED and PV are set, the arrived count and what lies above DONE stay. -/
theorem barrierPost_fields (n v : Nat) (hn : n < 2 ^ 48) (hv : v < 2 ^ 128) :
    let w := barrierPost n v
    let arrived := v % 2 ^ 64
    w % 2 ^ 64 = arrived ∧ w / 2 ^ 64 % 2 ^ 48 = n ∧ w / 2 ^ 112 % 2 = 1 ∧
    w / 2 ^ 113 % 2 = (if n ≤ arrived then 1 else 0) ∧
    w / 2 ^ 114 % 2 = (if n < arrived ∨ v / 2 ^ 114 % 2 = 1 then 1 else 0) := by
  intro w arrived
  obtain ⟨q, hq⟩ : ∃ q, v / 2 ^ 113 * 2 ^ 113 + 2 ^ 112 + n * 2 ^ 64 + v % 2 ^ 64 = q := ⟨_, rfl⟩
  have harrived : arrived < 2 ^ 64 := Nat.mod_lt _ (by omega)
  have hlow : q % 2 ^ 113 = 2 ^ 112 + n * 2 ^ 64 + arrived := by omega
  have hhigh : q / 2 ^ 113 = v / 2 ^ 113 := by omega
  have hcount : q % 2 ^ 64 = arrived := by omega
  have hposted : q / 2 ^ 64 % 2 ^ 48 = n := by omega
  have hpv : q / 2 ^ 112 % 2 = 1 := by omega
  have herr : q / 2 ^ 114 = v / 2 ^ 114 := by
    have hdiv := congrArg (· / 2) hhigh
    simpa only [Nat.div_div_eq_div_mul, ← Nat.pow_succ] using hdiv
  have hw : w = postedWord n arrived (n ≤ arrived) (v / 2 ^ 114 % 2 = 1 ∨ n < arrived) := by
    simp only [w, postedWord, barrierPost, hq, barrierCheck, hlow, hcount, hposted, hpv, herr, BEq.rfl, Bool.true_and,
      Bool.or_eq_true, beq_iff_eq, decide_eq_true_eq]
  have hfields := postedWord_fields n arrived (n ≤ arrived) (v / 2 ^ 114 % 2 = 1 ∨ n < arrived) hn harrived
  simpa only [hw, or_comm] using hfields

/-- Settles O28: BBPOST by the flight that it starts, BBWT by the barrier's DONE and ERR. -/
theorem byteBarrierWords : Obligations.ByteBarrierWords := by
  unfold Obligations.ByteBarrierWords
  intro k d a b s t x p
  exact ⟨bbpost_goesLater k a b s t x p, fun ha hres hp =>
    ⟨bbwt_done k d a b s t x p ha hres hp, bbwt_overrun k d a b s t x p ha hres hp, bbwt_limit k d a b s t x p ha hres hp,
      bbwt_waits k d a b s t x p ha hres hp⟩, barrierPost_fields⟩

end Sys2Proof.Machine
end

section
/-! PROOFS. O29: REQ, whose command joins another context's queue (R203). -/

namespace Sys2Proof.Machine

/-! ### Words that release once, at their issue -/

/-- The state after release(device), made when the word issues and not when it is attempted again (R119, R194). -/
def State.releasedOnce (s : State) (sent : Bool) : State := if sent then s else s.release 2

theorem releasedOnce_frame (s : State) (sent : Bool) :
    (s.releasedOnce sent).ctx = s.ctx ∧ (s.releasedOnce sent).ctxs = s.ctxs ∧ (s.releasedOnce sent).cycle = s.cycle := by
  unfold State.releasedOnce
  split
  · exact ⟨rfl, rfl, rfl⟩
  · exact ⟨release_ctx s 2, release_ctxs s 2, (congrArg State.cycle (MemorySide.release s 2) :)⟩

/-- The issuing strand's mark tells whether the word has released already. -/
theorem releasedOnce_begun (s : State) (i : Instr) (k : Ctl) :
    (if ((s.begun i k).strand (s.begun i k).ctx.cur).mark then s.begun i k else (s.begun i k).release 2) =
      (s.begun i k).releasedOnce (s.strand s.ctx.cur).mark := by
  rw [begun_mark]
  rfl

/-! ### Contexts by identifier -/

theorem ctxOf_congr {s t : State} (hctx : t.ctx = s.ctx) (hctxs : t.ctxs = s.ctxs) (id : BitVec 32) : t.ctxOf id = s.ctxOf id := by
  simp only [State.ctxOf, hctx, hctxs]

/-- Storing a context under its CTXID leaves the one in focus, or replaces it. -/
theorem putCtx_ctx (s : State) (c : Ctx) : (s.putCtx c).ctx = if s.ctx.id = c.id then c else s.ctx := by
  unfold State.putCtx
  split <;> rfl

/-- The context in focus, where it exists, is what its identifier names. -/
theorem ctxOf_focus {s : State} {c : Ctx} (h : s.ctxOf s.ctx.id = some c) : c = s.ctx := by
  unfold State.ctxOf at h
  simp only [if_true] at h
  split at h
  · cases h
  · split at h
    · cases h
    · exact (Option.some.inj h).symm

/-- A context that exists takes a change that leaves its control: the word that makes it is steady. -/
theorem steady_putCtx (s : State) (c d : Ctx) (hc : s.ctxOf c.id = some c) (hid : d.id = c.id) (hcur : d.cur = c.cur)
    (hlock : d.lockstep = c.lockstep) (hstrands : d.strands = c.strands) (hp : d.p = c.p) : Steady s (s.putCtx d) := by
  have hctx := putCtx_ctx s d
  split at hctx
  · next hfocus =>
    have hsame : c = s.ctx := ctxOf_focus (by rw [hfocus, hid]; exact hc)
    rw [hsame] at hcur hlock hstrands hp
    constructor
    · rw [hctx, hcur]
    · rw [hctx, hlock]
    · intro j
      simp only [State.strand, hctx, hstrands]
    · rw [hctx, hp]
  · exact .of_ctx hctx

/-! ### REQ (R203) -/

/-- A context takes a command into the queue of engine e: its next ESN, and the pushes owed to it. -/
def Ctx.takeCommand (c : Ctx) (e : Engine) (q : QEntry) : Ctx :=
  { c with esn := q.esn, queues := c.queues.set e.num (c.queues.get e.num ++ [q]) }.owe .c q.qp q.qn

/-- The command that a request's block of 64 bytes stands for, for a destination context. -/
def reqEntry (u m : State) (off : Nat) (st : BitVec 256) (flags : Nat) (dst : Ctx) : QEntry :=
  { stencil := st, rega := BitVec.ofNat 64 (spadNat u.ctx.spad (off + 32) 8),
    regb := BitVec.ofNat 64 (spadNat u.ctx.spad (off + 40) 8), esn := dst.esn + 1, rmode := 0,
    spc := setBits (u.addrOf u.ctx.cur) 63 57 0, sstr := 0, qp := decide (flags % 2 = 1), qn := decide (flags / 2 % 2 = 1),
    armed := false, clk := Clock.zero, views := dst.view, stamped := m.fresh }

/-- A request whose block, destination and queue pass its checks ends once its command has joined the queue. -/
theorem reqRes_sends (a b : Reg) (u m : State) (c : Ctx) (off : Nat) (st : BitVec 256) (flags : Nat)
    (hoff : (u.x b).toNat - winBase = off) (hst : BitVec.ofNat 256 (spadNat u.ctx.spad off 32) = st)
    (hflags : spadNat u.ctx.spad (off + 48) 16 = flags) (hm : (if (u.strand u.ctx.cur).mark then u else u.release 2) = m)
    (hctx : m.ctx = u.ctx)
    (halign : (u.x b).toNat % 64 = 0) (hwin : inWindow (u.x b).toNat = true) (hlen : off < u.ctx.spres * 65536)
    (hfound : u.ctxOf (BitVec.ofNat 32 (u.x a).toNat) = some c) (hasid : c.space.asid = u.ctx.space.asid)
    (hecc : u.eccFault { va := (u.x b).toNat, len := 64, tgt := .win off } false = false) (hok : stencilOk st = true)
    (hflag : flags < 4) (hfull : m.destFull c (engineOf st) = false)
    (hpush : c.canPush .c (decide (flags % 2 = 1)) (decide (flags / 2 % 2 = 1)) = true) :
    reqRes a b u = .done (m.putCtx (((m.ctxOf c.id).getD c).takeCommand (engineOf st)
      (reqEntry u m off st flags ((m.ctxOf c.id).getD c)))) 1 := by
  have hwindow : ¬ (inWindow (u.x b).toNat = false ∨ u.ctx.spres * 65536 ≤ off) := by
    rw [hwin]
    simp only [Bool.true_eq_false, false_or]
    omega
  have hbad : ¬ (stencilOk st = false ∨ 4 ≤ flags) := by
    rw [hok]
    simp only [Bool.true_eq_false, false_or]
    omega
  have hpush' : c.canPush .c (flags % 2 == 1) (flags / 2 % 2 == 1) = true := hpush
  simp only [reqRes, hoff, hst, hflags, hm, halign, ne_eq, not_true_eq_false, if_false, if_neg hwindow, ofNat_low_half, hfound,
    hasid, hecc, Bool.false_eq_true, if_neg hbad, hfull, hpush', Bool.true_eq_false, hctx]
  rfl

theorem exec_req (k : Ctl) (a b : Reg) (s : State) :
    exec (.req k a b) s = .next (s.issue (.req k a b) k onlyC false noCheck (reqRes a b)) := rfl

/-- Settles O29: the destination stands where the release has left it, and takes the command. -/
theorem remoteRequest : Obligations.RemoteRequest := by
  unfold Obligations.RemoteRequest
  intro k a b s c i u off st flags e m dst qp qn halign hwin hlen hfound hid hasid hecc hok hflag hfull hpush q
  have hoff : (u.x b).toNat - winBase = off := rfl
  have hst : BitVec.ofNat 256 (spadNat u.ctx.spad off 32) = st := rfl
  have hflags : spadNat u.ctx.spad (off + 48) 16 = flags := rfl
  have hm : u.releasedOnce (s.strand s.ctx.cur).mark = m := rfl
  obtain ⟨hctx, hctxs, -⟩ := releasedOnce_frame u (s.strand s.ctx.cur).mark
  have hbegun := releasedOnce_begun s i k
  rw [hm] at hctx hctxs hbegun
  have hfoundNow : m.ctxOf c.id = some c := by
    rw [ctxOf_congr hctx hctxs, hid]
    exact hfound
  have hdst : dst = c := by simp only [dst, hfoundNow, Option.getD_some]
  clear_value off st flags m
  refine endsIn_of_done (exec_req k a b s) (reqRes_sends a b u m c off st flags hoff hst hflags hbegun hctx halign hwin hlen
    hfound hasid hecc hok hflag hfull hpush) ((Steady.of_ctx hctx).trans (steady_putCtx m c _ hfoundNow (congrArg Ctx.id hdst :)
      (congrArg Ctx.cur hdst :) (congrArg Ctx.lockstep hdst :) (congrArg Ctx.strands hdst :) (congrArg Ctx.p hdst :)))

end Sys2Proof.Machine
end

section
/-! PROOFS. O30: TSPAWN, PWREQ and PWREL (R207, R209). -/

namespace Sys2Proof.Machine

theorem bitsOf_low_half (w : Word) : bitsOf w 31 0 = w.toNat % 2 ^ 32 := by simp [bitsOf]

/-! ### TSPAWN (R207) -/

theorem exec_tspawn (k : Ctl) (d a : Reg) (s : State) :
    exec (.tspawn k d a) s = .next (s.issue (.tspawn k d a) k onlyC false noCheck (tspawnRes d a)) := rfl

/-- The stencil block of a record is read as memory is, or not at all. -/
theorem readBlock_ctx (s t : State) (dws : List Word) (w : Nat) (h : Bool) (hread : s.readBlock dws = .ok (.val t w h)) :
    t.ctx = s.ctx := by
  unfold State.readBlock at hread
  simp only [] at hread
  split at hread
  · exact (memRead_quiet _ _ _ _ _ _ _ _ _ hread).1
  · cases hread
    rfl

/-- The effect of TSPAWN once the record and its stencil block are read. -/
theorem tspawnRes_read (d a : Reg) (u t r : State) (v w : Nat) (h1 h2 : Bool) (halign : (u.x a).toNat % 256 = 0)
    (hwin : inWindow (u.x a).toNat = false) (hread : u.memRead (u.x a).toNat 256 0 0 memTarget = .ok (.val t v h1))
    (hblock : t.readBlock (dwsOf 32 v) = .ok (.val r w h2)) :
    tspawnRes d a u = tspawnAccept d (u.x a) (dwsOf 32 v) w r := by
  simp only [tspawnRes, halign, hwin, hread, hblock, ne_eq, not_true_eq_false, Bool.false_eq_true, if_false]

/-- Acceptance answers the sequence number that its ACCEPT entry gets. -/
theorem acceptTask_seq (s : State) (d : Nat) (t : TaskRec) (addr : Word) (source : Nat) (near : Option Nat) :
    (s.acceptTask d t addr source near).2 = s.jseq := by
  simp only [State.acceptTask]
  split
  · rfl
  · split <;> rfl

/-- Whether a stencil block names an operation that uses a tile. -/
def blockUses (w : Nat) : Bool := usesTile ((List.range 64).map (fun n => BitVec.ofNat 256 (w / 2 ^ (256 * n))))

section
variable (d : Reg) (va : Word) (dws : List Word) (w : Nat) (r m : State)
  (hm : (if (r.strand r.ctx.cur).mark then r else r.release 2) = m)
include hm

theorem tspawnAccept_invalid (h : m.spawnable (parseTask dws) (blockUses w) = false) :
    tspawnAccept d va dws w r = .done (m.setX d 2 1) 1 := by
  rw [blockUses] at h
  simp only [tspawnAccept, hm, h, if_true]

variable (t : TaskRec) (h : m.spawnable (parseTask dws) (blockUses w) = true) (ht : parseTask dws = some t)
include h ht

theorem tspawnAccept_room (hfull : m.queueFull m.ctx.die t.queue = false) :
    tspawnAccept d va dws w r = .done
      ((m.acceptTask m.ctx.die t va 1 (some m.ctx.plate)).1.setX d (BitVec.ofNat 64 (m.jseq * 256)) 1) 1 := by
  rw [blockUses, ht] at h
  simp only [tspawnAccept, hm, ht, h, hfull, acceptTask_seq, Bool.true_eq_false, Bool.false_eq_true, if_false]

theorem tspawnAccept_full (hfull : m.queueFull m.ctx.die t.queue = true) :
    tspawnAccept d va dws w r =
      if m.ctx.csr.reqto.toNat % 2 ^ 32 ≠ 0 ∧ m.ctx.csr.reqto.toNat % 2 ^ 32 ≤ m.waited then .done (m.setX d 1 1) 1
      else .wait m .qfull false := by
  rw [blockUses, ht] at h
  simp only [tspawnAccept, hm, ht, h, hfull, bitsOf_low_half, Bool.true_eq_false, if_false, if_true]

end

/-! ### PWREQ and PWREL (R209) -/

theorem exec_pwreq (k : Ctl) (d a : Reg) (s : State) :
    exec (.pwreq k d a) s = .next (s.issue (.pwreq k d a) k onlyC false noCheck (pwreqRes d a)) := rfl

/-- A request is answered: it stands no longer. -/
def State.pwAnswer (s : State) (d : Reg) (v : Word) : State :=
  (s.mctx (fun c => { c with asked := none, granted := false })).setX d v 1

theorem steady_pwAnswer (s : State) (d : Reg) (v : Word) : Steady s (s.pwAnswer d v) :=
  (Steady.mctx s _ rfl rfl rfl rfl).trans (.setX _ _ _ _)

theorem pwreqRes_granted (d a : Reg) (s : State) (h : s.ctx.granted = true) : pwreqRes d a s = .done (s.pwAnswer d 0) 1 := if_pos h

/-- A request that may stand, and is not granted, is refused for its size, is over by its limit, or waits. -/
theorem pwreqRes_standing (d a : Reg) (s : State) (hg : s.ctx.granted = false) (hb : s.ctx.asked = none → s.ctx.booking = none) :
    pwreqRes d a s =
      if (s.x a).toNat = 0 ∨ 64 < (s.x a).toNat then .done (s.pwAnswer d 1) 1
      else if s.ctx.csr.reqto.toNat % 2 ^ 32 ≠ 0 ∧ s.ctx.csr.reqto.toNat % 2 ^ 32 ≤ s.waited then .done (s.pwAnswer d 2) 1
      else .wait (s.mctx (fun c => { c with asked := some (s.x a).toNat })) .grant false := by
  have hbooked : ¬ (s.ctx.asked = none ∧ s.ctx.booking.isSome = true) := by
    rintro ⟨hasked, hbooking⟩
    rw [hb hasked] at hbooking
    cases hbooking
  simp only [pwreqRes, hg, Bool.false_eq_true, if_false, if_neg hbooked, bitsOf_low_half]
  rfl

theorem steady_giveBooking (s : State) : Steady s s.giveBooking := by
  unfold State.giveBooking
  split
  · exact .of_ctx rfl
  · exact ⟨rfl, rfl, fun _ => rfl, rfl⟩

theorem pwreq_ends (k : Ctl) (d a : Reg) (s : State) :
    let i : Instr := .pwreq k d a
    let u := s.begun i k
    let limit := u.ctx.csr.reqto.toNat % 2 ^ 32
    let n := (u.x a).toNat
    (u.ctx.granted = true → endsIn s i k onlyC (u.pwAnswer d 0)) ∧
    (u.ctx.granted = false → (u.ctx.asked = none → u.ctx.booking = none) →
      ((n = 0 ∨ 64 < n) → endsIn s i k onlyC (u.pwAnswer d 1)) ∧
      (0 < n → n ≤ 64 → limit ≠ 0 → limit ≤ u.waited → endsIn s i k onlyC (u.pwAnswer d 2)) ∧
      (0 < n → n ≤ 64 → limit = 0 ∨ u.waited < limit →
        waitsIn s i k onlyC (u.mctx (fun c => { c with asked := some n })) .grant)) := by
  intro i u limit n
  refine ⟨fun hg => endsIn_of_done (exec_pwreq k d a s) (pwreqRes_granted d a u hg) (steady_pwAnswer _ _ _), fun hg hb => ?_⟩
  have heff := pwreqRes_standing d a u hg hb
  refine ⟨fun hn => ?_, fun hpos hmax hset hle => ?_, fun hpos hmax hlimit => ?_⟩
  · rw [if_pos hn] at heff
    exact endsIn_of_done (exec_pwreq k d a s) heff (steady_pwAnswer _ _ _)
  · rw [if_neg (by omega), if_pos ⟨hset, hle⟩] at heff
    exact endsIn_of_done (exec_pwreq k d a s) heff (steady_pwAnswer _ _ _)
  · rw [if_neg (by omega), if_neg (by omega)] at heff
    exact waitsIn_of_wait (exec_pwreq k d a s) heff rfl rfl

theorem pwrel_goesTo (k : Ctl) (s : State) : goesTo s (.pwrel k) k onlyC false (s.operands (.pwrel k) k).giveBooking :=
  fun hready => ⟨_, rfl, issue_closes s (.pwrel k) k onlyC false noCheck _ _ 1 hready rfl rfl (steady_giveBooking _)⟩

/-- Settles O30: TSPAWN by what its record and its queue allow, PWREQ by the arbiter's answer. -/
theorem spawnAndPower : Obligations.SpawnAndPower := by
  unfold Obligations.SpawnAndPower
  intro k d a s
  refine ⟨?_, pwreq_ends k d a s, pwrel_goesTo k s⟩
  intro t r v w h1 h2 rec i u dws uses m limit halign hwin hread hblock
  have hres := tspawnRes_read d a u t r v w h1 h2 halign hwin hread hblock
  have hreleased : m.ctx = r.ctx := (releasedOnce_frame r (r.strand r.ctx.cur).mark).1
  have hctx : m.ctx = u.ctx := hreleased.trans ((readBlock_ctx _ _ _ _ _ hblock).trans (memRead_quiet _ _ _ _ _ _ _ _ _ hread).1)
  have hsteady : Steady u m := .of_ctx hctx
  refine ⟨fun hinvalid => ?_, fun hvalid hrec => ⟨fun hroom => ?_, fun hfull hset hle => ?_, fun hfull hlimit => ?_⟩⟩
  · exact endsIn_of_done (exec_tspawn k d a s) (hres.trans (tspawnAccept_invalid d _ _ w r m rfl hinvalid)) (hsteady.trans (.setX _ _ _ _))
  · exact endsIn_of_done (exec_tspawn k d a s) (hres.trans (tspawnAccept_room d _ _ w r m rfl rec hvalid hrec hroom))
      (hsteady.trans ((Steady.of_ctx (acceptTask_frame _ _ _ _ _ _).1).trans (.setX _ _ _ _)))
  · have heff := hres.trans (tspawnAccept_full d _ _ w r m rfl rec hvalid hrec hfull)
    exact endsIn_of_done (exec_tspawn k d a s) (heff.trans (if_pos ⟨hset, hle⟩)) (hsteady.trans (.setX _ _ _ _))
  · have heff := hres.trans (tspawnAccept_full d _ _ w r m rfl rec hvalid hrec hfull)
    exact waitsIn_of_ctx (exec_tspawn k d a s) (heff.trans (if_neg (by omega))) hctx

end Sys2Proof.Machine
end

section
/-! PROOFS. O32: TRAP's exception past its word, and ERET's return from a handler (R214 to R216). -/

namespace Sys2Proof.Machine

/-! ### TRAP (R216) -/

/-- A ready word that stands alone and whose fault names the next word takes it where it has moved on to. -/
theorem issue_faultsPast (s : State) (i : Instr) (k : Ctl) (allowed : Strand → Bool) (ct : Bool) (checks : State → Option Cause)
    (eff : State → Res) (e : State) (c : Cause) (addr : Word) (h : s.takes i k allowed ct) (hc : checks s.bump = none)
    (he : eff (s.begun i k) = .after e c addr) (hs : Steady (s.begun i k) e) (hb : e.bundle = false) (hnext : c.namesNext = true) :
    ∃ m, Closed e m ∧ (e.ctx.flight = [] → m.ctx.flight = []) ∧
      s.issue i k allowed ct checks eff =
        m.enterTrap (excOf s.ctx.cur c addr (m.strand s.ctx.cur).pc (BitVec.ofNat 32 (encodeWord i))) := by
  obtain ⟨-, -, hcur, -⟩ := begun_keeps s i k
  obtain ⟨marked, why, hissue⟩ := issue_faultsAfter s i k allowed ct checks eff e c addr h hc he hs
  refine ⟨(e.doneFaulting k marked why (BitVec.ofNat 32 (encodeWord i)) c addr).moveOn none k.sy,
    (doneFaulting_closed _ _ _ _ _ _ _).trans (moveOn_closed _ _ _), fun hf => ?_, ?_⟩
  · rw [moveOn_flight]
    cases marked <;> simp [State.doneFaulting, State.closed, State.ageFor, pushTokens_ctx, Ctx.age, Ctx.land, Ctx.owe, hf]
  · rw [hissue, faultAfter_eq e k marked why _ c addr hb, hnext, hs.cur, hcur]
    rfl

theorem trap_takes (k : Ctl) (n : BitVec 15) (s : State) (hb : s.bundle = false) (hready : s.ready (.trap k n) k anyStrand false)
    (hcan : s.canTrap) :
    ∃ m t : State, exec (.trap k n) s = .next t ∧ (s.operands (.trap k n) k).closes m ∧
      m.tookTrap t .swtrap s.ctx.cur (m.strand s.ctx.cur).pc (n.setWidth 64) (BitVec.ofNat 32 (encodeWord (.trap k n))) ∧
      t.ctx.spad = s.ctx.spad ∧ (s.ctx.flight = [] → t.ctx.x = s.ctx.x ∧ t.ctx.lines = s.ctx.lines) := by
  have hbegun : s.begun (.trap k n) k = s.operands (.trap k n) k := by
    simp only [State.begun, hready.2.1, Bool.false_eq_true, if_false]
  have hprot : Cause.swtrap ≠ .prot := fun h => nomatch h
  obtain ⟨m, hclosed, hflight, hissue⟩ := issue_faultsPast s (.trap k n) k anyStrand false noCheck
    (fun s => .after s .swtrap (zimm n)) _ .swtrap _ (.inl hready) rfl rfl (.of_ctx rfl) ((begun_keeps s _ k).2.2.2.2.2.trans hb) rfl
  rw [hbegun] at hclosed hflight
  have hcan' : m.canTrap := canTrap_of_closed hclosed (by simpa only [State.canTrap, operands_csr] using hcan)
  obtain ⟨htook, hspad, hx⟩ := enterTrapPast_tookTrap m s.ctx.cur .swtrap (zimm n) (m.strand s.ctx.cur).pc
    (BitVec.ofNat 32 (encodeWord (.trap k n))) _ hcan' hprot
  refine ⟨m, _, congrArg Host.Outcome.next hissue, hclosed.closes, htook, ?_, fun hf => ?_⟩
  · exact hspad.trans ((congrArg Ctx.spad hclosed.kept.2 :).trans (operands_spad s _ k))
  · have hnone := hflight ((operands_flight s _ k).trans hf)
    exact ⟨(hx hnone).trans (hclosed.x.trans (operands_x s _ k)),
      (enterTrapPast_lines m _ _ hprot hcan' hnone).trans (hclosed.lines.trans (operands_lines s _ k))⟩

/-! ### ERET (R215) -/

/-- What releasing a held queue may change of a context. -/
def Ctx.released (c d : Ctx) : Prop :=
  d = { c with held := d.held, ecount := d.ecount, latch := d.latch, newNext := d.newNext, newPrev := d.newPrev,
               outNext := d.outNext, outPrev := d.outPrev }

theorem Ctx.released.trans {c d e : Ctx} (h : c.released d) (g : d.released e) : c.released e :=
  Eq.trans g (congrArg (fun z : Ctx => { z with
    held := e.held, ecount := e.ecount, latch := e.latch, newNext := e.newNext, newPrev := e.newPrev, outNext := e.outNext,
    outPrev := e.outPrev }) h)

/-- The queue of one engine is released, if its fault was delivered (R164, R215). -/
def Ctx.releaseOne (c : Ctx) (i : Nat) : Ctx :=
  match Quad.get c.held i with
  | some h =>
    if h.delivered then
      let c := { c with held := c.held.set i none }
      if h.after then c
      else { c with ecount := c.ecount + 1, latch := true }.land (Strand.ofNum h.ent.sstr.toNat) h.ent.qp h.ent.qn
        { clk := { h.ent.clk with e := c.ecount + 1 }, acq := false }
    else c
  | none => c

theorem releaseOne_released (c : Ctx) (i : Nat) : c.released (c.releaseOne i) := by
  unfold Ctx.releaseOne
  split
  · split
    · dsimp only
      split <;> rfl
    · rfl
  · rfl

theorem releaseHeld_eq (c : Ctx) : c.releaseHeld = [0, 1, 2, 3].foldl Ctx.releaseOne c := by
  unfold Ctx.releaseHeld
  rfl

theorem releaseHeld_released (c : Ctx) : c.released c.releaseHeld := by
  rw [releaseHeld_eq]
  exact (((releaseOne_released c 0).trans (releaseOne_released _ 1)).trans (releaseOne_released _ 2)).trans (releaseOne_released _ 3)

/-- The context as its frame restores it. -/
def Ctx.restored (c : Ctx) (f : Frame) : Ctx :=
  { c with
    lockstep := f.lockstep, frame := none, hold := 9, holdFor := .trap, ported := false,
    strands := ⟨c.strands.q0.restore f.strands.q0, c.strands.q1.restore f.strands.q1,
                c.strands.q2.restore f.strands.q2, c.strands.q3.restore f.strands.q3⟩ }

/-- A precise trap's handler has chosen where the trapping strand, or the bundle, goes on. -/
def Ctx.resumed (c : Ctx) (f : Frame) : Ctx :=
  if c.csr.eng then c.restored f
  else if f.lockstep then
    if bundleOf c.csr.tpc = f.strands.q0.pc then c.restored f
    else Ctx.mstrand { (c.restored f) with strands := (c.restored f).strands.map (fun (t : StrandSt) =>
      { t with pc := bundleOf c.csr.tpc }) } .c (fun t => { t with xfer := f.after })
  else (c.restored f).mstrand (Strand.ofNum (bitsOf c.csr.tstrand 1 0))
    (fun t => if t.pc = c.csr.tpc then t else { t with pc := c.csr.tpc, xfer := f.after })

theorem resumed_frame (c : Ctx) (f : Frame) : c.resumed f = { (c.restored f) with strands := (c.resumed f).strands } := by
  unfold Ctx.resumed
  split
  · rfl
  · split
    · split <;> rfl
    · rfl

theorem returnTrap_ctx (s : State) (f : Frame) (h : s.ctx.frame = some f) :
    s.returnTrap.ctx = ({ (s.ctx.resumed f) with
      csr := { s.ctx.csr with tcause := setBits s.ctx.csr.tcause 9 9 0 } } : Ctx).releaseHeld := by
  unfold State.returnTrap
  simp only [h, trace_ctx, State.mctx_ctx, State.mcsr_ctx]
  refine congrArg Ctx.releaseHeld ?_
  unfold Ctx.resumed
  split
  · rfl
  · split
    · split <;> rfl
    · rfl

theorem bitOf_cleared (w : Word) : bitOf (setBits w 9 9 0) 9 = false := by
  simp [bitOf, setBits]
  omega

/-- What the return restores, and what it leaves. -/
theorem returnTrap_keeps (s : State) (f : Frame) (h : s.ctx.frame = some f) :
    s.returnTrap.ctx.csr.act = false ∧ s.returnTrap.ctx.frame = none ∧ s.returnTrap.ctx.lockstep = f.lockstep ∧
      s.returnTrap.ctx.hold = 9 ∧ s.returnTrap.ctx.x = s.ctx.x ∧ s.returnTrap.ctx.lines = s.ctx.lines ∧
      s.returnTrap.ctx.vp = s.ctx.vp ∧ s.returnTrap.ctx.strands = (s.ctx.resumed f).strands := by
  have hreleased := releaseHeld_released { (s.ctx.resumed f) with
    csr := { s.ctx.csr with tcause := setBits s.ctx.csr.tcause 9 9 0 } }
  rw [returnTrap_ctx s f h, hreleased, resumed_frame]
  exact ⟨bitOf_cleared _, rfl, rfl, rfl, rfl, rfl, rfl, rfl⟩

theorem restored_strand (c : Ctx) (f : Frame) (j : Strand) : ((c.restored f).strands.get j.num).frame = f.strands.get j.num := by
  cases j <;> rfl

/-- A strand after the return: the frame's, but where a precise trap's handler goes on elsewhere. -/
theorem resumed_strand (c : Ctx) (f : Frame) (j : Strand) :
    ((c.resumed f).strands.get j.num).frame =
      if c.csr.eng then f.strands.get j.num
      else if f.lockstep then
        if bundleOf c.csr.tpc = f.strands.q0.pc then f.strands.get j.num
        else { f.strands.get j.num with
               pc := bundleOf c.csr.tpc, xfer := if j = .c then f.after else (f.strands.get j.num).xfer }
      else if j ≠ Strand.ofNum (bitsOf c.csr.tstrand 1 0) ∨ (f.strands.get j.num).pc = c.csr.tpc then f.strands.get j.num
      else { f.strands.get j.num with pc := c.csr.tpc, xfer := f.after } := by
  have hrestored := restored_strand c f j
  unfold Ctx.resumed
  split
  · exact hrestored
  · split
    · split
      · exact hrestored
      · cases j <;> rfl
    · by_cases hj : j = Strand.ofNum (bitsOf c.csr.tstrand 1 0)
      · have hpc : ((c.restored f).strands.get j.num).pc = (f.strands.get j.num).pc := congrArg FrameStrand.pc hrestored
        rw [← hj]
        simp only [Ctx.mstrand, Quad.get_set_same, ne_eq, not_true_eq_false, false_or, hpc]
        split
        · exact hrestored
        · rw [← hrestored]
          rfl
      · simp only [Ctx.mstrand, Quad.get_set_ne _ _ _ _ hj, ne_eq, hj, not_false_eq_true, true_or, if_true, hrestored]

theorem eretPlace_none (s : State) (ha : s.ctx.csr.act = true) (hl : s.ctx.lockstep = true) : eretPlace s.bump = none := by
  simp only [eretPlace, State.bump_ctx, ha, hl, Bool.true_eq_false, or_self, if_false]

theorem eret_returns (k : Ctl) (s : State) (f : Frame) (hb : s.bundle = false) (hready : s.ready (.eret k) k onlyC true)
    (ha : s.ctx.csr.act = true) (hl : s.ctx.lockstep = true) (hframe : s.ctx.frame = some f) :
    ∃ t, exec (.eret k) s = .next t ∧ t.ctx.csr.act = false ∧ t.ctx.frame = none ∧ t.ctx.lockstep = f.lockstep ∧
      t.ctx.hold = 9 ∧ t.ctx.x = s.ctx.x ∧ t.ctx.lines = s.ctx.lines ∧ t.ctx.vp = s.ctx.vp ∧
      ∃ c : Ctx, c.csr = s.ctx.csr ∧ t.ctx.strands = (c.resumed f).strands := by
  have hbegun : s.begun (.eret k) k = s.operands (.eret k) k := by
    simp only [State.begun, hready.2.1, Bool.false_eq_true, if_false]
  obtain ⟨v, hv, hclosed⟩ := issue_leaves s (.eret k) k onlyC true eretPlace (fun s => .leave s .eret) _ _ (.inl hready)
    (eretPlace_none s ha hl) rfl (.of_ctx rfl) ((begun_keeps s _ k).2.2.2.2.2.trans hb)
  rw [hbegun] at hclosed
  have hframe' : v.ctx.frame = some f := (congrArg Ctx.frame hclosed.kept.2 :).trans ((operands_frame s _ k).trans hframe)
  have hcsr : v.ctx.csr = s.ctx.csr := (congrArg Ctx.csr hclosed.kept.2 :).trans (operands_csr s _ k)
  obtain ⟨hact, hnone, hlock, hhold, hx, hlines, hvp, hstrands⟩ :=
    returnTrap_keeps (v.mctx (fun c => { c with cur := .c })) f hframe'
  exact ⟨_, congrArg Host.Outcome.next hv, hact, hnone, hlock, hhold, hx.trans (hclosed.x.trans (operands_x s _ k)),
    hlines.trans (hclosed.lines.trans (operands_lines s _ k)), hvp.trans (hclosed.vp.trans (operands_vp s _ k)),
    { v.ctx with cur := .c }, hcsr, hstrands⟩

/-- Settles O32: TRAP past its word, ERET by the strands that its frame restores. -/
theorem trapAndReturn : Obligations.TrapAndReturn := by
  unfold Obligations.TrapAndReturn
  refine fun k n s hb => ⟨fun hready hcan => trap_takes k n s hb hready hcan, fun f hready ha hl hframe => ?_⟩
  obtain ⟨t, hexec, hact, hnone, hlock, hhold, hx, hlines, hvp, c, hcsr, hstrands⟩ := eret_returns k s f hb hready ha hl hframe
  have hstrand : ∀ j : Strand, (t.strand j).frame = ((c.resumed f).strands.get j.num).frame :=
    fun j => by simp only [State.strand, hstrands]
  refine ⟨t, hexec, hact, hnone, hlock, hhold, hx, hlines, hvp, fun heng j => ?_, fun heng hfl j => ?_, fun heng hfl j => ?_⟩
  · rw [hstrand, resumed_strand, hcsr, heng, if_pos rfl]
  · rw [hstrand, resumed_strand, hcsr, heng, hfl, if_neg Bool.false_ne_true, if_pos rfl]
  · rw [hstrand, resumed_strand, hcsr, heng, hfl, if_neg Bool.false_ne_true, if_neg Bool.false_ne_true]

end Sys2Proof.Machine
end

section
/-! PROOFS. O44: a wait that ends runs its word again. Every word the decoder can answer is an instruction that `exec` completes, so
the attempt of an apart strand is that word's own step. -/

namespace Sys2Proof.Machine

/-! ### The decoder answers words -/

/-- A decoder's answer names a word, never an event. -/
def WordOnly (r : Except Reject Instr) : Prop := ∀ i, r = .ok i → i.isWord = true

theorem wordOnly_error (r : Reject) : WordOnly (.error r) := by
  intro i h
  cases h

theorem wordOnly_wellFormedOr {i : Instr} (hi : i.isWord = true) : WordOnly (wellFormedOr i) := by
  intro j h
  unfold wellFormedOr at h
  split at h
  · cases h
    exact hi
  · cases h

/-- The scalar arithmetic decoders answer words. -/
theorem wordOnly_arithmetic (w : Nat) :
    WordOnly (decodeAlu w) ∧ WordOnly (decodeMulx w) ∧ WordOnly (decodeDivx w) ∧ WordOnly (decodeUnx w) ∧
    WordOnly (decodeAddi w) ∧ WordOnly (decodeAndi w) ∧ WordOnly (decodeOri w) ∧ WordOnly (decodeXori w) ∧
    WordOnly (decodeShi w) ∧ WordOnly (decodeSlti w) ∧ WordOnly (decodeSltiu w) ∧ WordOnly (decodeLi w) ∧
    WordOnly (decodeLsi w) ∧ WordOnly (decodeAdrx w) := by
  simp only [decodeAlu, decodeMulx, decodeDivx, decodeUnx, decodeAddi, decodeAndi, decodeOri, decodeXori, decodeShi,
      decodeSlti, decodeSltiu, decodeLi, decodeLsi, decodeAdrx]
  refine ⟨?_, ?_, ?_, ?_, ?_, ?_, ?_, ?_, ?_, ?_, ?_, ?_, ?_, ?_⟩ <;> (repeat' split) <;>
    first | exact wordOnly_error _ | exact wordOnly_wellFormedOr rfl

/-- The decoders of predicates, branches, loops and votes answer words. -/
theorem wordOnly_control (w : Nat) :
    WordOnly (decodeSel w) ∧ WordOnly (decodeCmp w) ∧ WordOnly (decodeCmpi w) ∧ WordOnly (decodePlog w) ∧
    WordOnly (decodeBpt w) ∧ WordOnly (decodeBrx w) ∧ WordOnly (decodeJd w) ∧ WordOnly (decodeLoop w) ∧
    WordOnly (decodeVote w) := by
  simp only [decodeSel, decodeCmp, decodeCmpi, decodePlog, decodeBpt, decodeBrx, decodeJd, decodeLoop, decodeVote]
  refine ⟨?_, ?_, ?_, ?_, ?_, ?_, ?_, ?_, ?_⟩ <;> (repeat' split) <;>
    first | exact wordOnly_error _ | exact wordOnly_wellFormedOr rfl

/-- The decoders of memory words answer words. -/
theorem wordOnly_memory (w : Nat) :
    WordOnly (decodeLd w) ∧ WordOnly (decodeLdp w) ∧ WordOnly (decodeSt w) ∧ WordOnly (decodeStp w) ∧
    WordOnly (decodeSmem w) ∧ WordOnly (decodeMord w) ∧ WordOnly (decodeAtom w) ∧ WordOnly (decodeAcas w) := by
  simp only [decodeLd, decodeLdp, decodeSt, decodeStp, decodeSmem, decodeMord, decodeAtom, decodeAcas]
  refine ⟨?_, ?_, ?_, ?_, ?_, ?_, ?_, ?_⟩ <;> (repeat' split) <;>
    first | exact wordOnly_error _ | exact wordOnly_wellFormedOr rfl

/-- The decoders of vector words answer words. -/
theorem wordOnly_vector (w : Nat) :
    WordOnly (decodeVf w) ∧ WordOnly (decodeVi w) ∧ WordOnly (decodeVu w) ∧ WordOnly (decodeVcvt w) ∧
    WordOnly (decodeVcmp w) ∧ WordOnly (decodeVperm w) ∧ WordOnly (decodeVred w) ∧ WordOnly (decodeVscl w) := by
  simp only [decodeVf, decodeVi, decodeVu, decodeVcvt, decodeVcmp, decodeVperm, decodeVred, decodeVscl]
  refine ⟨?_, ?_, ?_, ?_, ?_, ?_, ?_, ?_⟩ <;> (repeat' split) <;>
    first | exact wordOnly_error _ | exact wordOnly_wellFormedOr rfl

/-- The decoders of record, stencil, synchronising and system words answer words. -/
theorem wordOnly_system (w : Nat) :
    WordOnly (decodeMd w) ∧ WordOnly (decodeStc w) ∧ WordOnly (decodeSync w) ∧ WordOnly (decodeTask w) ∧
    WordOnly (decodeCsrr w) ∧ WordOnly (decodeCsrw w) ∧ WordOnly (decodeSys w) ∧ WordOnly (decodeTrap w) := by
  simp only [decodeMd, decodeStc, decodeSync, decodeTask, decodeCsrr, decodeCsrw, decodeSys, decodeTrap]
  refine ⟨?_, ?_, ?_, ?_, ?_, ?_, ?_, ?_⟩ <;> (repeat' split) <;>
    first | exact wordOnly_error _ | exact wordOnly_wellFormedOr rfl

theorem wordOnly_decodeMajor (m w : Nat) : WordOnly (decodeMajor m w) := by
  obtain ⟨hAlu, hMulx, hDivx, hUnx, hAddi, hAndi, hOri, hXori, hShi, hSlti, hSltiu, hLi, hLsi, hAdrx⟩ := wordOnly_arithmetic w
  obtain ⟨hSel, hCmp, hCmpi, hPlog, hBpt, hBrx, hJd, hLoop, hVote⟩ := wordOnly_control w
  obtain ⟨hLd, hLdp, hSt, hStp, hSmem, hMord, hAtom, hAcas⟩ := wordOnly_memory w
  obtain ⟨hVf, hVi, hVu, hVcvt, hVcmp, hVperm, hVred, hVscl⟩ := wordOnly_vector w
  obtain ⟨hMd, hStc, hSync, hTask, hCsrr, hCsrw, hSys, hTrap⟩ := wordOnly_system w
  unfold decodeMajor
  split <;> first | assumption | exact wordOnly_error _

theorem isWord_of_wordOf {w : BitVec 32} {i : Instr} (h : wordOf w = some i) : i.isWord = true := by
  have hd : decodeWord w.toNat = .ok i := by
    unfold wordOf at h
    split at h <;> simp_all
  unfold decodeWord at hd
  split at hd
  · cases hd
    rfl
  · exact wordOnly_decodeMajor _ _ i hd

theorem runWord_eq_outState (s : State) {i : Instr} (hi : i.isWord = true) : runWord i s = outState (exec i s) s := by
  cases i <;> cases hi <;> rfl

theorem exec_completes (s : State) {i : Instr} (hi : i.isWord = true) : ∃ t, exec i s = .next t := by
  cases i <;> cases hi <;> exact ⟨_, rfl⟩

/-- What the strand with the turn performs is the word's own step. -/
theorem exec_eq_runWord (s : State) {i : Instr} (hi : i.isWord = true) : exec i s = .next (runWord i s) := by
  obtain ⟨t, ht⟩ := exec_completes s hi
  rw [runWord_eq_outState s hi, ht]
  rfl

theorem isWord_of_apartWord {s u : State} {k : Strand} {i : Instr} (h : s.apartWord k = .ok (u, i)) : i.isWord = true := by
  unfold State.apartWord at h
  dsimp only at h
  split at h
  · cases h
  · split at h
    · cases h
    · cases h
    · rename_i w _
      split at h
      · cases h
      · cases h
        exact isWord_of_wordOf ‹_›

/-! ### The ends of waits -/

/-- Strand j's word goes on by the event i: its bundle's in lock-step, its own apart. -/
def GoesOn (s : State) (i : Instr) (j : Strand) : Prop :=
  ∃ t, exec i s = .next t ∧ (s.inLockstep = true → exec .bundleIssue s = .next t) ∧
    ∀ u w, s.ctx.lockstep = false → s.apartWord j = .ok (u, w) → exec w u = .next t

theorem goesOn_of_resumeWait {s : State} {i : Instr} {j : Strand} (h : exec i s = .next (s.resumeWait j)) : GoesOn s i j := by
  refine ⟨_, h, fun hl => ?_, fun u w hl hw => ?_⟩
  · have hlock : s.ctx.lockstep = true := by
      simp only [State.inLockstep, Bool.and_eq_true] at hl
      exact hl.1.1
    have hb : exec .bundleIssue s = .next (if s.inLockstep then s.bundleStep else s) := rfl
    rw [hb, if_pos hl, State.resumeWait, if_pos hlock]
  · rw [exec_eq_runWord u (isWord_of_apartWord hw), State.resumeWait, if_neg (by simp [hl]), State.apartStep, hw]

theorem takeJoin_of_domain {s : State} {dom : BitVec 10} {v : Domain} (h : s.domain dom = some v) :
    s.takeJoin dom = (s.mcsr (fun c => { c with dmr := dmrOf v.level dom, phcnt := v.count })).mctx
      (fun c => { c with joining := none }) := by
  simp only [State.takeJoin, h]

theorem boundaryRelease_creation {s : State} {dom : BitVec 10} (h : s.creationJoin = some dom) :
    exec .boundaryRelease s = .next ((s.takeJoin dom).acquire 2) := by
  change Host.Outcome.next _ = _
  rw [h]

theorem boundaryRelease_ready {s : State} (h : s.creationJoin = none) (hr : s.boundaryReady = true) :
    exec .boundaryRelease s = .next (s.resumeWait .c) := by
  change Host.Outcome.next _ = _
  rw [h, if_pos hr]

theorem phwtTimeout_passed {s : State} {k : Ctl} {d a : Reg} (h : s.waitingC = some (.phwt k d a))
    (hw : (s.xOfC a).toNat ≤ s.waitedC) : exec .phwtTimeout s = .next (s.resumeWait .c) := by
  change Host.Outcome.next _ = _
  rw [h]
  exact congrArg _ (if_pos hw)

theorem bbwtDone_done {s : State} {k : Ctl} {d a b : Reg} (h : s.waitingC = some (.bbwt k d a b)) (hd : s.barrierDone a = true) :
    exec .bbwtDone s = .next (s.resumeWait .c) := by
  change Host.Outcome.next _ = _
  rw [h]
  exact congrArg _ (if_pos hd)

theorem bbwtTimeout_passed {s : State} {k : Ctl} {d a b : Reg} (h : s.waitingC = some (.bbwt k d a b))
    (hd : s.barrierDone a = false) (hw : (s.xOfC b).toNat ≤ s.waitedC) : exec .bbwtTimeout s = .next (s.resumeWait .c) := by
  change Host.Outcome.next _ = _
  rw [h]
  exact congrArg _ (if_pos ⟨hd, hw⟩)

theorem qfullTimeout_passed {s : State} {k : Ctl} {a b : Reg} (h : s.waitingC = some (.req k a b)) (hr : s.reqtoPassed = true) :
    exec .qfullTimeout s = .next (s.resumeWait .c) := by
  change Host.Outcome.next _ = _
  rw [h]
  exact congrArg _ (if_pos hr)

theorem tspawnTimeout_passed {s : State} {k : Ctl} {d a : Reg} (h : s.waitingC = some (.tspawn k d a)) (hr : s.reqtoPassed = true) :
    exec .tspawnTimeout s = .next (s.resumeWait .c) := by
  change Host.Outcome.next _ = _
  rw [h]
  exact congrArg _ (if_pos hr)

theorem pwreqTimeout_passed {s : State} {k : Ctl} {d a : Reg} (h : s.waitingC = some (.pwreq k d a)) (hr : s.reqtoPassed = true) :
    exec .pwreqTimeout s = .next (s.resumeWait .c) := by
  change Host.Outcome.next _ = _
  rw [h]
  exact congrArg _ (if_pos hr)

theorem staleTimeout_passed {s : State} {j : Strand} (h : s.staleStrand = some j) :
    exec .staleTimeout s = .next (s.resumeWait j) := by
  change Host.Outcome.next _ = _
  rw [h]

/-- Settles O44: every end of a wait resumes the waiting word; the creation's join is `takeJoin` and an acquire. -/
theorem waitEnds : Obligations.WaitEnds := by
  intro s k d a b _
  refine ⟨fun dom v hj hv => ⟨_, boundaryRelease_creation hj, ?_⟩,
    fun hj hr => goesOn_of_resumeWait (boundaryRelease_ready hj hr),
    fun h hw => goesOn_of_resumeWait (phwtTimeout_passed h hw),
    fun h hd => goesOn_of_resumeWait (bbwtDone_done h hd),
    fun h hd hw => goesOn_of_resumeWait (bbwtTimeout_passed h hd hw),
    fun h hr => goesOn_of_resumeWait (qfullTimeout_passed h hr),
    fun h hr => goesOn_of_resumeWait (tspawnTimeout_passed h hr),
    fun h hr => goesOn_of_resumeWait (pwreqTimeout_passed h hr),
    fun j h => goesOn_of_resumeWait (staleTimeout_passed h)⟩
  rw [acquire_csr, acquire_joining, acquire_x, takeJoin_of_domain hv]
  exact ⟨rfl, rfl, rfl, rfl⟩

end Sys2Proof.Machine
end

section
/-! PROOFS. O49 fails: ACCEPT takes the device's next sequence number before the task of a continuation is numbered (R325, R338),
so the task that joins the queue carries the number after the one the statement names. -/

namespace Sys2Proof.Machine

theorem exec_continuationEnqueue {s : State} {c : Contin} (h : s.continDue = some c) :
    exec .continuationEnqueue s = .next (({ s with contins := s.contins.erase c }).acceptTask c.die c.task 0 2 none).1 := by
  change Host.Outcome.next _ = _
  rw [h]

/-- A task put into an empty queue has the sequence number the device stands at. -/
theorem putTask_seq_of_empty (s : State) (d : Nat) (t : TaskRec) (addr : Word) (near : Option Nat)
    (hempty : SMap.get [] (s.die d).queues t.queue = []) :
    ∀ k ∈ SMap.get [] ((s.putTask d t addr [] near).die d).queues t.queue, k.seq = s.jseq := by
  unfold State.putTask
  rw [die_mdie_same, hempty]
  simp only [List.nil_append, SMap.get_set_of_ne _ _ _ _ (List.cons_ne_nil _ _), if_true, List.mem_singleton]
  rintro k rfl
  rfl

/-- A continuation without declarations that a plate can hold, accepted into an empty queue, has the sequence number after that of
its ACCEPT entry. -/
theorem acceptTask_seq_of_empty (s : State) (d : Nat) (t : TaskRec) (addr : Word) (source : Nat) (near : Option Nat)
    (hcap : t.spg ≤ s.maxSpcap d) (hins : t.ins = []) (hempty : SMap.get [] (s.die d).queues t.queue = []) :
    ∀ k ∈ SMap.get [] ((s.acceptTask d t addr source near).1.die d).queues t.queue, k.seq = s.jseq + 1 := by
  rw [acceptTask_ready s d t addr source near hcap hins]
  refine putTask_seq_of_empty (s.accepting d addr source) d t addr near ?_
  have hq : ((s.accepting d addr source).die d).queues = (s.die d).queues :=
    journal_keeps s d 1 source 0 addr 0 [] Die.queues d (fun _ _ _ => rfl)
  rw [hq, hempty]

/-- The continuation of the counterexample: an empty record whose event is the doubleword at 0x600. -/
def dueContin : Contin := { task := TaskRec.blank, die := 0, kind := 0, addr := 0x600 }

/-- The device after reset with one continuation, whose doubleword is set and whose queue is empty. -/
def continuing : State :=
  { State.reset with contins := [dueContin], mem := writeBytes State.reset.mem 0x600 (toBytes 8 1) }

theorem continuing_due : continuing.continDue = some dueContin := by decide +kernel

theorem continuing_queues : (continuing.die 0).queues = [] := by decide +kernel

/-- Refutes O49: in `continuing` the task of the continuation has sequence number `jseq + 1`, not `jseq`, which its ACCEPT entry has
taken. -/
theorem not_schedulerRows : ¬ Obligations.SchedulerRows := by
  intro h
  have hrising : rising (continuing.die (0 : BitVec 2).toNat).queues := by
    change rising (continuing.die 0).queues
    rw [continuing_queues]
    exact List.Pairwise.nil
  obtain ⟨-, -, -, -, -, -, -, -, hcontin⟩ := h 0 continuing hrising
  obtain ⟨t, ht, -, -, -, haccepted⟩ := hcontin dueContin continuing_due
  obtain ⟨-, hjoins⟩ := haccepted (.inl (Nat.zero_le _))
  obtain ⟨k, hk, -, hseq, -⟩ := hjoins [] rfl
  rw [exec_continuationEnqueue continuing_due] at ht
  obtain rfl := Host.Outcome.next.inj ht
  have hempty : SMap.get [] (continuing.die 0).queues dueContin.task.queue = [] := by rw [continuing_queues]; rfl
  have hnext : k.seq = continuing.jseq + 1 :=
    acceptTask_seq_of_empty { continuing with contins := _ } 0 dueContin.task 0 2 none (Nat.zero_le _) rfl hempty k hk
  omega

end Sys2Proof.Machine
end
